-- ==== Sys2Proof/Syntax.lean ====
section
/-! DEFINITION. The instructions of the Vrelxis Fjarolmas VX9-F: one constructor per row of the opcode table.
A slot word's constructor has one argument per operand field of its encoding (R50, R52), at the field's width and
under the field letter of the table; the STOP bit (R50) marks the end of a bundle and is no part of an instruction.
A row without a slot word is a step that some agent of the device makes (distributor, copy engine, Skidder, ring,
blaze plane, host); its arguments name whom it concerns and what comes from outside the device. -/

namespace Sys2Proof

/-- The scalar unit a scalar word names by its class (R51): S0 is class 0b001, S1 is class 0b010. -/
inductive ScalarUnit where
  | s0
  | s1
  deriving DecidableEq, Repr

/-- The vector unit a vector word names by its class (R51): V0 is class 0b100, V1 is class 0b101. -/
inductive VecUnit where
  | v0
  | v1
  deriving DecidableEq, Repr

/-- What the two ends of a link exchange when training ends (R324). -/
structure LinkSetting where
  width : Nat
  laneMap : Nat
  speed : Nat
  deriving DecidableEq, Repr

/-- A PCI Express request that the device does not implement (R318). -/
inductive PcieRequest where
  | sriov
  | ats
  | pageRequest
  | atomicOp
  deriving DecidableEq, Repr

/-- The atomic that a ring slot asks for (R143, R296); `unsigned` tells the orders of a minimum and a maximum apart. -/
inductive PeerAtomic where
  | add
  | min (unsigned : Bool)
  | max (unsigned : Bool)
  | and
  | or
  | xor
  | swap
  | cas
  | fadd
  deriving DecidableEq, Repr

/-- What a ring slot asks for (R296): the block of its address, a write of bytes, or an atomic with its operand. -/
inductive PeerRequest where
  | read
  | write (bytes : List Byte)
  | atomic (op : PeerAtomic) (operand : List Byte)
  deriving DecidableEq, Repr

/-- One constructor per row of the opcode table, in the table's order; those without arguments stand last. -/
inductive Instr where
  /-- BR (R115). Branches to a PC-relative target given by a signed 22-bit word offset. -/
  | br (i : BitVec 22)
  /-- BRQ (R115). Branches when a predicate test (any, all, none, notall) holds. -/
  | brq (a : BitVec 6) (t : BitVec 2) (d : BitVec 14)
  /-- JR (R115). Jumps to the address held in a scalar register. -/
  | jr (b : BitVec 6)
  /-- CALL (R115). Branches PC-relative and writes the return address into s31. -/
  | call (i : BitVec 22)
  /-- CALLR (R115). Jumps to a register address and writes the return address into s31. -/
  | callr (b : BitVec 6)
  /-- RET (R115). Returns to the address in a scalar register, s31 by default. -/
  | ret (b : BitVec 6)
  /-- LOOP (R117). Opens a hardware loop whose count is read from a register. -/
  | loop (a : BitVec 6) (i : BitVec 16)
  /-- LOOPI (R117). Opens a hardware loop whose count is an immediate. -/
  | loopi (d : BitVec 6) (n : BitVec 16)
  /-- QUIET (R120). Marks a quiet bundle that offers a numbered cut when nothing is in flight. -/
  | quiet (b : BitVec 6) (l : BitVec 1)
  /-- SPAWN (R122). Starts a child task on a FREE sibling context with a copied argument block. -/
  | spawn (a : BitVec 6) (b : BitVec 6) (t : BitVec 2) (k : BitVec 4)
  /-- REP (R63). Delta-bundle header that repeats marked slots of the previous bundle, with displacements incremented. -/
  | rep (s : BitVec 8) (i : BitVec 14)
  /-- TRAP (R124). Commits its bundle and enters the handler with cause SOFT. -/
  | trap (i : BitVec 16)
  /-- WAITB (R151). Holds the bundle until the named pending-byte counters are at or below a limit. -/
  | waitb (k : BitVec 2) (i : BitVec 16)
  /-- TBINIT (R154). Re-initialises a task-barrier record with a new participant mask. -/
  | tbinit (n : BitVec 3) (b : BitVec 6)
  /-- TBARR (R154). Records an arrival at a task barrier and returns the phase arrived in. -/
  | tbarr (a : BitVec 6) (n : BitVec 3)
  /-- TBWAIT (R154). Waits for a barrier phase and returns its departed count. -/
  | tbwait (a : BitVec 6) (b : BitVec 6) (n : BitVec 3)
  /-- FENCE (R126). Orders the named classes of the context's memory accesses at a scope. -/
  | fence (p : BitVec 3) (m : BitVec 4)
  /-- SYSRD (R127). Reads a system register into a scalar register. -/
  | sysrd (a : BitVec 6) (n : BitVec 8)
  /-- SYSWR (R127). Writes a scalar register into a system register. -/
  | syswr (a : BitVec 6) (n : BitVec 8)
  /-- BLZ (R308). Issues a blaze claim on a slot to a group, opening or joining a set. -/
  | blz (l : BitVec 4) (b : BitVec 6) (p : BitVec 3) (g : BitVec 3)
  /-- BLZOBJ (R310). Objects to the open claim set of a slot with a value, or traps LATEOBJ. -/
  | blzobj (l : BitVec 4) (b : BitVec 6)
  /-- BLZRD (R311). Reads a claim slot's status word, winning value or largest objection value. -/
  | blzrd (a : BitVec 6) (e : BitVec 2) (l : BitVec 4)
  /-- BLZWT (R312). Waits until a slot's decision count reaches a sequence number and returns the status word. -/
  | blzwt (a : BitVec 6) (b : BitVec 6) (l : BitVec 4)
  /-- CTXSV (R266). In trap mode writes the trapped task's context image to memory. -/
  | ctxsv (b : BitVec 6)
  /-- CTXRS (R266). In trap mode reads a context image and installs it as the state that RETT resumes. -/
  | ctxrs (b : BitVec 6)
  /-- ADD (R109). Wrapping 64-bit addition. -/
  | add (u : ScalarUnit) (a : BitVec 6) (b : BitVec 6) (c : BitVec 6)
  /-- SUB (R109). Wrapping 64-bit subtraction. -/
  | sub (u : ScalarUnit) (a : BitVec 6) (b : BitVec 6) (c : BitVec 6)
  /-- ADDI (R109). Adds a sign-extended 16-bit immediate to a register. -/
  | addi (u : ScalarUnit) (a : BitVec 6) (i : BitVec 16)
  /-- MUL (R109). Low 64 bits of a product. -/
  | mul (u : ScalarUnit) (a : BitVec 6) (b : BitVec 6) (c : BitVec 6)
  /-- MULH (R109). High 64 bits of the signed 128-bit product. -/
  | mulh (u : ScalarUnit) (a : BitVec 6) (b : BitVec 6) (c : BitVec 6)
  /-- MULHU (R109). High 64 bits of the unsigned 128-bit product. -/
  | mulhu (u : ScalarUnit) (a : BitVec 6) (b : BitVec 6) (c : BitVec 6)
  /-- DIV (R111). Signed division truncated towards zero. -/
  | div (u : ScalarUnit) (a : BitVec 6) (b : BitVec 6) (c : BitVec 6)
  /-- DIVU (R111). Unsigned division. -/
  | divu (u : ScalarUnit) (a : BitVec 6) (b : BitVec 6) (c : BitVec 6)
  /-- REM (R111). Signed remainder. -/
  | rem (u : ScalarUnit) (a : BitVec 6) (b : BitVec 6) (c : BitVec 6)
  /-- REMU (R111). Unsigned remainder. -/
  | remu (u : ScalarUnit) (a : BitVec 6) (b : BitVec 6) (c : BitVec 6)
  /-- AND (R109). Bitwise AND. -/
  | and (u : ScalarUnit) (a : BitVec 6) (b : BitVec 6) (c : BitVec 6)
  /-- OR (R109). Bitwise OR. -/
  | or (u : ScalarUnit) (a : BitVec 6) (b : BitVec 6) (c : BitVec 6)
  /-- XOR (R109). Bitwise XOR. -/
  | xor (u : ScalarUnit) (a : BitVec 6) (b : BitVec 6) (c : BitVec 6)
  /-- ANDI (R109). ANDs a register with a sign-extended immediate. -/
  | andi (u : ScalarUnit) (a : BitVec 6) (i : BitVec 16)
  /-- ORI (R109). ORs a register with a zero-extended immediate. -/
  | ori (u : ScalarUnit) (a : BitVec 6) (i : BitVec 16)
  /-- XORI (R109). XORs a register with a zero-extended immediate. -/
  | xori (u : ScalarUnit) (a : BitVec 6) (i : BitVec 16)
  /-- SHL (R110). Logical left shift by a register amount. -/
  | shl (u : ScalarUnit) (a : BitVec 6) (b : BitVec 6) (c : BitVec 6)
  /-- SHR (R110). Logical right shift by a register amount. -/
  | shr (u : ScalarUnit) (a : BitVec 6) (b : BitVec 6) (c : BitVec 6)
  /-- SAR (R110). Arithmetic right shift by a register amount. -/
  | sar (u : ScalarUnit) (a : BitVec 6) (b : BitVec 6) (c : BitVec 6)
  /-- SHLI (R110). Logical left shift by an immediate. -/
  | shli (u : ScalarUnit) (a : BitVec 6) (b : BitVec 6) (n : BitVec 6)
  /-- SHRI (R110). Logical right shift by an immediate. -/
  | shri (u : ScalarUnit) (a : BitVec 6) (b : BitVec 6) (n : BitVec 6)
  /-- SARI (R110). Arithmetic right shift by an immediate. -/
  | sari (u : ScalarUnit) (a : BitVec 6) (b : BitVec 6) (n : BitVec 6)
  /-- FSHL (R110). Funnel shift left of the pair (old d, a). -/
  | fshl (u : ScalarUnit) (a : BitVec 6) (b : BitVec 6) (c : BitVec 6)
  /-- FSHR (R110). Funnel shift right of the pair (old d, a). -/
  | fshr (u : ScalarUnit) (a : BitVec 6) (b : BitVec 6) (c : BitVec 6)
  /-- CLZ (R109). Counts leading zeros. -/
  | clz (u : ScalarUnit) (a : BitVec 6) (b : BitVec 6)
  /-- CTZ (R109). Counts trailing zeros. -/
  | ctz (u : ScalarUnit) (a : BitVec 6) (b : BitVec 6)
  /-- POPC (R109). Counts set bits. -/
  | popc (u : ScalarUnit) (a : BitVec 6) (b : BitVec 6)
  /-- MIN (R109). Signed minimum. -/
  | min (u : ScalarUnit) (a : BitVec 6) (b : BitVec 6) (c : BitVec 6)
  /-- MAX (R109). Signed maximum. -/
  | max (u : ScalarUnit) (a : BitVec 6) (b : BitVec 6) (c : BitVec 6)
  /-- MINU (R109). Unsigned minimum. -/
  | minu (u : ScalarUnit) (a : BitVec 6) (b : BitVec 6) (c : BitVec 6)
  /-- MAXU (R109). Unsigned maximum. -/
  | maxu (u : ScalarUnit) (a : BitVec 6) (b : BitVec 6) (c : BitVec 6)
  /-- SEL (R109). Selects sB if the old destination is non-zero, else sC. -/
  | sel (u : ScalarUnit) (a : BitVec 6) (b : BitVec 6) (c : BitVec 6)
  /-- CMP (R112). Writes 1 if the condition holds between two registers, else 0. -/
  | cmp (u : ScalarUnit) (a : BitVec 6) (b : BitVec 6) (c : BitVec 6) (k : BitVec 4)
  /-- CMPI (R112). Compares a register with a 6-bit signed immediate. -/
  | cmpi (u : ScalarUnit) (a : BitVec 6) (b : BitVec 6) (i : BitVec 6) (k : BitVec 4)
  /-- LI (R109). Loads a sign-extended 16-bit immediate. -/
  | li (u : ScalarUnit) (a : BitVec 6) (i : BitVec 16)
  /-- LIH (R109). Shifts a register left 16 and ORs in an immediate. -/
  | lih (u : ScalarUnit) (a : BitVec 6) (i : BitVec 16)
  /-- MOV (R109). Copies a scalar register. -/
  | mov (u : ScalarUnit) (a : BitVec 6) (b : BitVec 6)
  /-- QAND (R113). Predicate AND. -/
  | qand (u : ScalarUnit) (a : BitVec 6) (b : BitVec 6) (c : BitVec 6)
  /-- QOR (R113). Predicate OR. -/
  | qor (u : ScalarUnit) (a : BitVec 6) (b : BitVec 6) (c : BitVec 6)
  /-- QXOR (R113). Predicate XOR. -/
  | qxor (u : ScalarUnit) (a : BitVec 6) (b : BitVec 6) (c : BitVec 6)
  /-- QNOT (R113). Predicate NOT. -/
  | qnot (u : ScalarUnit) (a : BitVec 6) (b : BitVec 6)
  /-- QFROMS (R113). Writes a predicate from a scalar, whole or as a broadcast of non-zero. -/
  | qfroms (u : ScalarUnit) (a : BitVec 6) (b : BitVec 6) (f : BitVec 1)
  /-- QTOS (R113). Copies a predicate into a scalar register. -/
  | qtos (u : ScalarUnit) (a : BitVec 6) (b : BitVec 6)
  /-- QPOPC (R113). Counts the set bits of a predicate. -/
  | qpopc (u : ScalarUnit) (a : BitVec 6) (b : BitVec 6)
  /-- LDB (R135). Loads a sign-extended byte. -/
  | ldb (a : BitVec 6) (b : BitVec 6) (d : BitVec 10)
  /-- LDBZ (R135). Loads a zero-extended byte. -/
  | ldbz (a : BitVec 6) (b : BitVec 6) (d : BitVec 10)
  /-- LDH (R135). Loads a sign-extended halfword. -/
  | ldh (a : BitVec 6) (b : BitVec 6) (d : BitVec 10)
  /-- LDHZ (R135). Loads a zero-extended halfword. -/
  | ldhz (a : BitVec 6) (b : BitVec 6) (d : BitVec 10)
  /-- LDW (R135). Loads a sign-extended word. -/
  | ldw (a : BitVec 6) (b : BitVec 6) (d : BitVec 10)
  /-- LDWZ (R135). Loads a zero-extended word. -/
  | ldwz (a : BitVec 6) (b : BitVec 6) (d : BitVec 10)
  /-- LDD (R135). Loads a dword. -/
  | ldd (a : BitVec 6) (b : BitVec 6) (d : BitVec 10)
  /-- STB (R135). Stores a byte. -/
  | stb (a : BitVec 6) (b : BitVec 6) (d : BitVec 10)
  /-- STH (R135). Stores a halfword. -/
  | sth (a : BitVec 6) (b : BitVec 6) (d : BitVec 10)
  /-- STW (R135). Stores a word. -/
  | stw (a : BitVec 6) (b : BitVec 6) (d : BitVec 10)
  /-- STD (R135). Stores a dword. -/
  | std (a : BitVec 6) (b : BitVec 6) (d : BitVec 10)
  /-- LDV (R137). Loads a vector image under a named format tag. -/
  | ldv (a : BitVec 6) (b : BitVec 6) (f : BitVec 6) (k : BitVec 4)
  /-- STV (R137). Stores a vector register's image, or a circular-buffer head read. -/
  | stv (a : BitVec 6) (b : BitVec 6) (d : BitVec 10)
  /-- STVB (R138). Stores a byte range of a vector image at any alignment. -/
  | stvb (a : BitVec 6) (b : BitVec 6) (c : BitVec 6)
  /-- LDVT (R140). Transposing load of a 64 x 4 element block into four registers, block by block. -/
  | ldvt (a : BitVec 6) (b : BitVec 6) (c : BitVec 6)
  /-- GATH (R141). Gathers active lanes from base plus index-vector offsets. -/
  | gath (a : BitVec 6) (b : BitVec 6) (c : BitVec 6) (m : BitVec 4)
  /-- SCAT (R141). Scatters active lanes to base plus index-vector offsets. -/
  | scat (a : BitVec 6) (b : BitVec 6) (c : BitVec 6) (m : BitVec 4)
  /-- STMSK (R142). Stores a predicate as eight bytes. -/
  | stmsk (a : BitVec 6) (b : BitVec 6) (d : BitVec 10)
  /-- LDMSK (R142). Loads eight bytes into a predicate. -/
  | ldmsk (a : BitVec 6) (b : BitVec 6) (d : BitVec 10)
  /-- GSTV (R139). Stores the active lanes of a vector, optionally scrubbing non-finite elements and counting them. -/
  | gstv (a : BitVec 6) (g : BitVec 1) (b : BitVec 5) (c : BitVec 6) (n : BitVec 4)
  /-- AADD (R143). Atomic wrapping add, returning the old word. -/
  | aadd (a : BitVec 6) (b : BitVec 6) (c : BitVec 6) (r : BitVec 1) (q : BitVec 1) (w : BitVec 1)
  /-- AMIN (R143). Atomic signed or unsigned minimum. -/
  | amin (a : BitVec 6) (b : BitVec 6) (c : BitVec 6) (v : BitVec 1) (r : BitVec 1) (q : BitVec 1) (w : BitVec 1)
  /-- AMAX (R143). Atomic signed or unsigned maximum. -/
  | amax (a : BitVec 6) (b : BitVec 6) (c : BitVec 6) (v : BitVec 1) (r : BitVec 1) (q : BitVec 1) (w : BitVec 1)
  /-- AAND (R143). Atomic AND. -/
  | aand (a : BitVec 6) (b : BitVec 6) (c : BitVec 6) (r : BitVec 1) (q : BitVec 1) (w : BitVec 1)
  /-- AOR (R143). Atomic OR. -/
  | aor (a : BitVec 6) (b : BitVec 6) (c : BitVec 6) (r : BitVec 1) (q : BitVec 1) (w : BitVec 1)
  /-- AXOR (R143). Atomic XOR. -/
  | axor (a : BitVec 6) (b : BitVec 6) (c : BitVec 6) (r : BitVec 1) (q : BitVec 1) (w : BitVec 1)
  /-- ASWP (R143). Atomic swap. -/
  | aswp (a : BitVec 6) (b : BitVec 6) (c : BitVec 6) (r : BitVec 1) (q : BitVec 1) (w : BitVec 1)
  /-- ACAS (R143). Atomic compare-and-swap against the value of sA. -/
  | acas (a : BitVec 6) (b : BitVec 6) (c : BitVec 6) (r : BitVec 1) (q : BitVec 1) (w : BitVec 1)
  /-- AFADD (R143). Atomic fp32 add of a 32-bit word. -/
  | afadd (a : BitVec 6) (b : BitVec 6) (c : BitVec 6) (r : BitVec 1) (q : BitVec 1)
  /-- ARED (R144). Contributes a value to a numbered reduction round of a window word. -/
  | ared (a : BitVec 6) (b : BitVec 6) (c : BitVec 6) (o : BitVec 2)
  /-- LDAQ (R145). Acquiring load. -/
  | ldaq (a : BitVec 6) (b : BitVec 6) (w : BitVec 1)
  /-- STRL (R145). Releasing store. -/
  | strl (a : BitVec 6) (b : BitVec 6) (w : BitVec 1)
  /-- CPY (R146). Issues a copy command on the context's channel, taking the shadow set and charging counters. -/
  | cpy (a : BitVec 6) (b : BitVec 6) (e : BitVec 1) (t : BitVec 2)
  /-- CPYSH (R147). Writes a channel shadow register or a circular-buffer descriptor. -/
  | cpysh (a : BitVec 6) (n : BitVec 6)
  /-- CBADV (R148). Advances a circular buffer's pointer, flipping tiles to the engine. -/
  | cbadv (a : BitVec 6) (i : BitVec 16)
  /-- CBWT (R148). Holds until a circular buffer has n filled or n free tiles. -/
  | cbwt (a : BitVec 6) (i : BitVec 16)
  /-- OWNF (R149). Flips the owner bits of a run of local tiles. -/
  | ownf (b : BitVec 6) (c : BitVec 6) (d : BitVec 1)
  /-- SEND (R150). Sends an active-message payload to a landing address and names a handler. -/
  | send (a : BitVec 6) (b : BitVec 6) (c : BitVec 6)
  /-- VADD (R158). Element-wise addition, rounded once. -/
  | vadd (u : VecUnit) (a : BitVec 6) (b : BitVec 6) (c : BitVec 6) (s : BitVec 1) (m : BitVec 3)
  /-- VSUB (R158). Element-wise subtraction. -/
  | vsub (u : VecUnit) (a : BitVec 6) (b : BitVec 6) (c : BitVec 6) (s : BitVec 1) (m : BitVec 3)
  /-- VMUL (R158). Element-wise multiplication. -/
  | vmul (u : VecUnit) (a : BitVec 6) (b : BitVec 6) (c : BitVec 6) (s : BitVec 1) (m : BitVec 3)
  /-- VFMA (R158). Fused multiply-add into the addend register. -/
  | vfma (u : VecUnit) (a : BitVec 6) (b : BitVec 6) (c : BitVec 6) (s : BitVec 1) (m : BitVec 3)
  /-- VFMS (R158). Fused multiply-subtract. -/
  | vfms (u : VecUnit) (a : BitVec 6) (b : BitVec 6) (c : BitVec 6) (s : BitVec 1) (m : BitVec 3)
  /-- VMIN (R158). Element-wise minimum. -/
  | vmin (u : VecUnit) (a : BitVec 6) (b : BitVec 6) (c : BitVec 6) (m : BitVec 3)
  /-- VMAX (R158). Element-wise maximum. -/
  | vmax (u : VecUnit) (a : BitVec 6) (b : BitVec 6) (c : BitVec 6) (m : BitVec 3)
  /-- VABS (R158). Element-wise absolute value. -/
  | vabs (u : VecUnit) (a : BitVec 6) (b : BitVec 6) (s : BitVec 1) (m : BitVec 3)
  /-- VNEG (R158). Element-wise negation. -/
  | vneg (u : VecUnit) (a : BitVec 6) (b : BitVec 6) (s : BitVec 1) (m : BitVec 3)
  /-- VAND (R160). Bitwise AND of lanes. -/
  | vand (u : VecUnit) (a : BitVec 6) (b : BitVec 6) (c : BitVec 6) (m : BitVec 3)
  /-- VOR (R160). Bitwise OR of lanes. -/
  | vor (u : VecUnit) (a : BitVec 6) (b : BitVec 6) (c : BitVec 6) (m : BitVec 3)
  /-- VXOR (R160). Bitwise XOR of lanes. -/
  | vxor (u : VecUnit) (a : BitVec 6) (b : BitVec 6) (c : BitVec 6) (m : BitVec 3)
  /-- VNOT (R160). Bitwise NOT of lanes. -/
  | vnot (u : VecUnit) (a : BitVec 6) (b : BitVec 6) (m : BitVec 3)
  /-- VSHL (R160). Per-lane left shift. -/
  | vshl (u : VecUnit) (a : BitVec 6) (b : BitVec 6) (c : BitVec 6) (m : BitVec 3)
  /-- VSHR (R160). Per-lane logical right shift. -/
  | vshr (u : VecUnit) (a : BitVec 6) (b : BitVec 6) (c : BitVec 6) (m : BitVec 3)
  /-- VSAR (R160). Per-lane arithmetic right shift. -/
  | vsar (u : VecUnit) (a : BitVec 6) (b : BitVec 6) (c : BitVec 6) (m : BitVec 3)
  /-- VFSHL (R160). Per-lane funnel shift left. -/
  | vfshl (u : VecUnit) (a : BitVec 6) (b : BitVec 6) (c : BitVec 6) (m : BitVec 3)
  /-- VFSHR (R160). Per-lane funnel shift right. -/
  | vfshr (u : VecUnit) (a : BitVec 6) (b : BitVec 6) (c : BitVec 6) (m : BitVec 3)
  /-- VCLZ (R160). Per-lane leading-zero count. -/
  | vclz (u : VecUnit) (a : BitVec 6) (b : BitVec 6) (m : BitVec 3)
  /-- VPOPC (R160). Per-lane set-bit count. -/
  | vpopc (u : VecUnit) (a : BitVec 6) (b : BitVec 6) (m : BitVec 3)
  /-- VCMP (R161). Per-lane comparison into a predicate. -/
  | vcmp (u : VecUnit) (a : BitVec 6) (b : BitVec 6) (c : BitVec 6) (k : BitVec 4)
  /-- VSEL (R162). Selects lanes of two vectors under a predicate. -/
  | vsel (u : VecUnit) (a : BitVec 6) (b : BitVec 6) (c : BitVec 6) (m : BitVec 4)
  /-- VCVT (R163). Converts every lane into a new tag, rounded once. -/
  | vcvt (u : VecUnit) (a : BitVec 6) (b : BitVec 6) (c : BitVec 6) (k : BitVec 1) (s : BitVec 1) (t : BitVec 2)
  /-- VRETAG (R164). Replaces a register's tag without changing lane bits. -/
  | vretag (u : VecUnit) (a : BitVec 6) (i : BitVec 16)
  /-- VEXP2 (R165). Correctly rounded 2^x per lane, on V0 only. -/
  | vexp2 (a : BitVec 6) (b : BitVec 6) (z : BitVec 1) (m : BitVec 3)
  /-- VLOG2 (R165). Correctly rounded log2 per lane, on V0 only. -/
  | vlog2 (a : BitVec 6) (b : BitVec 6) (z : BitVec 1) (m : BitVec 3)
  /-- VRCP (R165). Correctly rounded reciprocal per lane, on V0 only. -/
  | vrcp (a : BitVec 6) (b : BitVec 6) (z : BitVec 1) (m : BitVec 3)
  /-- VRSQ (R165). Correctly rounded reciprocal square root per lane, on V0 only. -/
  | vrsq (a : BitVec 6) (b : BitVec 6) (z : BitVec 1) (m : BitVec 3)
  /-- VREDSUM (R166). Exact group sum, rounded once and broadcast within each group. -/
  | vredsum (u : VecUnit) (a : BitVec 6) (b : BitVec 6) (s : BitVec 1) (g : BitVec 2)
  /-- VREDMAX (R166). Group maximum broadcast within each group. -/
  | vredmax (u : VecUnit) (a : BitVec 6) (b : BitVec 6) (g : BitVec 2)
  /-- VREDMIN (R166). Group minimum broadcast within each group. -/
  | vredmin (u : VecUnit) (a : BitVec 6) (b : BitVec 6) (g : BitVec 2)
  /-- VSCAN (R167). Inclusive or exclusive prefix sums within groups. -/
  | vscan (u : VecUnit) (a : BitVec 6) (b : BitVec 6) (s : BitVec 1) (e : BitVec 1) (g : BitVec 2)
  /-- VBCST (R168). Broadcasts one lane to every lane. -/
  | vbcst (u : VecUnit) (a : BitVec 6) (b : BitVec 6) (k : BitVec 6)
  /-- VPERM (R168). Permutes lanes by an index vector. -/
  | vperm (u : VecUnit) (a : BitVec 6) (b : BitVec 6) (c : BitVec 6)
  /-- VSLIDE (R168). Slides lanes up or down by a scalar amount. -/
  | vslide (u : VecUnit) (a : BitVec 6) (b : BitVec 6) (c : BitVec 6) (d : BitVec 1)
  /-- VEXTS (R168). Extracts one lane into a scalar register. -/
  | vexts (u : VecUnit) (a : BitVec 6) (b : BitVec 6) (c : BitVec 6) (e : BitVec 1)
  /-- VINSS (R168). Inserts a scalar into one lane. -/
  | vinss (u : VecUnit) (a : BitVec 6) (b : BitVec 6) (c : BitVec 6)
  /-- VMOV (R168). Moves lanes under a mask, or reads or writes a circular-buffer head. -/
  | vmov (u : VecUnit) (a : BitVec 6) (b : BitVec 6) (m : BitVec 3)
  /-- VLI (R169). Loads a bf16 pattern as fp32 into every lane. -/
  | vli (u : VecUnit) (a : BitVec 6) (i : BitVec 16)
  /-- VNFC (R170). Writes the counts NFC0-NFC15 into lanes 0-15. -/
  | vnfc (u : VecUnit) (a : BitVec 6)
  /-- OCLAIM (R179). Claims an operand slot with a side and a tag, waiting if another task holds it. -/
  | oclaim (e : BitVec 1) (a : BitVec 5) (t : BitVec 16)
  /-- ORELS (R179). Releases an operand slot. -/
  | orels (a : BitVec 6)
  /-- OLOAD (R180). Writes a vector image into an operand slot at an offset. -/
  | oload (a : BitVec 6) (b : BitVec 6) (c : BitVec 6)
  /-- XPUSH (R181). Latches a B-slice of an operand slot. -/
  | xpush (a : BitVec 6) (k : BitVec 8)
  /-- XSHFT (R181). Latches an A-slice of an operand slot. -/
  | xshft (a : BitVec 6) (k : BitVec 8)
  /-- XACC (R182). Performs one matrix beat into every word of a tile. -/
  | xacc (a : BitVec 6) (g : BitVec 1) (n : BitVec 4)
  /-- XDRN (R186). Drains a tile column into a vector under the destination's tag. -/
  | xdrn (a : BitVec 5) (s : BitVec 1) (m : BitVec 2) (j : BitVec 7) (t : BitVec 6)
  /-- XDRN_RAW (R186). Drains a tile column as raw accumulator words into a register pair. -/
  | xdrnRaw (a : BitVec 4) (j : BitVec 7) (t : BitVec 6)
  /-- XCLR (R183). Claims or clears a tile and sets every row exponent. -/
  | xclr (a : BitVec 6) (e : BitVec 16)
  /-- XNORM (R184). Normalises every row of a tile. -/
  | xnorm (a : BitVec 6)
  /-- XSEXP (R185). Sets the exponent of one row, or of all rows. -/
  | xsexp (a : BitVec 6) (b : BitVec 6) (c : BitVec 6) (l : BitVec 1)
  /-- XGEXP (R185). Reads a tile's row exponents into a vector. -/
  | xgexp (a : BitVec 6) (b : BitVec 6)
  /-- SKDEF (R218). Defines a sketch descriptor and occupies its tiles. -/
  | skdef (a : BitVec 4) (b : BitVec 6)
  /-- SKFOLD (R199). Appends one column pair from vector registers, bucking first if full. -/
  | skfold (g : BitVec 1) (a : BitVec 4) (b : BitVec 6) (c : BitVec 6)
  /-- SKFOLDO (R200). Appends b column pairs from operand slots. -/
  | skfoldo (g : BitVec 1) (a : BitVec 4) (n : BitVec 6) (r : BitVec 5) (l : BitVec 5)
  /-- SKSHR (R210). Starts a buck of a sketch descriptor. -/
  | skshr (a : BitVec 6)
  /-- SKACC (R211). Merges a source sketch into a destination sketch (accord). -/
  | skacc (a : BitVec 6) (b : BitVec 6)
  /-- SKRDL (R215). Reads a block of a left-factor column. -/
  | skrdl (a : BitVec 6) (b : BitVec 6) (c : BitVec 6)
  /-- SKRDR (R215). Reads a block of a right-factor column. -/
  | skrdr (a : BitVec 6) (b : BitVec 6) (c : BitVec 6)
  /-- SKWRL (R215). Writes a block of a left-factor column. -/
  | skwrl (a : BitVec 6) (b : BitVec 6) (c : BitVec 6)
  /-- SKWRR (R215). Writes a block of a right-factor column. -/
  | skwrr (a : BitVec 6) (b : BitVec 6) (c : BitVec 6)
  /-- SKSIL (R216). Reads or writes one field of the sillage register. -/
  | sksil (a : BitVec 6) (b : BitVec 6) (w : BitVec 1) (f : BitVec 2)
  /-- SKCLR (R217). Clears a sketch to a column count, or frees the descriptor. -/
  | skclr (a : BitVec 6) (b : BitVec 6) (f : BitVec 1)
  /-- SKSTAT (R218). Reads a descriptor's status word. -/
  | skstat (a : BitVec 6) (b : BitVec 6)
  /-- TXPOSE (R188). Transposes lanes within a register by a fixed shape. -/
  | txpose (a : BitVec 6) (b : BitVec 6) (s : BitVec 2)
  /-- TUNPACK (R189). Unpacks 64 elements of a packed stream into one index per lane. -/
  | tunpack (a : BitVec 6) (b : BitVec 6) (k : BitVec 5) (w : BitVec 2)
  /-- TPACK (R189). Packs one index per lane into a stream. -/
  | tpack (a : BitVec 6) (b : BitVec 6) (k : BitVec 5) (w : BitVec 2)
  /-- TEXPAND (R191). Maps indices through codebook tables into bf16. -/
  | texpand (a : BitVec 6) (b : BitVec 6) (k : BitVec 5) (n : BitVec 2)
  /-- TCTLD (R190). Loads and holds a codebook table. -/
  | tctld (a : BitVec 6) (b : BitVec 6)
  /-- TCVT (R192). VCVT executed on the transform unit. -/
  | tcvt (a : BitVec 6) (b : BitVec 6) (c : BitVec 6) (k : BitVec 1) (s : BitVec 1) (t : BitVec 2)
  /-- TINTLV (R188). Interleaves or de-interleaves the lanes of two registers. -/
  | tintlv (a : BitVec 6) (b : BitVec 6) (c : BitVec 6) (o : BitVec 2)
  /-- RESULT_LAND (R58). A result reaches its destination at the end of cycle issue + L - 1. -/
  | resultLand (core : Fin 64)
  /-- ASYNC_LOAD_LAND (R132). An asynchronous main-memory load lands and PBMEM is decremented. -/
  | asyncLoadLand (core : Fin 64) (ctx : Fin 4) (id : Nat)
  /-- STORE_ORDERING_POINT (R132). A posted store reaches its ordering point and its bytes leave PBMEM. -/
  | storeOrderingPoint (core : Fin 64) (ctx : Fin 4) (id : Nat)
  /-- QOVER (R121). A bundle that would issue with QCOUNT at or above QBOUND traps QOVER. -/
  | qover (core : Fin 64) (ctx : Fin 4)
  /-- AGING_PROMOTION (R249). A context whose wait count reaches 4,088 becomes primary. -/
  | agingPromotion (core : Fin 64)
  /-- CONTEXT_END (R23). An ended context completes once its pending-byte counters reach zero. -/
  | contextEnd (core : Fin 64) (ctx : Fin 4)
  /-- CORE_WAKE_COMPLETE (R246). A woken core becomes awake after 3 microseconds and is offered to a waiting task. -/
  | coreWakeComplete (core : Fin 64)
  /-- CORE_GATE (R246). A core idle for 8,400 cycles is gated and its stores are discarded. -/
  | coreGate (core : Fin 64)
  /-- PREEMPT_SAVE (R267). Once every member has stopped, saves each task into a frame. -/
  | preemptSave (group : Nat)
  /-- PREEMPT_RESUME (R268). Restores a pre-empted group on its own contexts once they are free. -/
  | preemptResume (group : Nat)
  /-- SWITCH_OUT_SAVE (R262). After its asynchronous loads land, writes a page-faulted context's image and sends a fault notice. -/
  | switchOutSave (core : Fin 64) (ctx : Fin 4)
  /-- INBOX_ACCEPT (R20). A landed message is accepted into the inbox when room allows. -/
  | inboxAccept (msg : Nat)
  /-- HANDLER_START (R20). Starts the oldest eligible inbox entry on a DORMANT message context. -/
  | handlerStart (core : Fin 64)
  /-- REMOTE_MESSAGE_DELIVERY (R302). Delivers a message from another device to the matching launch, or bounces it. -/
  | remoteMessageDelivery (core : Fin 64) (key : BitVec 16) (hnd : BitVec 4) (sender : BitVec 8) (rank : BitVec 7) (wkid : Dword) (addr : Dword) (payload : List Byte)
  /-- COPY_COMMAND_START (R104). A channel starts its next accepted command when the one before ends. -/
  | copyCommandStart (core : Fin 64) (ctx : Fin 4)
  /-- ENGINE_TILE_FINISH (R99). The engine finishes a ring tile, flips it and steps the pointer. -/
  | engineTileFinish (core : Fin 64) (ctx : Fin 4)
  /-- COPY_COMMAND_END (R104). A command writes its last byte; slots leave FILLING and counters are cleared. -/
  | copyCommandEnd (core : Fin 64) (ctx : Fin 4) (blocks : Nat)
  /-- COPY_FAULT (R106). A command meets a fault after acceptance, stops and latches COPYFLT. -/
  | copyFault (core : Fin 64) (ctx : Fin 4)
  /-- CIRCUIT_BLOCK_DEPART (R94). A block departs at the first open slot-table entry into its cluster. -/
  | circuitBlockDepart (core : Fin 64) (ctx : Fin 4)
  /-- CIRCUIT_BLOCK_ARRIVE (R94). A block arrives T cycles later and is written through the circuit port. -/
  | circuitBlockArrive (core : Fin 64) (ctx : Fin 4)
  /-- WAITING_WRITE_PERFORM (R285). A write waiting for sectors is performed when a freed run meets it. -/
  | waitingWritePerform (id : Nat)
  /-- SKIDDER_BOUND_EXPIRY (R287). A write still waiting after SKBND cycles is suspended, faulted, refused or dropped by writer. -/
  | skidderBoundExpiry (id : Nat)
  /-- SKETCH_BUSY_END (R208). A buck or accord completes and its results land. -/
  | sketchBusyEnd (core : Fin 64) (sk : Fin 16)
  /-- RING_SLOT_RECEIVE (R296). A destination takes a ring slot, performing it or refusing it. -/
  | ringSlotReceive (src : BitVec 7) (addr : Dword) (exposed : Bool) (data : PeerRequest) (refusals : Nat)
  /-- RING_BOUNCE (R296). A twice-refused slot returns to its source and is reported to its issuer. -/
  | ringBounce (core : Fin 64) (ctx : Fin 4) (id : Nat) (space : Bool)
  /-- FIFO_ENTRY_ARRIVE (R301). A pushed fabric FIFO entry arrives at the receiving fi. -/
  | fifoEntryArrive (core : Fin 64) (ctx : Fin 4) (fi : Fin 4) (far : Option Dword)
  /-- REDUCTION_CONTRIBUTION (R304). A station accepts a reduction contribution into its round. -/
  | reductionContribution (win : Fin 8) (addr : Dword) (op : BitVec 2) (round : Word) (rank : BitVec 7) (value : Dword)
  /-- CLAIM_RECEIVE (R309). A member receives a claim, which joins or opens a set or is discarded. -/
  | claimReceive (slot : Fin 16) (rank : BitVec 7) (pri : BitVec 3) (value : Dword) (start : Nat) (group : Dword) (win : Word)
  /-- OBJECTION_RECEIVE (R310). A member receives an accepted objection and updates NOBJ, MAXV and LOWOBJ. -/
  | objectionReceive (slot : Fin 16) (rank : BitVec 7) (value : Dword)
  /-- BLAZE_DECISION (R309). At t0 + W + B every member decides the set and records the outcome. -/
  | blazeDecision (slot : Fin 16)
  /-- MEMBER_LOST (R313). No plane message for 2 x B units marks a member lost. -/
  | memberLost (rank : BitVec 7)
  /-- LINK_TRAINING_END (R324). Link training ends, settings are compared and retraining or link-down follows. -/
  | linkTrainingEnd (link : Fin 10) (own far : LinkSetting)
  /-- FLIT_CRC_FAIL (R325). A corrupted flit is replayed from the sender's buffer. -/
  | flitCrcFail (link : Fin 10) (seq : Nat)
  /-- CREDIT_COUNT_SEND (R325). Every 512 flits a receiver sends its free-slot counts. -/
  | creditCountSend (link : Fin 10)
  /-- CREDIT_COUNT_RECEIVE (R325). A sender resets its credits from a received free-slot count. -/
  | creditCountReceive (link : Fin 10) (channel : Fin 17) (free seq : Nat)
  /-- ROUTER_FAILURE (R327). A run-time router failure resets every affected partition. -/
  | routerFailure (router : Fin 16) (clusters : BitVec 8)
  /-- CLOCK_ADJUST (R330). The management controller steps the core clock to keep power under PLIM. -/
  | clockAdjust (watts : BitVec 12)
  /-- DEVICE_RESET (R321). Reset starts stage 0 and the ROM verifies the stage-1 image. -/
  | deviceReset (verified : Bool)
  /-- STAGE2_REACHED (R321). Every part is trained, routes are set, rank is assigned and SCLK starts. -/
  | stage2Reached (rank : BitVec 7) (harvest : BitVec 16)
  /-- DOORBELL (R238). A QTAIL write publishes records or is refused with DERR. -/
  | doorbell (q : Fin 64) (value : Dword)
  /-- QUEUE_CONFIG_WRITE (R238). A QBASE or QCFG write, refused while the queue is busy or LSZ is out of range. -/
  | queueConfigWrite (q : Fin 64) (cfg : Bool) (value : Dword)
  /-- HOST_BAR2_READ (R319). A host read through BAR2 reaches H2CFG.BASE plus the offset. -/
  | hostBar2Read (off : Nat) (n : Nat)
  /-- HOST_BAR2_WRITE (R319). A host write through BAR2; local-range bytes are discarded. -/
  | hostBar2Write (off : Nat) (data : List Byte)
  /-- UNSUPPORTED_REQUEST (R318). An unsupported PCIe request completes as Unsupported Request. -/
  | unsupportedRequest (kind : PcieRequest)
  /-- DSTOP_GO (R269). Starts a device-wide stop and computes DTARGET. -/
  | dstopGo (pmax : BitVec 3)
  /-- DTARGET_WRITE (R269). Raises the target cut and releases held contexts below it. -/
  | dtargetWrite (value : Dword)
  /-- MNQH_WRITE (R272). Advances the notification head, clearing passed pages' counters. -/
  | mnqhWrite (value : Dword)
  /-- WSEL_WRITE (R264). Applies WUPD and RES to one loaded window entry and resumes switched-out contexts. -/
  | wselWrite (value : Dword)
  /-- FNFAIL (R292). Sends the named switched-out context into its handler with cause PAGE. -/
  | fnfail (value : Dword)
  /-- CMPCTL_ENABLE (R283). Enabling compression starts initialisation of metadata and the pool. -/
  | cmpctlEnable (value : Dword)
  /-- CDISC (R290). Discards exposed pages by writing zeros, freeing their sectors. -/
  | cdisc (value : Dword)
  /-- RDCLOSE (R315). Completes the expected rounds of a window over the contributions received. -/
  | rdclose (value : Dword)
  /-- HOST_CLAIM (R315). HCLCTL with GO and OBJ = 0 issues a claim as BLZ would. -/
  | hostClaim (value : Dword)
  /-- HOST_OBJECTION (R315). HCLCTL with GO and OBJ = 1 issues an objection as BLZOBJ would. -/
  | hostObjection (value : Dword)
  /-- FBIND_WRITE (R300). Writes a fabric FIFO binding, ignored while the context is held or it binds the own core. -/
  | fbindWrite (core : Fin 64) (ctx : Fin 4) (fo : Fin 4) (value : Dword)
  /-- MCKILL (R323). Kills the STOPPED task on the named core and context. -/
  | mckill (value : Dword)
  /-- SVC_FIRMWARE_RELOAD (R328). Reloads and verifies a cluster's firmware. -/
  | svcFirmwareReload (tgt : BitVec 8)
  /-- SVC_HBM_RECALIBRATION (R328). Recalibrates an HBM channel while its accesses wait. -/
  | svcHbmRecalibration (tgt : BitVec 8)
  /-- SVC_LINK_RETRAIN (R328). Retrains a ring link while traffic reverses. -/
  | svcLinkRetrain (tgt : BitVec 8)
  /-- SVC_OPERATION_END (R328). A service operation ends, sets RES and raises CMPCTL.VEC. -/
  | svcOperationEnd (ok : Bool)
  /-- PCFG_WRITE (R326). Reassigns partition resources when the affected partitions are idle. -/
  | pcfgWrite (part : Fin 8) (value : Dword)
  /-- REGISTER_WRITE (R5). A write to a host or system register with no behaviour of its own. -/
  | registerWrite (off : Nat) (value : Dword)
  /-- FETCH_FAULT (R56). A bundle fetch faults WINDOW, PAGE or PERM and the trap is taken before any slot commits. -/
  | fetchFault (core : Fin 64) (ctx : Fin 4)
  /-- ILLEGAL_BUNDLE (R56). A bundle that breaks the decode rules, for example one holding an opcode cell marked ILLEGAL, traps ILLEGAL at decode. -/
  | illegalBundle (core : Fin 64) (ctx : Fin 4)
  /-- CTXSV_CTXRS_COMPLETION (R266). The last access of a CTXSV or CTXRS reaches its ordering point, and the context leaves WAITING. -/
  | ctxsvCtxrsCompletion (core : Fin 64) (ctx : Fin 4)
  /-- LINK_FAILURE (R295). A host or ring link fails at run time, so traffic reverses around the gap and the link retrains. -/
  | linkFailure (link : Fin 10)
  /-- SLOT_RETURN (R325). A slot return carried in a flit reaches the sender, restoring a credit and releasing a fo push held for a free fi entry. -/
  | slotReturn (link : Fin 10) (channel : Fin 17)
  /-- NOP (R119). Does nothing. -/
  | nop
  /-- EXIT (R119). Ends the issuing context; in trap mode it kills the task. -/
  | exit
  /-- RETT (R259). Leaves trap mode, reloads the trap record and re-enters the bundle at TEPC, replaying snapshot entries. -/
  | rett
  /-- LAUNCH_TAKE (R243). The distributor takes a candidate record, validates it and loads its tables. -/
  | launchTake
  /-- BARRIER_GROUP_START (R17). The distributor places a barrier group whole and starts its tasks on root contexts. -/
  | barrierGroupStart
  /-- FAULT_NOTICE_WRITE (R292). Writes a fault notice at FNQT once the queue has room, and raises the vector. -/
  | faultNoticeWrite
  /-- SKIDDER_ITERATION (R289). One pass of the Skidder: compaction, eviction and balloon request. -/
  | skidderIteration
  /-- PRESENCE_BEAT (R305). Each device sends a presence beat to its group members every 10 units. -/
  | presenceBeat
  /-- SOFT_ERROR_CORRECTED (R270). A single-bit error is corrected and counted. -/
  | softErrorCorrected
  /-- STAGE1_REACHED (R321). The management controller, cluster 0 and HBM stack 0 come up. -/
  | stage1Reached
  /-- DSTOP_CANCEL (R269). Releases every held context unsaved. -/
  | dstopCancel
  /-- DSTOP_SAVE (R269). Saves every held task into frames. -/
  | dstopSave
  /-- CMPCTL_INIT_DONE (R283). Initialisation ends and BUSY clears. -/
  | cmpctlInitDone
  /-- ATTESTATION_START (R332). An ATTGO write starts an attestation report. -/
  | attestationStart
  /-- ATTESTATION_DONE (R332). The signed report is written and ATTDONE is set. -/
  | attestationDone
  deriving DecidableEq, Repr

end Sys2Proof
end

