-- ==== Sys2Proof/WellFormed.lean ====
section
/-! DEFINITION. Which operand values an instruction may have: the reserved values of each namespace (R53, R171)
and of each encoding table. A word whose fields break these traps ILLEGAL at decode (R56). -/

namespace Sys2Proof

/-- s0-s31 only. -/
def sReg (f : BitVec 6) : Bool := f.toNat < 32

/-- s0-s31, or a fabric register 32-35: fi when read, fo when written (R53, R54). -/
def sAny (f : BitVec 6) : Bool := f.toNat < 36

/-- A predicate that is read: q0-q23 or `qall` (R27, R53). -/
def qSrc (f : BitVec 6) : Bool := f.toNat ≤ 24

/-- A predicate that is written: q0-q23 (R27). -/
def qDst (f : BitVec 6) : Bool := f.toNat < 24

/-- v0-v31 only. -/
def vReg (f : BitVec 6) : Bool := f.toNat < 32

/-- v0-v31 or a circular-buffer head cb0-cb15 (R53, R171). -/
def vAny (f : BitVec 6) : Bool := f.toNat < 48

/-- A sketch descriptor sk0-sk15, or a circular-buffer handle cb0-cb15. -/
def low16 (f : BitVec 6) : Bool := f.toNat < 16

/-- A format code that R30 assigns. -/
def codeAssigned (c : Nat) : Bool :=
  c ∈ [0x00, 0x01, 0x02, 0x04, 0x05, 0x06, 0x08, 0x0A, 0x0C, 0x0D, 0x0E, 0x0F] ||
  (0x20 ≤ c && c < 0x40 && c % 8 != 0)

/-- A format code that a conversion may name as its destination (R163): assigned, and none of `idx3`, `idx4`,
`bit1`, `acw`. -/
def codeConvertible (c : BitVec 6) : Bool :=
  codeAssigned c.toNat && !(c.toNat ∈ [0x0C, 0x0D, 0x0E, 0x0F])

/-- A system register number that R128 assigns. -/
def sysAssigned (n : BitVec 8) : Bool :=
  let k := n.toNat
  k ≤ 0x06 || k == 0x10 || k == 0x11 || (0x20 ≤ k && k ≤ 0x26) || (0x30 ≤ k && k ≤ 0x3F) ||
  (0x40 ≤ k && k ≤ 0x42) || k == 0x50 || k == 0x51 || k == 0x60 || (0x68 ≤ k && k ≤ 0x70)

/-- A channel register number that R102 assigns: 0-3 and 16-31. -/
def channelAssigned (n : BitVec 6) : Bool := n.toNat < 4 || (16 ≤ n.toNat && n.toNat < 32)

/-- The operands of an instruction hold no reserved value. -/
def Instr.wellFormed : Instr → Bool
  -- C class (R115, R117, R120, R122, R126, R127, R153, R266, R308)
  | .nop | .br _ | .call _ | .exit | .rep .. | .trap _ | .rett | .waitb .. | .loopi .. => true
  | .brq a _ _ => qSrc a
  | .jr b | .callr b | .ret b | .quiet b _ | .ctxsv b | .ctxrs b | .blz _ b _ _ | .blzobj _ b => sReg b
  | .loop a _ => sReg a
  | .spawn a b _ k => sReg a && sReg b && b.toNat + k.toNat ≤ 31
  | .tbinit _ b => sAny b
  | .tbarr a _ => sAny a
  | .tbwait a b _ => sAny a && sAny b
  | .fence p m => p.toNat ≤ 5 && m.toNat != 15
  | .sysrd a n | .syswr a n => sAny a && sysAssigned n
  | .blzrd a e _ => sReg a && e.toNat != 3
  | .blzwt a b _ => sReg a && sReg b
  -- S classes (R108, R109, R113)
  | .add _ a b c | .sub _ a b c | .mul _ a b c | .mulh _ a b c | .mulhu _ a b c | .div _ a b c | .divu _ a b c
  | .rem _ a b c | .remu _ a b c | .and _ a b c | .or _ a b c | .xor _ a b c | .shl _ a b c | .shr _ a b c
  | .sar _ a b c | .min _ a b c | .max _ a b c | .minu _ a b c | .maxu _ a b c => sAny a && sAny b && sAny c
  | .fshl _ a b c | .fshr _ a b c | .sel _ a b c => sReg a && sAny b && sAny c
  | .addi _ a _ | .andi _ a _ | .ori _ a _ | .xori _ a _ | .lih _ a _ => sReg a
  | .shli _ a b _ | .shri _ a b _ | .sari _ a b _ | .clz _ a b | .ctz _ a b | .popc _ a b | .mov _ a b =>
    sAny a && sAny b
  | .cmp _ a b c k => sAny a && sAny b && sAny c && k.toNat ≤ 9
  | .cmpi _ a b _ k => sAny a && sAny b && k.toNat ≤ 9
  | .li _ a _ => sAny a
  | .qand _ a b c | .qor _ a b c | .qxor _ a b c => qDst a && qSrc b && qSrc c
  | .qnot _ a b => qDst a && qSrc b
  | .qfroms _ a b _ => qDst a && sAny b
  | .qtos _ a b | .qpopc _ a b => sAny a && qSrc b
  -- M class (R134)
  | .ldb a b _ | .ldbz a b _ | .ldh a b _ | .ldhz a b _ | .ldw a b _ | .ldwz a b _ | .ldd a b _ => sReg a && sReg b
  | .stb a b _ | .sth a b _ | .stw a b _ | .std a b _ => sAny a && sReg b
  | .ldv a b _ _ => vReg a && sReg b
  | .stv a b _ => vAny a && sReg b
  | .stvb a b c => vReg a && sReg b && sReg c
  | .ldvt a b c => a.toNat ≤ 28 && sReg b && sReg c
  | .gath a b c _ | .scat a b c _ => vReg a && sReg b && vReg c
  | .stmsk a b _ => qSrc a && sReg b
  | .ldmsk a b _ => qDst a && sReg b
  | .gstv a _ _ c _ => vReg a && qSrc c
  | .aadd a b c _ _ _ | .aand a b c _ _ _ | .aor a b c _ _ _ | .axor a b c _ _ _ | .aswp a b c _ _ _
  | .acas a b c _ _ _ => sReg a && sReg b && sReg c
  | .amin a b c _ _ _ _ | .amax a b c _ _ _ _ => sReg a && sReg b && sReg c
  | .afadd a b c _ _ => sReg a && sReg b && sReg c
  | .ared a b c o => sReg a && sReg b && sReg c && o.toNat != 3
  | .ldaq a b _ | .strl a b _ => sReg a && sReg b
  | .cpy a b _ t => sReg a && sReg b && t.toNat != 3
  | .cpysh a n => sReg a && channelAssigned n
  | .cbadv a _ | .cbwt a _ => low16 a
  | .ownf b _ _ => sReg b
  | .send a b c => sReg a && sReg b && sReg c
  -- V classes (R155-R170)
  | .vadd _ a b c _ _ | .vsub _ a b c _ _ | .vmul _ a b c _ _ | .vfma _ a b c _ _ | .vfms _ a b c _ _ =>
    vReg a && vReg b && vReg c
  | .vmin _ a b c _ | .vmax _ a b c _ | .vand _ a b c _ | .vor _ a b c _ | .vxor _ a b c _ | .vshl _ a b c _
  | .vshr _ a b c _ | .vsar _ a b c _ | .vfshl _ a b c _ | .vfshr _ a b c _ => vReg a && vReg b && vReg c
  | .vabs _ a b _ _ | .vneg _ a b _ _ => vReg a && vReg b
  | .vnot _ a b _ | .vclz _ a b _ | .vpopc _ a b _ => vReg a && vReg b
  | .vcmp _ a b c k => qDst a && vReg b && vReg c && k.toNat ≤ 6
  | .vsel _ a b c _ => vReg a && vReg b && vReg c
  | .vcvt _ a b c _ _ _ => vReg a && vReg b && codeConvertible c
  | .vretag _ a _ | .vli _ a _ | .vnfc _ a => vReg a
  | .vexp2 a b _ _ | .vlog2 a b _ _ | .vrcp a b _ _ | .vrsq a b _ _ => vReg a && vReg b
  | .vredsum _ a b _ g => vReg a && vReg b && g.toNat != 3
  | .vredmax _ a b g | .vredmin _ a b g => vReg a && vReg b && g.toNat != 3
  | .vscan _ a b _ _ g => vReg a && vReg b && g.toNat != 3
  | .vbcst _ a b _ => vReg a && vReg b
  | .vperm _ a b c => vReg a && vReg b && vReg c
  | .vslide _ a b c _ => vReg a && vReg b && sAny c
  | .vexts _ a b c _ => sAny a && vReg b && sAny c
  | .vinss _ a b c => vReg a && sAny b && sAny c
  | .vmov _ a b m => vAny a && vAny b && (vReg a || vReg b) && ((vReg a && vReg b) || m.toNat == 0)
  -- X class (R171, R177, R186, R197)
  | .oclaim .. | .xdrn .. | .xdrnRaw .. | .xclr .. | .xnorm .. | .skfoldo .. => true
  | .orels a => vReg a
  | .oload a b c => vReg a && vReg b && sAny c
  | .xpush a _ | .xshft a _ => vReg a
  | .xacc _ g n => g.toNat == 1 || n.toNat == 0
  | .xsexp _ b c l => sAny b && sAny c && (l.toNat == 0 || c.toNat == 0)
  | .xgexp a _ => vReg a
  | .skdef _ b => sAny b
  | .skfold _ _ b c => vReg b && vReg c
  | .skshr a => low16 a
  | .skacc a b => low16 a && low16 b
  | .skrdl a b c | .skrdr a b c => vReg a && low16 b && sAny c
  | .skwrl a b c | .skwrr a b c => low16 a && vReg b && sAny c
  | .sksil a b _ f => sAny a && low16 b && f.toNat != 3
  | .skclr a b f => low16 a && sAny b && (f.toNat == 0 || b.toNat == 0)
  | .skstat a b => sAny a && low16 b
  -- T class (R171, R177)
  | .txpose a b s => vReg a && vAny b && s.toNat != 3
  | .tunpack a b _ _ => vReg a && vAny b
  | .tpack a b _ w => vReg a && vAny b && w.toNat != 0
  | .texpand a b _ _ => vReg a && vAny b
  | .tctld a b => a.toNat < 4 && vAny b
  | .tcvt a b c _ _ _ => vReg a && vAny b && codeConvertible c
  | .tintlv a b c _ => vReg a && vReg b && vReg c
  -- steps that have no slot word
  | .resultLand .. | .asyncLoadLand .. | .storeOrderingPoint .. | .qover .. | .agingPromotion .. | .contextEnd ..
  | .launchTake | .barrierGroupStart | .coreWakeComplete .. | .coreGate .. | .preemptSave .. | .preemptResume ..
  | .switchOutSave .. | .faultNoticeWrite | .inboxAccept .. | .handlerStart .. | .copyCommandStart ..
  | .engineTileFinish .. | .copyCommandEnd .. | .copyFault .. | .circuitBlockDepart .. | .circuitBlockArrive ..
  | .waitingWritePerform .. | .skidderBoundExpiry .. | .skidderIteration | .sketchBusyEnd .. | .ringBounce ..
  | .fifoEntryArrive .. | .claimReceive .. | .objectionReceive .. | .blazeDecision .. | .presenceBeat ..
  | .memberLost .. | .linkTrainingEnd .. | .flitCrcFail .. | .creditCountSend .. | .creditCountReceive ..
  | .routerFailure .. | .softErrorCorrected | .clockAdjust .. | .deviceReset .. | .stage1Reached
  | .stage2Reached .. | .doorbell .. | .queueConfigWrite .. | .unsupportedRequest .. | .dstopGo .. | .dstopCancel
  | .dstopSave | .dtargetWrite .. | .mnqhWrite .. | .wselWrite .. | .fnfail .. | .cmpctlEnable .. | .cmpctlInitDone
  | .cdisc .. | .rdclose .. | .hostClaim .. | .hostObjection .. | .fbindWrite .. | .mckill ..
  | .svcFirmwareReload .. | .svcHbmRecalibration .. | .svcLinkRetrain .. | .svcOperationEnd .. | .pcfgWrite ..
  | .attestationStart | .attestationDone | .registerWrite .. | .fetchFault .. | .illegalBundle ..
  | .ctxsvCtxrsCompletion .. | .linkFailure .. | .slotReturn .. => true
  -- a message's payload is 1 to 4,096 bytes (R150); a ring slot carries one 256-byte block or one request (R296);
  -- a reduction operation of 3 is reserved (R144); BAR2 holds at most 1 TiB (R319)
  | .remoteMessageDelivery _ _ _ _ _ _ _ payload => 1 ≤ payload.length && payload.length ≤ 4096
  | .ringSlotReceive _ addr _ data _ =>
    match data with
    | .read => true
    | .write bytes => 1 ≤ bytes.length && bytes.length ≤ 256
    | .atomic p operand =>
      let n := if p = .cas then operand.length / 2 else operand.length
      (n = 4 || (n = 8 && p ≠ .fadd)) && addr.toNat % n = 0 && (p ≠ .cas || operand.length % 8 = 0)
  | .reductionContribution _ _ op _ _ _ => op.toNat != 3
  | .hostBar2Read off n => off + n ≤ 2 ^ 40
  | .hostBar2Write off data => off + data.length ≤ 2 ^ 40

end Sys2Proof
end

