-- ==== Sys2Proof/Decode.lean ====
section
/-! DEFINITION. Slot words and their meaning as instructions (R50-R53, R66 and the encoding tables): a decoder that
is total on every word and refuses the rest, the encoder written from the same tables, and the word by which the
opcode table asks for an instruction. -/

namespace Sys2Proof

/-- The class of a scalar unit (R51). -/
def ScalarUnit.cls : ScalarUnit → BitVec 3
  | .s0 => 1#3
  | .s1 => 2#3

/-- The class of a vector unit (R51). -/
def VecUnit.cls : VecUnit → BitVec 3
  | .v0 => 4#3
  | .v1 => 5#3

/-- A slot word without its STOP bit: CLASS, OP and OPND (R50). -/
def slotWord (cls : BitVec 3) (op : BitVec 6) (opnd : BitVec 22) : Word := 0#1 ++ cls ++ op ++ opnd

/-- The STOP bit of a slot word (R50). -/
def wordStop (w : Word) : Bool := w.getLsbD 31

/-- CLASS of a slot word (R50): `Unit(w)` of R65. -/
def wordClass (w : Word) : BitVec 3 := w.extractLsb' 28 3

/-- OP of a slot word (R50): `Op(w)` of R65. -/
def wordOp (w : Word) : BitVec 6 := w.extractLsb' 22 6

/-- OPND of a slot word (R50). -/
def wordOpnd (w : Word) : BitVec 22 := w.extractLsb' 0 22

/-- The word with its STOP bit cleared. -/
def clearStop (w : Word) : Word := slotWord (wordClass w) (wordOp w) (wordOpnd w)

/-- The word with its STOP bit set. -/
def setStop (w : Word) : Word := w ||| 0x80000000#32

/-- The slot word of an instruction, STOP clear; none for a step that has no slot word. -/
def encode : Instr → Option Word
  | .nop => some (slotWord 0#3 0#6 (0#22))
  | .br i => some (slotWord 0#3 1#6 (i))
  | .brq a t d => some (slotWord 0#3 2#6 (a ++ t ++ d))
  | .jr b => some (slotWord 0#3 3#6 (0#6 ++ b ++ 0#10))
  | .call i => some (slotWord 0#3 4#6 (i))
  | .callr b => some (slotWord 0#3 5#6 (0#6 ++ b ++ 0#10))
  | .ret b => some (slotWord 0#3 6#6 (0#6 ++ b ++ 0#10))
  | .loop a i => some (slotWord 0#3 7#6 (a ++ i))
  | .loopi d n => some (slotWord 0#3 8#6 (d ++ n))
  | .exit => some (slotWord 0#3 9#6 (0#22))
  | .quiet b l => some (slotWord 0#3 10#6 (0#6 ++ b ++ 0#9 ++ l))
  | .spawn a b t k => some (slotWord 0#3 11#6 (a ++ b ++ 0#4 ++ t ++ k))
  | .rep s i => some (slotWord 0#3 12#6 (s ++ i))
  | .trap i => some (slotWord 0#3 13#6 (0#6 ++ i))
  | .rett => some (slotWord 0#3 14#6 (0#22))
  | .waitb k i => some (slotWord 0#3 15#6 (0#4 ++ k ++ i))
  | .tbinit n b => some (slotWord 0#3 16#6 (0#3 ++ n ++ b ++ 0#10))
  | .tbarr a n => some (slotWord 0#3 17#6 (a ++ 0#9 ++ n ++ 0#4))
  | .tbwait a b n => some (slotWord 0#3 18#6 (a ++ b ++ 0#3 ++ n ++ 0#4))
  | .fence p m => some (slotWord 0#3 19#6 (0#3 ++ p ++ 0#12 ++ m))
  | .sysrd a n => some (slotWord 0#3 20#6 (a ++ 0#8 ++ n))
  | .syswr a n => some (slotWord 0#3 21#6 (a ++ 0#8 ++ n))
  | .blz l b p g => some (slotWord 0#3 22#6 (0#2 ++ l ++ b ++ p ++ g ++ 0#4))
  | .blzobj l b => some (slotWord 0#3 23#6 (0#2 ++ l ++ b ++ 0#10))
  | .blzrd a e l => some (slotWord 0#3 24#6 (a ++ 0#10 ++ e ++ l))
  | .blzwt a b l => some (slotWord 0#3 25#6 (a ++ b ++ 0#6 ++ l))
  | .ctxsv b => some (slotWord 0#3 26#6 (0#6 ++ b ++ 0#10))
  | .ctxrs b => some (slotWord 0#3 27#6 (0#6 ++ b ++ 0#10))
  | .add u a b c => some (slotWord u.cls 0#6 (a ++ b ++ c ++ 0#4))
  | .sub u a b c => some (slotWord u.cls 1#6 (a ++ b ++ c ++ 0#4))
  | .addi u a i => some (slotWord u.cls 2#6 (a ++ i))
  | .mul u a b c => some (slotWord u.cls 3#6 (a ++ b ++ c ++ 0#4))
  | .mulh u a b c => some (slotWord u.cls 4#6 (a ++ b ++ c ++ 0#4))
  | .mulhu u a b c => some (slotWord u.cls 5#6 (a ++ b ++ c ++ 0#4))
  | .div u a b c => some (slotWord u.cls 6#6 (a ++ b ++ c ++ 0#4))
  | .divu u a b c => some (slotWord u.cls 7#6 (a ++ b ++ c ++ 0#4))
  | .rem u a b c => some (slotWord u.cls 8#6 (a ++ b ++ c ++ 0#4))
  | .remu u a b c => some (slotWord u.cls 9#6 (a ++ b ++ c ++ 0#4))
  | .and u a b c => some (slotWord u.cls 10#6 (a ++ b ++ c ++ 0#4))
  | .or u a b c => some (slotWord u.cls 11#6 (a ++ b ++ c ++ 0#4))
  | .xor u a b c => some (slotWord u.cls 12#6 (a ++ b ++ c ++ 0#4))
  | .andi u a i => some (slotWord u.cls 13#6 (a ++ i))
  | .ori u a i => some (slotWord u.cls 14#6 (a ++ i))
  | .xori u a i => some (slotWord u.cls 15#6 (a ++ i))
  | .shl u a b c => some (slotWord u.cls 16#6 (a ++ b ++ c ++ 0#4))
  | .shr u a b c => some (slotWord u.cls 17#6 (a ++ b ++ c ++ 0#4))
  | .sar u a b c => some (slotWord u.cls 18#6 (a ++ b ++ c ++ 0#4))
  | .shli u a b n => some (slotWord u.cls 19#6 (a ++ b ++ n ++ 0#4))
  | .shri u a b n => some (slotWord u.cls 20#6 (a ++ b ++ n ++ 0#4))
  | .sari u a b n => some (slotWord u.cls 21#6 (a ++ b ++ n ++ 0#4))
  | .fshl u a b c => some (slotWord u.cls 22#6 (a ++ b ++ c ++ 0#4))
  | .fshr u a b c => some (slotWord u.cls 23#6 (a ++ b ++ c ++ 0#4))
  | .clz u a b => some (slotWord u.cls 24#6 (a ++ b ++ 0#10))
  | .ctz u a b => some (slotWord u.cls 25#6 (a ++ b ++ 0#10))
  | .popc u a b => some (slotWord u.cls 26#6 (a ++ b ++ 0#10))
  | .min u a b c => some (slotWord u.cls 27#6 (a ++ b ++ c ++ 0#4))
  | .max u a b c => some (slotWord u.cls 28#6 (a ++ b ++ c ++ 0#4))
  | .minu u a b c => some (slotWord u.cls 29#6 (a ++ b ++ c ++ 0#4))
  | .maxu u a b c => some (slotWord u.cls 30#6 (a ++ b ++ c ++ 0#4))
  | .sel u a b c => some (slotWord u.cls 31#6 (a ++ b ++ c ++ 0#4))
  | .cmp u a b c k => some (slotWord u.cls 32#6 (a ++ b ++ c ++ k))
  | .cmpi u a b i k => some (slotWord u.cls 33#6 (a ++ b ++ i ++ k))
  | .li u a i => some (slotWord u.cls 34#6 (a ++ i))
  | .lih u a i => some (slotWord u.cls 35#6 (a ++ i))
  | .mov u a b => some (slotWord u.cls 36#6 (a ++ b ++ 0#10))
  | .qand u a b c => some (slotWord u.cls 37#6 (a ++ b ++ c ++ 0#4))
  | .qor u a b c => some (slotWord u.cls 38#6 (a ++ b ++ c ++ 0#4))
  | .qxor u a b c => some (slotWord u.cls 39#6 (a ++ b ++ c ++ 0#4))
  | .qnot u a b => some (slotWord u.cls 40#6 (a ++ b ++ 0#10))
  | .qfroms u a b f => some (slotWord u.cls 41#6 (a ++ b ++ 0#9 ++ f))
  | .qtos u a b => some (slotWord u.cls 42#6 (a ++ b ++ 0#10))
  | .qpopc u a b => some (slotWord u.cls 43#6 (a ++ b ++ 0#10))
  | .ldb a b d => some (slotWord 3#3 0#6 (a ++ b ++ d))
  | .ldbz a b d => some (slotWord 3#3 1#6 (a ++ b ++ d))
  | .ldh a b d => some (slotWord 3#3 2#6 (a ++ b ++ d))
  | .ldhz a b d => some (slotWord 3#3 3#6 (a ++ b ++ d))
  | .ldw a b d => some (slotWord 3#3 4#6 (a ++ b ++ d))
  | .ldwz a b d => some (slotWord 3#3 5#6 (a ++ b ++ d))
  | .ldd a b d => some (slotWord 3#3 6#6 (a ++ b ++ d))
  | .stb a b d => some (slotWord 3#3 7#6 (a ++ b ++ d))
  | .sth a b d => some (slotWord 3#3 8#6 (a ++ b ++ d))
  | .stw a b d => some (slotWord 3#3 9#6 (a ++ b ++ d))
  | .std a b d => some (slotWord 3#3 10#6 (a ++ b ++ d))
  | .ldv a b f k => some (slotWord 3#3 11#6 (a ++ b ++ f ++ k))
  | .stv a b d => some (slotWord 3#3 12#6 (a ++ b ++ d))
  | .stvb a b c => some (slotWord 3#3 13#6 (a ++ b ++ c ++ 0#4))
  | .ldvt a b c => some (slotWord 3#3 14#6 (a ++ b ++ c ++ 0#4))
  | .gath a b c m => some (slotWord 3#3 15#6 (a ++ b ++ c ++ m))
  | .scat a b c m => some (slotWord 3#3 16#6 (a ++ b ++ c ++ m))
  | .stmsk a b d => some (slotWord 3#3 17#6 (a ++ b ++ d))
  | .ldmsk a b d => some (slotWord 3#3 18#6 (a ++ b ++ d))
  | .gstv a g b c n => some (slotWord 3#3 19#6 (a ++ g ++ b ++ c ++ n))
  | .aadd a b c r q w => some (slotWord 3#3 20#6 (a ++ b ++ c ++ 0#1 ++ r ++ q ++ w))
  | .amin a b c v r q w => some (slotWord 3#3 21#6 (a ++ b ++ c ++ v ++ r ++ q ++ w))
  | .amax a b c v r q w => some (slotWord 3#3 22#6 (a ++ b ++ c ++ v ++ r ++ q ++ w))
  | .aand a b c r q w => some (slotWord 3#3 23#6 (a ++ b ++ c ++ 0#1 ++ r ++ q ++ w))
  | .aor a b c r q w => some (slotWord 3#3 24#6 (a ++ b ++ c ++ 0#1 ++ r ++ q ++ w))
  | .axor a b c r q w => some (slotWord 3#3 25#6 (a ++ b ++ c ++ 0#1 ++ r ++ q ++ w))
  | .aswp a b c r q w => some (slotWord 3#3 26#6 (a ++ b ++ c ++ 0#1 ++ r ++ q ++ w))
  | .acas a b c r q w => some (slotWord 3#3 27#6 (a ++ b ++ c ++ 0#1 ++ r ++ q ++ w))
  | .afadd a b c r q => some (slotWord 3#3 28#6 (a ++ b ++ c ++ 0#1 ++ r ++ q ++ 1#1))
  | .ared a b c o => some (slotWord 3#3 29#6 (a ++ b ++ c ++ 0#2 ++ o))
  | .ldaq a b w => some (slotWord 3#3 30#6 (a ++ b ++ 0#9 ++ w))
  | .strl a b w => some (slotWord 3#3 31#6 (a ++ b ++ 0#9 ++ w))
  | .cpy a b e t => some (slotWord 3#3 32#6 (a ++ b ++ 0#3 ++ e ++ t ++ 0#4))
  | .cpysh a n => some (slotWord 3#3 33#6 (a ++ 0#10 ++ n))
  | .cbadv a i => some (slotWord 3#3 34#6 (a ++ i))
  | .cbwt a i => some (slotWord 3#3 35#6 (a ++ i))
  | .ownf b c d => some (slotWord 3#3 36#6 (0#6 ++ b ++ c ++ 0#3 ++ d))
  | .send a b c => some (slotWord 3#3 37#6 (a ++ b ++ c ++ 0#4))
  | .vadd u a b c s m => some (slotWord u.cls 0#6 (a ++ b ++ c ++ s ++ m))
  | .vsub u a b c s m => some (slotWord u.cls 1#6 (a ++ b ++ c ++ s ++ m))
  | .vmul u a b c s m => some (slotWord u.cls 2#6 (a ++ b ++ c ++ s ++ m))
  | .vfma u a b c s m => some (slotWord u.cls 3#6 (a ++ b ++ c ++ s ++ m))
  | .vfms u a b c s m => some (slotWord u.cls 4#6 (a ++ b ++ c ++ s ++ m))
  | .vmin u a b c m => some (slotWord u.cls 5#6 (a ++ b ++ c ++ 0#1 ++ m))
  | .vmax u a b c m => some (slotWord u.cls 6#6 (a ++ b ++ c ++ 0#1 ++ m))
  | .vabs u a b s m => some (slotWord u.cls 7#6 (a ++ b ++ 0#6 ++ s ++ m))
  | .vneg u a b s m => some (slotWord u.cls 8#6 (a ++ b ++ 0#6 ++ s ++ m))
  | .vand u a b c m => some (slotWord u.cls 9#6 (a ++ b ++ c ++ 0#1 ++ m))
  | .vor u a b c m => some (slotWord u.cls 10#6 (a ++ b ++ c ++ 0#1 ++ m))
  | .vxor u a b c m => some (slotWord u.cls 11#6 (a ++ b ++ c ++ 0#1 ++ m))
  | .vnot u a b m => some (slotWord u.cls 12#6 (a ++ b ++ 0#7 ++ m))
  | .vshl u a b c m => some (slotWord u.cls 13#6 (a ++ b ++ c ++ 0#1 ++ m))
  | .vshr u a b c m => some (slotWord u.cls 14#6 (a ++ b ++ c ++ 0#1 ++ m))
  | .vsar u a b c m => some (slotWord u.cls 15#6 (a ++ b ++ c ++ 0#1 ++ m))
  | .vfshl u a b c m => some (slotWord u.cls 16#6 (a ++ b ++ c ++ 0#1 ++ m))
  | .vfshr u a b c m => some (slotWord u.cls 17#6 (a ++ b ++ c ++ 0#1 ++ m))
  | .vclz u a b m => some (slotWord u.cls 18#6 (a ++ b ++ 0#7 ++ m))
  | .vpopc u a b m => some (slotWord u.cls 19#6 (a ++ b ++ 0#7 ++ m))
  | .vcmp u a b c k => some (slotWord u.cls 20#6 (a ++ b ++ c ++ k))
  | .vsel u a b c m => some (slotWord u.cls 21#6 (a ++ b ++ c ++ m))
  | .vcvt u a b c k s t => some (slotWord u.cls 22#6 (a ++ b ++ c ++ k ++ s ++ t))
  | .vretag u a i => some (slotWord u.cls 23#6 (a ++ i))
  | .vexp2 a b z m => some (slotWord 4#3 24#6 (a ++ b ++ 0#6 ++ z ++ m))
  | .vlog2 a b z m => some (slotWord 4#3 25#6 (a ++ b ++ 0#6 ++ z ++ m))
  | .vrcp a b z m => some (slotWord 4#3 26#6 (a ++ b ++ 0#6 ++ z ++ m))
  | .vrsq a b z m => some (slotWord 4#3 27#6 (a ++ b ++ 0#6 ++ z ++ m))
  | .vredsum u a b s g => some (slotWord u.cls 28#6 (a ++ b ++ 0#6 ++ s ++ 0#1 ++ g))
  | .vredmax u a b g => some (slotWord u.cls 29#6 (a ++ b ++ 0#8 ++ g))
  | .vredmin u a b g => some (slotWord u.cls 30#6 (a ++ b ++ 0#8 ++ g))
  | .vscan u a b s e g => some (slotWord u.cls 31#6 (a ++ b ++ 0#6 ++ s ++ e ++ g))
  | .vbcst u a b k => some (slotWord u.cls 32#6 (a ++ b ++ k ++ 0#4))
  | .vperm u a b c => some (slotWord u.cls 33#6 (a ++ b ++ c ++ 0#4))
  | .vslide u a b c d => some (slotWord u.cls 34#6 (a ++ b ++ c ++ 0#3 ++ d))
  | .vexts u a b c e => some (slotWord u.cls 35#6 (a ++ b ++ c ++ 0#3 ++ e))
  | .vinss u a b c => some (slotWord u.cls 36#6 (a ++ b ++ c ++ 0#4))
  | .vmov u a b m => some (slotWord u.cls 37#6 (a ++ b ++ 0#7 ++ m))
  | .vli u a i => some (slotWord u.cls 38#6 (a ++ i))
  | .vnfc u a => some (slotWord u.cls 39#6 (a ++ 0#16))
  | .oclaim e a t => some (slotWord 6#3 0#6 (e ++ a ++ t))
  | .orels a => some (slotWord 6#3 1#6 (a ++ 0#16))
  | .oload a b c => some (slotWord 6#3 2#6 (a ++ b ++ c ++ 0#4))
  | .xpush a k => some (slotWord 6#3 3#6 (a ++ 0#8 ++ k))
  | .xshft a k => some (slotWord 6#3 4#6 (a ++ 0#8 ++ k))
  | .xacc a g n => some (slotWord 6#3 5#6 (a ++ 0#5 ++ g ++ 0#2 ++ n ++ 0#4))
  | .xdrn a s m j t => some (slotWord 6#3 6#6 (0#1 ++ a ++ s ++ m ++ j ++ t))
  | .xdrnRaw a j t => some (slotWord 6#3 6#6 (1#1 ++ a ++ 0#4 ++ j ++ t))
  | .xclr a e => some (slotWord 6#3 7#6 (a ++ e))
  | .xnorm a => some (slotWord 6#3 8#6 (a ++ 0#16))
  | .xsexp a b c l => some (slotWord 6#3 9#6 (a ++ b ++ c ++ 0#3 ++ l))
  | .xgexp a b => some (slotWord 6#3 10#6 (a ++ b ++ 0#10))
  | .skdef a b => some (slotWord 6#3 11#6 (0#2 ++ a ++ b ++ 0#10))
  | .skfold g a b c => some (slotWord 6#3 12#6 (0#1 ++ g ++ a ++ b ++ c ++ 0#4))
  | .skfoldo g a n r l => some (slotWord 6#3 13#6 (0#1 ++ g ++ a ++ n ++ r ++ l))
  | .skshr a => some (slotWord 6#3 14#6 (a ++ 0#16))
  | .skacc a b => some (slotWord 6#3 15#6 (a ++ b ++ 0#10))
  | .skrdl a b c => some (slotWord 6#3 16#6 (a ++ b ++ c ++ 0#4))
  | .skrdr a b c => some (slotWord 6#3 17#6 (a ++ b ++ c ++ 0#4))
  | .skwrl a b c => some (slotWord 6#3 18#6 (a ++ b ++ c ++ 0#4))
  | .skwrr a b c => some (slotWord 6#3 19#6 (a ++ b ++ c ++ 0#4))
  | .sksil a b w f => some (slotWord 6#3 20#6 (a ++ b ++ 0#7 ++ w ++ f))
  | .skclr a b f => some (slotWord 6#3 21#6 (a ++ b ++ 0#9 ++ f))
  | .skstat a b => some (slotWord 6#3 22#6 (a ++ b ++ 0#10))
  | .txpose a b s => some (slotWord 7#3 0#6 (a ++ b ++ 0#8 ++ s))
  | .tunpack a b k w => some (slotWord 7#3 1#6 (a ++ b ++ 0#1 ++ k ++ 0#2 ++ w))
  | .tpack a b k w => some (slotWord 7#3 2#6 (a ++ b ++ 0#1 ++ k ++ 0#2 ++ w))
  | .texpand a b k n => some (slotWord 7#3 3#6 (a ++ b ++ 0#1 ++ k ++ 0#2 ++ n))
  | .tctld a b => some (slotWord 7#3 4#6 (a ++ b ++ 0#10))
  | .tcvt a b c k s t => some (slotWord 7#3 5#6 (a ++ b ++ c ++ k ++ s ++ t))
  | .tintlv a b c o => some (slotWord 7#3 6#6 (a ++ b ++ c ++ 0#2 ++ o))
  | .resultLand .. => none
  | .asyncLoadLand .. => none
  | .storeOrderingPoint .. => none
  | .qover .. => none
  | .agingPromotion .. => none
  | .contextEnd .. => none
  | .launchTake => none
  | .barrierGroupStart => none
  | .coreWakeComplete .. => none
  | .coreGate .. => none
  | .preemptSave .. => none
  | .preemptResume .. => none
  | .switchOutSave .. => none
  | .faultNoticeWrite => none
  | .inboxAccept .. => none
  | .handlerStart .. => none
  | .remoteMessageDelivery .. => none
  | .copyCommandStart .. => none
  | .engineTileFinish .. => none
  | .copyCommandEnd .. => none
  | .copyFault .. => none
  | .circuitBlockDepart .. => none
  | .circuitBlockArrive .. => none
  | .waitingWritePerform .. => none
  | .skidderBoundExpiry .. => none
  | .skidderIteration => none
  | .sketchBusyEnd .. => none
  | .ringSlotReceive .. => none
  | .ringBounce .. => none
  | .fifoEntryArrive .. => none
  | .reductionContribution .. => none
  | .claimReceive .. => none
  | .objectionReceive .. => none
  | .blazeDecision .. => none
  | .presenceBeat .. => none
  | .memberLost .. => none
  | .linkTrainingEnd .. => none
  | .flitCrcFail .. => none
  | .creditCountSend .. => none
  | .creditCountReceive .. => none
  | .routerFailure .. => none
  | .softErrorCorrected => none
  | .clockAdjust .. => none
  | .deviceReset .. => none
  | .stage1Reached => none
  | .stage2Reached .. => none
  | .doorbell .. => none
  | .queueConfigWrite .. => none
  | .hostBar2Read .. => none
  | .hostBar2Write .. => none
  | .unsupportedRequest .. => none
  | .dstopGo .. => none
  | .dstopCancel => none
  | .dstopSave => none
  | .dtargetWrite .. => none
  | .mnqhWrite .. => none
  | .wselWrite .. => none
  | .fnfail .. => none
  | .cmpctlEnable .. => none
  | .cmpctlInitDone => none
  | .cdisc .. => none
  | .rdclose .. => none
  | .hostClaim .. => none
  | .hostObjection .. => none
  | .fbindWrite .. => none
  | .mckill .. => none
  | .svcFirmwareReload .. => none
  | .svcHbmRecalibration .. => none
  | .svcLinkRetrain .. => none
  | .svcOperationEnd .. => none
  | .pcfgWrite .. => none
  | .attestationStart => none
  | .attestationDone => none
  | .registerWrite .. => none
  | .fetchFault .. => none
  | .illegalBundle .. => none
  | .ctxsvCtxrsCompletion .. => none
  | .linkFailure .. => none
  | .slotReturn .. => none

/-- Field extraction for the control opcodes, class 0b000 (R66). -/
def decodeControl (op : BitVec 6) (o : BitVec 22) : Option Instr :=
  match op.toNat with
  | 0 => some (.nop)
  | 1 => some (.br (o.extractLsb' 0 22))
  | 2 => some (.brq (o.extractLsb' 16 6) (o.extractLsb' 14 2) (o.extractLsb' 0 14))
  | 3 => some (.jr (o.extractLsb' 10 6))
  | 4 => some (.call (o.extractLsb' 0 22))
  | 5 => some (.callr (o.extractLsb' 10 6))
  | 6 => some (.ret (o.extractLsb' 10 6))
  | 7 => some (.loop (o.extractLsb' 16 6) (o.extractLsb' 0 16))
  | 8 => some (.loopi (o.extractLsb' 16 6) (o.extractLsb' 0 16))
  | 9 => some (.exit)
  | 10 => some (.quiet (o.extractLsb' 10 6) (o.extractLsb' 0 1))
  | 11 => some (.spawn (o.extractLsb' 16 6) (o.extractLsb' 10 6) (o.extractLsb' 4 2) (o.extractLsb' 0 4))
  | 12 => some (.rep (o.extractLsb' 14 8) (o.extractLsb' 0 14))
  | 13 => some (.trap (o.extractLsb' 0 16))
  | 14 => some (.rett)
  | 15 => some (.waitb (o.extractLsb' 16 2) (o.extractLsb' 0 16))
  | 16 => some (.tbinit (o.extractLsb' 16 3) (o.extractLsb' 10 6))
  | 17 => some (.tbarr (o.extractLsb' 16 6) (o.extractLsb' 4 3))
  | 18 => some (.tbwait (o.extractLsb' 16 6) (o.extractLsb' 10 6) (o.extractLsb' 4 3))
  | 19 => some (.fence (o.extractLsb' 16 3) (o.extractLsb' 0 4))
  | 20 => some (.sysrd (o.extractLsb' 16 6) (o.extractLsb' 0 8))
  | 21 => some (.syswr (o.extractLsb' 16 6) (o.extractLsb' 0 8))
  | 22 => some (.blz (o.extractLsb' 16 4) (o.extractLsb' 10 6) (o.extractLsb' 7 3) (o.extractLsb' 4 3))
  | 23 => some (.blzobj (o.extractLsb' 16 4) (o.extractLsb' 10 6))
  | 24 => some (.blzrd (o.extractLsb' 16 6) (o.extractLsb' 4 2) (o.extractLsb' 0 4))
  | 25 => some (.blzwt (o.extractLsb' 16 6) (o.extractLsb' 10 6) (o.extractLsb' 0 4))
  | 26 => some (.ctxsv (o.extractLsb' 10 6))
  | 27 => some (.ctxrs (o.extractLsb' 10 6))
  | _ => none

/-- Field extraction for the scalar opcodes, classes 0b001 and 0b010 (R66). -/
def decodeScalar (u : ScalarUnit) (op : BitVec 6) (o : BitVec 22) : Option Instr :=
  match op.toNat with
  | 0 => some (.add u (o.extractLsb' 16 6) (o.extractLsb' 10 6) (o.extractLsb' 4 6))
  | 1 => some (.sub u (o.extractLsb' 16 6) (o.extractLsb' 10 6) (o.extractLsb' 4 6))
  | 2 => some (.addi u (o.extractLsb' 16 6) (o.extractLsb' 0 16))
  | 3 => some (.mul u (o.extractLsb' 16 6) (o.extractLsb' 10 6) (o.extractLsb' 4 6))
  | 4 => some (.mulh u (o.extractLsb' 16 6) (o.extractLsb' 10 6) (o.extractLsb' 4 6))
  | 5 => some (.mulhu u (o.extractLsb' 16 6) (o.extractLsb' 10 6) (o.extractLsb' 4 6))
  | 6 => some (.div u (o.extractLsb' 16 6) (o.extractLsb' 10 6) (o.extractLsb' 4 6))
  | 7 => some (.divu u (o.extractLsb' 16 6) (o.extractLsb' 10 6) (o.extractLsb' 4 6))
  | 8 => some (.rem u (o.extractLsb' 16 6) (o.extractLsb' 10 6) (o.extractLsb' 4 6))
  | 9 => some (.remu u (o.extractLsb' 16 6) (o.extractLsb' 10 6) (o.extractLsb' 4 6))
  | 10 => some (.and u (o.extractLsb' 16 6) (o.extractLsb' 10 6) (o.extractLsb' 4 6))
  | 11 => some (.or u (o.extractLsb' 16 6) (o.extractLsb' 10 6) (o.extractLsb' 4 6))
  | 12 => some (.xor u (o.extractLsb' 16 6) (o.extractLsb' 10 6) (o.extractLsb' 4 6))
  | 13 => some (.andi u (o.extractLsb' 16 6) (o.extractLsb' 0 16))
  | 14 => some (.ori u (o.extractLsb' 16 6) (o.extractLsb' 0 16))
  | 15 => some (.xori u (o.extractLsb' 16 6) (o.extractLsb' 0 16))
  | 16 => some (.shl u (o.extractLsb' 16 6) (o.extractLsb' 10 6) (o.extractLsb' 4 6))
  | 17 => some (.shr u (o.extractLsb' 16 6) (o.extractLsb' 10 6) (o.extractLsb' 4 6))
  | 18 => some (.sar u (o.extractLsb' 16 6) (o.extractLsb' 10 6) (o.extractLsb' 4 6))
  | 19 => some (.shli u (o.extractLsb' 16 6) (o.extractLsb' 10 6) (o.extractLsb' 4 6))
  | 20 => some (.shri u (o.extractLsb' 16 6) (o.extractLsb' 10 6) (o.extractLsb' 4 6))
  | 21 => some (.sari u (o.extractLsb' 16 6) (o.extractLsb' 10 6) (o.extractLsb' 4 6))
  | 22 => some (.fshl u (o.extractLsb' 16 6) (o.extractLsb' 10 6) (o.extractLsb' 4 6))
  | 23 => some (.fshr u (o.extractLsb' 16 6) (o.extractLsb' 10 6) (o.extractLsb' 4 6))
  | 24 => some (.clz u (o.extractLsb' 16 6) (o.extractLsb' 10 6))
  | 25 => some (.ctz u (o.extractLsb' 16 6) (o.extractLsb' 10 6))
  | 26 => some (.popc u (o.extractLsb' 16 6) (o.extractLsb' 10 6))
  | 27 => some (.min u (o.extractLsb' 16 6) (o.extractLsb' 10 6) (o.extractLsb' 4 6))
  | 28 => some (.max u (o.extractLsb' 16 6) (o.extractLsb' 10 6) (o.extractLsb' 4 6))
  | 29 => some (.minu u (o.extractLsb' 16 6) (o.extractLsb' 10 6) (o.extractLsb' 4 6))
  | 30 => some (.maxu u (o.extractLsb' 16 6) (o.extractLsb' 10 6) (o.extractLsb' 4 6))
  | 31 => some (.sel u (o.extractLsb' 16 6) (o.extractLsb' 10 6) (o.extractLsb' 4 6))
  | 32 => some (.cmp u (o.extractLsb' 16 6) (o.extractLsb' 10 6) (o.extractLsb' 4 6) (o.extractLsb' 0 4))
  | 33 => some (.cmpi u (o.extractLsb' 16 6) (o.extractLsb' 10 6) (o.extractLsb' 4 6) (o.extractLsb' 0 4))
  | 34 => some (.li u (o.extractLsb' 16 6) (o.extractLsb' 0 16))
  | 35 => some (.lih u (o.extractLsb' 16 6) (o.extractLsb' 0 16))
  | 36 => some (.mov u (o.extractLsb' 16 6) (o.extractLsb' 10 6))
  | 37 => some (.qand u (o.extractLsb' 16 6) (o.extractLsb' 10 6) (o.extractLsb' 4 6))
  | 38 => some (.qor u (o.extractLsb' 16 6) (o.extractLsb' 10 6) (o.extractLsb' 4 6))
  | 39 => some (.qxor u (o.extractLsb' 16 6) (o.extractLsb' 10 6) (o.extractLsb' 4 6))
  | 40 => some (.qnot u (o.extractLsb' 16 6) (o.extractLsb' 10 6))
  | 41 => some (.qfroms u (o.extractLsb' 16 6) (o.extractLsb' 10 6) (o.extractLsb' 0 1))
  | 42 => some (.qtos u (o.extractLsb' 16 6) (o.extractLsb' 10 6))
  | 43 => some (.qpopc u (o.extractLsb' 16 6) (o.extractLsb' 10 6))
  | _ => none

/-- Field extraction for the memory opcodes, class 0b011 (R66). -/
def decodeMemory (op : BitVec 6) (o : BitVec 22) : Option Instr :=
  match op.toNat with
  | 0 => some (.ldb (o.extractLsb' 16 6) (o.extractLsb' 10 6) (o.extractLsb' 0 10))
  | 1 => some (.ldbz (o.extractLsb' 16 6) (o.extractLsb' 10 6) (o.extractLsb' 0 10))
  | 2 => some (.ldh (o.extractLsb' 16 6) (o.extractLsb' 10 6) (o.extractLsb' 0 10))
  | 3 => some (.ldhz (o.extractLsb' 16 6) (o.extractLsb' 10 6) (o.extractLsb' 0 10))
  | 4 => some (.ldw (o.extractLsb' 16 6) (o.extractLsb' 10 6) (o.extractLsb' 0 10))
  | 5 => some (.ldwz (o.extractLsb' 16 6) (o.extractLsb' 10 6) (o.extractLsb' 0 10))
  | 6 => some (.ldd (o.extractLsb' 16 6) (o.extractLsb' 10 6) (o.extractLsb' 0 10))
  | 7 => some (.stb (o.extractLsb' 16 6) (o.extractLsb' 10 6) (o.extractLsb' 0 10))
  | 8 => some (.sth (o.extractLsb' 16 6) (o.extractLsb' 10 6) (o.extractLsb' 0 10))
  | 9 => some (.stw (o.extractLsb' 16 6) (o.extractLsb' 10 6) (o.extractLsb' 0 10))
  | 10 => some (.std (o.extractLsb' 16 6) (o.extractLsb' 10 6) (o.extractLsb' 0 10))
  | 11 => some (.ldv (o.extractLsb' 16 6) (o.extractLsb' 10 6) (o.extractLsb' 4 6) (o.extractLsb' 0 4))
  | 12 => some (.stv (o.extractLsb' 16 6) (o.extractLsb' 10 6) (o.extractLsb' 0 10))
  | 13 => some (.stvb (o.extractLsb' 16 6) (o.extractLsb' 10 6) (o.extractLsb' 4 6))
  | 14 => some (.ldvt (o.extractLsb' 16 6) (o.extractLsb' 10 6) (o.extractLsb' 4 6))
  | 15 => some (.gath (o.extractLsb' 16 6) (o.extractLsb' 10 6) (o.extractLsb' 4 6) (o.extractLsb' 0 4))
  | 16 => some (.scat (o.extractLsb' 16 6) (o.extractLsb' 10 6) (o.extractLsb' 4 6) (o.extractLsb' 0 4))
  | 17 => some (.stmsk (o.extractLsb' 16 6) (o.extractLsb' 10 6) (o.extractLsb' 0 10))
  | 18 => some (.ldmsk (o.extractLsb' 16 6) (o.extractLsb' 10 6) (o.extractLsb' 0 10))
  | 19 => some (.gstv (o.extractLsb' 16 6) (o.extractLsb' 15 1) (o.extractLsb' 10 5) (o.extractLsb' 4 6) (o.extractLsb' 0 4))
  | 20 => some (.aadd (o.extractLsb' 16 6) (o.extractLsb' 10 6) (o.extractLsb' 4 6) (o.extractLsb' 2 1) (o.extractLsb' 1 1) (o.extractLsb' 0 1))
  | 21 => some (.amin (o.extractLsb' 16 6) (o.extractLsb' 10 6) (o.extractLsb' 4 6) (o.extractLsb' 3 1) (o.extractLsb' 2 1) (o.extractLsb' 1 1) (o.extractLsb' 0 1))
  | 22 => some (.amax (o.extractLsb' 16 6) (o.extractLsb' 10 6) (o.extractLsb' 4 6) (o.extractLsb' 3 1) (o.extractLsb' 2 1) (o.extractLsb' 1 1) (o.extractLsb' 0 1))
  | 23 => some (.aand (o.extractLsb' 16 6) (o.extractLsb' 10 6) (o.extractLsb' 4 6) (o.extractLsb' 2 1) (o.extractLsb' 1 1) (o.extractLsb' 0 1))
  | 24 => some (.aor (o.extractLsb' 16 6) (o.extractLsb' 10 6) (o.extractLsb' 4 6) (o.extractLsb' 2 1) (o.extractLsb' 1 1) (o.extractLsb' 0 1))
  | 25 => some (.axor (o.extractLsb' 16 6) (o.extractLsb' 10 6) (o.extractLsb' 4 6) (o.extractLsb' 2 1) (o.extractLsb' 1 1) (o.extractLsb' 0 1))
  | 26 => some (.aswp (o.extractLsb' 16 6) (o.extractLsb' 10 6) (o.extractLsb' 4 6) (o.extractLsb' 2 1) (o.extractLsb' 1 1) (o.extractLsb' 0 1))
  | 27 => some (.acas (o.extractLsb' 16 6) (o.extractLsb' 10 6) (o.extractLsb' 4 6) (o.extractLsb' 2 1) (o.extractLsb' 1 1) (o.extractLsb' 0 1))
  | 28 => some (.afadd (o.extractLsb' 16 6) (o.extractLsb' 10 6) (o.extractLsb' 4 6) (o.extractLsb' 2 1) (o.extractLsb' 1 1))
  | 29 => some (.ared (o.extractLsb' 16 6) (o.extractLsb' 10 6) (o.extractLsb' 4 6) (o.extractLsb' 0 2))
  | 30 => some (.ldaq (o.extractLsb' 16 6) (o.extractLsb' 10 6) (o.extractLsb' 0 1))
  | 31 => some (.strl (o.extractLsb' 16 6) (o.extractLsb' 10 6) (o.extractLsb' 0 1))
  | 32 => some (.cpy (o.extractLsb' 16 6) (o.extractLsb' 10 6) (o.extractLsb' 6 1) (o.extractLsb' 4 2))
  | 33 => some (.cpysh (o.extractLsb' 16 6) (o.extractLsb' 0 6))
  | 34 => some (.cbadv (o.extractLsb' 16 6) (o.extractLsb' 0 16))
  | 35 => some (.cbwt (o.extractLsb' 16 6) (o.extractLsb' 0 16))
  | 36 => some (.ownf (o.extractLsb' 10 6) (o.extractLsb' 4 6) (o.extractLsb' 0 1))
  | 37 => some (.send (o.extractLsb' 16 6) (o.extractLsb' 10 6) (o.extractLsb' 4 6))
  | _ => none

/-- Field extraction for the vector opcodes, classes 0b100 and 0b101; the four transcendental forms exist in class 0b100 only (R66). -/
def decodeVector (u : VecUnit) (op : BitVec 6) (o : BitVec 22) : Option Instr :=
  match op.toNat with
  | 0 => some (.vadd u (o.extractLsb' 16 6) (o.extractLsb' 10 6) (o.extractLsb' 4 6) (o.extractLsb' 3 1) (o.extractLsb' 0 3))
  | 1 => some (.vsub u (o.extractLsb' 16 6) (o.extractLsb' 10 6) (o.extractLsb' 4 6) (o.extractLsb' 3 1) (o.extractLsb' 0 3))
  | 2 => some (.vmul u (o.extractLsb' 16 6) (o.extractLsb' 10 6) (o.extractLsb' 4 6) (o.extractLsb' 3 1) (o.extractLsb' 0 3))
  | 3 => some (.vfma u (o.extractLsb' 16 6) (o.extractLsb' 10 6) (o.extractLsb' 4 6) (o.extractLsb' 3 1) (o.extractLsb' 0 3))
  | 4 => some (.vfms u (o.extractLsb' 16 6) (o.extractLsb' 10 6) (o.extractLsb' 4 6) (o.extractLsb' 3 1) (o.extractLsb' 0 3))
  | 5 => some (.vmin u (o.extractLsb' 16 6) (o.extractLsb' 10 6) (o.extractLsb' 4 6) (o.extractLsb' 0 3))
  | 6 => some (.vmax u (o.extractLsb' 16 6) (o.extractLsb' 10 6) (o.extractLsb' 4 6) (o.extractLsb' 0 3))
  | 7 => some (.vabs u (o.extractLsb' 16 6) (o.extractLsb' 10 6) (o.extractLsb' 3 1) (o.extractLsb' 0 3))
  | 8 => some (.vneg u (o.extractLsb' 16 6) (o.extractLsb' 10 6) (o.extractLsb' 3 1) (o.extractLsb' 0 3))
  | 9 => some (.vand u (o.extractLsb' 16 6) (o.extractLsb' 10 6) (o.extractLsb' 4 6) (o.extractLsb' 0 3))
  | 10 => some (.vor u (o.extractLsb' 16 6) (o.extractLsb' 10 6) (o.extractLsb' 4 6) (o.extractLsb' 0 3))
  | 11 => some (.vxor u (o.extractLsb' 16 6) (o.extractLsb' 10 6) (o.extractLsb' 4 6) (o.extractLsb' 0 3))
  | 12 => some (.vnot u (o.extractLsb' 16 6) (o.extractLsb' 10 6) (o.extractLsb' 0 3))
  | 13 => some (.vshl u (o.extractLsb' 16 6) (o.extractLsb' 10 6) (o.extractLsb' 4 6) (o.extractLsb' 0 3))
  | 14 => some (.vshr u (o.extractLsb' 16 6) (o.extractLsb' 10 6) (o.extractLsb' 4 6) (o.extractLsb' 0 3))
  | 15 => some (.vsar u (o.extractLsb' 16 6) (o.extractLsb' 10 6) (o.extractLsb' 4 6) (o.extractLsb' 0 3))
  | 16 => some (.vfshl u (o.extractLsb' 16 6) (o.extractLsb' 10 6) (o.extractLsb' 4 6) (o.extractLsb' 0 3))
  | 17 => some (.vfshr u (o.extractLsb' 16 6) (o.extractLsb' 10 6) (o.extractLsb' 4 6) (o.extractLsb' 0 3))
  | 18 => some (.vclz u (o.extractLsb' 16 6) (o.extractLsb' 10 6) (o.extractLsb' 0 3))
  | 19 => some (.vpopc u (o.extractLsb' 16 6) (o.extractLsb' 10 6) (o.extractLsb' 0 3))
  | 20 => some (.vcmp u (o.extractLsb' 16 6) (o.extractLsb' 10 6) (o.extractLsb' 4 6) (o.extractLsb' 0 4))
  | 21 => some (.vsel u (o.extractLsb' 16 6) (o.extractLsb' 10 6) (o.extractLsb' 4 6) (o.extractLsb' 0 4))
  | 22 => some (.vcvt u (o.extractLsb' 16 6) (o.extractLsb' 10 6) (o.extractLsb' 4 6) (o.extractLsb' 3 1) (o.extractLsb' 2 1) (o.extractLsb' 0 2))
  | 23 => some (.vretag u (o.extractLsb' 16 6) (o.extractLsb' 0 16))
  | 24 => if u = .v0 then some (.vexp2 (o.extractLsb' 16 6) (o.extractLsb' 10 6) (o.extractLsb' 3 1) (o.extractLsb' 0 3)) else none
  | 25 => if u = .v0 then some (.vlog2 (o.extractLsb' 16 6) (o.extractLsb' 10 6) (o.extractLsb' 3 1) (o.extractLsb' 0 3)) else none
  | 26 => if u = .v0 then some (.vrcp (o.extractLsb' 16 6) (o.extractLsb' 10 6) (o.extractLsb' 3 1) (o.extractLsb' 0 3)) else none
  | 27 => if u = .v0 then some (.vrsq (o.extractLsb' 16 6) (o.extractLsb' 10 6) (o.extractLsb' 3 1) (o.extractLsb' 0 3)) else none
  | 28 => some (.vredsum u (o.extractLsb' 16 6) (o.extractLsb' 10 6) (o.extractLsb' 3 1) (o.extractLsb' 0 2))
  | 29 => some (.vredmax u (o.extractLsb' 16 6) (o.extractLsb' 10 6) (o.extractLsb' 0 2))
  | 30 => some (.vredmin u (o.extractLsb' 16 6) (o.extractLsb' 10 6) (o.extractLsb' 0 2))
  | 31 => some (.vscan u (o.extractLsb' 16 6) (o.extractLsb' 10 6) (o.extractLsb' 3 1) (o.extractLsb' 2 1) (o.extractLsb' 0 2))
  | 32 => some (.vbcst u (o.extractLsb' 16 6) (o.extractLsb' 10 6) (o.extractLsb' 4 6))
  | 33 => some (.vperm u (o.extractLsb' 16 6) (o.extractLsb' 10 6) (o.extractLsb' 4 6))
  | 34 => some (.vslide u (o.extractLsb' 16 6) (o.extractLsb' 10 6) (o.extractLsb' 4 6) (o.extractLsb' 0 1))
  | 35 => some (.vexts u (o.extractLsb' 16 6) (o.extractLsb' 10 6) (o.extractLsb' 4 6) (o.extractLsb' 0 1))
  | 36 => some (.vinss u (o.extractLsb' 16 6) (o.extractLsb' 10 6) (o.extractLsb' 4 6))
  | 37 => some (.vmov u (o.extractLsb' 16 6) (o.extractLsb' 10 6) (o.extractLsb' 0 3))
  | 38 => some (.vli u (o.extractLsb' 16 6) (o.extractLsb' 0 16))
  | 39 => some (.vnfc u (o.extractLsb' 16 6))
  | _ => none

/-- Field extraction for the matrix and sketch opcodes, class 0b110; bit 5 of XDRN's A field selects the raw drain (R66). -/
def decodeMatrix (op : BitVec 6) (o : BitVec 22) : Option Instr :=
  match op.toNat with
  | 0 => some (.oclaim (o.extractLsb' 21 1) (o.extractLsb' 16 5) (o.extractLsb' 0 16))
  | 1 => some (.orels (o.extractLsb' 16 6))
  | 2 => some (.oload (o.extractLsb' 16 6) (o.extractLsb' 10 6) (o.extractLsb' 4 6))
  | 3 => some (.xpush (o.extractLsb' 16 6) (o.extractLsb' 0 8))
  | 4 => some (.xshft (o.extractLsb' 16 6) (o.extractLsb' 0 8))
  | 5 => some (.xacc (o.extractLsb' 16 6) (o.extractLsb' 10 1) (o.extractLsb' 4 4))
  | 6 => if o.getLsbD 21 then some (.xdrnRaw (o.extractLsb' 17 4) (o.extractLsb' 6 7) (o.extractLsb' 0 6)) else some (.xdrn (o.extractLsb' 16 5) (o.extractLsb' 15 1) (o.extractLsb' 13 2) (o.extractLsb' 6 7) (o.extractLsb' 0 6))
  | 7 => some (.xclr (o.extractLsb' 16 6) (o.extractLsb' 0 16))
  | 8 => some (.xnorm (o.extractLsb' 16 6))
  | 9 => some (.xsexp (o.extractLsb' 16 6) (o.extractLsb' 10 6) (o.extractLsb' 4 6) (o.extractLsb' 0 1))
  | 10 => some (.xgexp (o.extractLsb' 16 6) (o.extractLsb' 10 6))
  | 11 => some (.skdef (o.extractLsb' 16 4) (o.extractLsb' 10 6))
  | 12 => some (.skfold (o.extractLsb' 20 1) (o.extractLsb' 16 4) (o.extractLsb' 10 6) (o.extractLsb' 4 6))
  | 13 => some (.skfoldo (o.extractLsb' 20 1) (o.extractLsb' 16 4) (o.extractLsb' 10 6) (o.extractLsb' 5 5) (o.extractLsb' 0 5))
  | 14 => some (.skshr (o.extractLsb' 16 6))
  | 15 => some (.skacc (o.extractLsb' 16 6) (o.extractLsb' 10 6))
  | 16 => some (.skrdl (o.extractLsb' 16 6) (o.extractLsb' 10 6) (o.extractLsb' 4 6))
  | 17 => some (.skrdr (o.extractLsb' 16 6) (o.extractLsb' 10 6) (o.extractLsb' 4 6))
  | 18 => some (.skwrl (o.extractLsb' 16 6) (o.extractLsb' 10 6) (o.extractLsb' 4 6))
  | 19 => some (.skwrr (o.extractLsb' 16 6) (o.extractLsb' 10 6) (o.extractLsb' 4 6))
  | 20 => some (.sksil (o.extractLsb' 16 6) (o.extractLsb' 10 6) (o.extractLsb' 2 1) (o.extractLsb' 0 2))
  | 21 => some (.skclr (o.extractLsb' 16 6) (o.extractLsb' 10 6) (o.extractLsb' 0 1))
  | 22 => some (.skstat (o.extractLsb' 16 6) (o.extractLsb' 10 6))
  | _ => none

/-- Field extraction for the transform opcodes, class 0b111 (R66). -/
def decodeTransform (op : BitVec 6) (o : BitVec 22) : Option Instr :=
  match op.toNat with
  | 0 => some (.txpose (o.extractLsb' 16 6) (o.extractLsb' 10 6) (o.extractLsb' 0 2))
  | 1 => some (.tunpack (o.extractLsb' 16 6) (o.extractLsb' 10 6) (o.extractLsb' 4 5) (o.extractLsb' 0 2))
  | 2 => some (.tpack (o.extractLsb' 16 6) (o.extractLsb' 10 6) (o.extractLsb' 4 5) (o.extractLsb' 0 2))
  | 3 => some (.texpand (o.extractLsb' 16 6) (o.extractLsb' 10 6) (o.extractLsb' 4 5) (o.extractLsb' 0 2))
  | 4 => some (.tctld (o.extractLsb' 16 6) (o.extractLsb' 10 6))
  | 5 => some (.tcvt (o.extractLsb' 16 6) (o.extractLsb' 10 6) (o.extractLsb' 4 6) (o.extractLsb' 3 1) (o.extractLsb' 2 1) (o.extractLsb' 0 2))
  | 6 => some (.tintlv (o.extractLsb' 16 6) (o.extractLsb' 10 6) (o.extractLsb' 4 6) (o.extractLsb' 0 2))
  | _ => none

/-- The instruction whose fields stand in a word, before reserved values are refused. -/
def rawDecode (cls : BitVec 3) (op : BitVec 6) (o : BitVec 22) : Option Instr :=
  match cls.toNat with
  | 0 => decodeControl op o
  | 1 => decodeScalar .s0 op o
  | 2 => decodeScalar .s1 op o
  | 3 => decodeMemory op o
  | 4 => decodeVector .v0 op o
  | 5 => decodeVector .v1 op o
  | 6 => decodeMatrix op o
  | _ => decodeTransform op o

/-- The instruction of a slot word, whatever its STOP bit. A word whose unused bits are not zero, whose fields hold
a reserved value or whose opcode cell is ILLEGAL is refused (R56, R66): a kept bit that no field takes shows, because
the encoder does not give it back. -/
def decode (w : Word) : Option Instr :=
  match rawDecode (wordClass w) (wordOp w) (wordOpnd w) with
  | some i => if encode i = some (clearStop w) ∧ i.wellFormed = true then some i else none
  | none => none

/-- The instruction that the decoder reads from a table word of `nbits` bits: a slot word is 32 bits, the first word
of an instruction and its only one (log entry 7). -/
def decodeTableWord (_nbits w : Nat) : Option Instr := decode (BitVec.ofNat 32 w)

/-- The little-endian bytes of a number, least significant first (R3). -/
def leBytes (n x : Nat) : List Byte :=
  match n with
  | 0 => []
  | n + 1 => BitVec.ofNat 8 x :: leBytes n (x / 256)

/-- The number that little-endian bytes hold (R3). -/
def leValue : List Byte → Nat
  | [] => 0
  | b :: bs => b.toNat + 256 * leValue bs

/-- Bits [hi:lo] of a dword as a number: `Bits` of R65. -/
def bits (x : Dword) (hi lo : Nat) : Nat := (x.toNat / 2 ^ lo) % 2 ^ (hi - lo + 1)

/-- The low `n` bits of `x` extended to 64 bits by sign: `SExt` of R65. -/
def sext {w : Nat} (x : BitVec w) : Dword := x.signExtend 64

/-- The low `n` bits of `x` extended to 64 bits by zeros: `ZExt` of R65. -/
def zext {w : Nat} (x : BitVec w) : Dword := x.setWidth 64

/-! The displacement and k-index fields that a REP header increments (R63, R134, R177). -/

/-- Whether an opcode of class M has a displacement field D: the immediate loads and stores, STV, STMSK, LDMSK. -/
def opHasD (op : BitVec 6) : Bool := op.toNat ≤ 0x0A || op.toNat == 0x0C || op.toNat == 0x11 || op.toNat == 0x12

/-- The repeated word of class M: D plus the increment, or none out of the range -512 to 511. -/
def incD (w : Word) (inc : BitVec 14) : Option Word :=
  if opHasD (wordOp w) then
    let d := (w.extractLsb' 0 10).toInt + inc.toInt
    if -512 ≤ d ∧ d ≤ 511 then some ((w.extractLsb' 10 22) ++ BitVec.ofInt 10 d) else none
  else some w

/-- The repeated word of class X: K plus the increment, or none out of its range: 0-255 for XPUSH and XSHFT, 0-127
for XDRN. -/
def incK (w : Word) (inc : BitVec 14) : Option Word :=
  match (wordOp w).toNat with
  | 3 | 4 =>
    let k := ((w.extractLsb' 0 8).toNat : Int) + inc.toInt
    if 0 ≤ k ∧ k ≤ 255 then some ((w.extractLsb' 8 24) ++ BitVec.ofInt 8 k) else none
  | 6 =>
    let k := ((w.extractLsb' 6 7).toNat : Int) + inc.toInt
    if 0 ≤ k ∧ k ≤ 127 then some ((w.extractLsb' 13 19) ++ BitVec.ofInt 7 k ++ (w.extractLsb' 0 6)) else none
  | _ => some w

end Sys2Proof
end

