-- ==== Sys2Proof/Config.lean ====
section
/-! DEFINITION. What the device fixes (figures of R2 and the address ranges of R85), and the free values: opaque
functions of the draw counter of the state, of which nothing can be proved (log entry 4). -/

namespace Sys2Proof.Config

/-- A choice the manual leaves open between two outcomes. -/
opaque coin : Nat → Nat → Bool
/-- A byte the manual calls unpredictable: contents after a claim, what a peer device's memory holds. -/
opaque freeByte : Nat → Nat → Byte
/-- A 64-bit value the manual calls unpredictable or does not state. -/
opaque freeDword : Nat → Nat → Dword

/-- Cycles beyond a least figure, where the manual says 'at the earliest' (R335). -/
opaque delay : Nat → Nat

/-- Buffers that the receiver of a ring link has for a channel; the manual gives no number (log entry 76). -/
opaque ringBuffers : Nat → Nat → Nat
/-- A slot table as the launch record's STAB names it: its revolution and its entries. The manual gives no layout of it
in memory (log entry 15). -/
opaque slotTable : Nat → Dword → Nat × List (Nat × Nat × Nat)

/-- The tasks of a launch that names no slot table reach for a remote landing: the device knows it as it takes the record, by a
means the manual does not name (R93; log entry 59). -/
opaque reachesRemote : Nat → Bool
/-- The fi of another device that an output register is bound to has an entry for one more push in a cycle (R301). -/
opaque farEntry : Nat → Nat → Bool

/-- The device address through which BAR2 reaches byte 0 of the exposed space; the manual names none (log entry 17). -/
opaque exposedWindow : Nat
/-- How the first eight bytes of a report hold the version and DSTATUS: the bytes of the version, less one, and the byte that
stands for DSTATUS at each place after them (log entry 18). -/
opaque versionWidth : Nat
opaque statusByte : BitVec 64 → Nat → Byte
/-- The device's identity public key and the signature of a report, as bytes (R332; log entry 18). -/
opaque identityKey : Nat → Byte
opaque signature : Nat → Nat → Byte

/-- Base of the landing range (R85). -/
def lbase : Nat := 0x7F0000000000
/-- Bytes of one cluster's landing: 48 MiB (R2). -/
def landingBytes : Nat := 48 * 2 ^ 20
/-- Bytes of the landing range: 384 MiB (R85). -/
def landingRange : Nat := 8 * landingBytes
/-- Base of the local range (R85). -/
def locbase : Nat := 0x7F8000000000
/-- Bytes of one core's local memory: 2 MiB (R2). -/
def localBytes : Nat := 2 ^ 21
/-- Bytes of a local tile and of the smallest page: 4 KiB (R2). -/
def tileBytes : Nat := 4096
/-- Bytes of one operand slot: 48 KiB (R2). -/
def slotBytes : Nat := 49152
/-- Bytes of main memory: 512 GiB (R2). -/
def hbmBytes : Nat := 2 ^ 39
/-- Bytes of HBM stack 0, the only one that works before stage 2: 64 GiB (R2, R322). -/
def stack0Bytes : Nat := 2 ^ 36
/-- Rows of an accumulator tile (R43). -/
def tileRows : Nat := 64
/-- Columns of an accumulator tile (R43). -/
def tileCols : Nat := 96
/-- Commands a copy channel's queue holds (R101). -/
def channelDepth : Nat := 32
/-- Entries of an inbox (R20) and of an fi FIFO (R301). -/
def fifoDepth : Nat := 16
/-- Wait count at which a context is promoted (R249). -/
def agingBound : Nat := 4088
/-- Idle cycles before a core is gated (R246). -/
def gateCycles : Nat := 8400
/-- Cycles of a wake, 3 microseconds at 1.4 GHz (R246). -/
def wakeCycles : Nat := 4200

end Sys2Proof.Config
end

