-- ==== Sys2Proof/Machine/Numbers.lean ====
section
/-! DEFINITION. Number formats, exact values and the one rounding of every result (R29-R41).

An exact value is a sign, a natural significand and a power of two, so sums and products are formed without any
rounding. A quotient, a root or a logarithm is held to many more bits than any format has, its last bit set when
something was cut off below it: such a stand-in rounds as the exact value does (log entry 9). -/

namespace Sys2Proof.Machine

/-- A value before rounding: NaN, an infinity, or (-1)^neg * m * 2^e; a zero keeps its sign (R34). -/
inductive Num where
  | nan
  | inf (neg : Bool)
  | fin (neg : Bool) (m : Nat) (e : Int)
  deriving DecidableEq, Repr

/-- The rounding modes of R38. -/
inductive Mode where
  | rne
  | rtz
  | rdn
  | rup
  deriving DecidableEq, Repr

/-- The mode of a 2-bit mode field (R38). -/
def modeOf (m : BitVec 2) : Mode :=
  match m.toNat with
  | 0 => .rne
  | 1 => .rtz
  | 2 => .rdn
  | _ => .rup

/-- A floating format by its code ordinals: the code of a magnitude counts its values upward from zero. -/
structure FloatFmt where
  /-- significand bits, the implicit one included -/
  p : Nat
  /-- exponent of the smallest step -/
  qmin : Int
  /-- ordinal of the largest finite magnitude -/
  maxOrd : Nat
  /-- bits of the format -/
  w : Nat
  signed : Bool
  hasInf : Bool
  /-- keeps a signed zero and many NaN codes (R34) -/
  ieee : Bool
  nan : Nat
  deriving DecidableEq, Repr

/-- What a format code says (R30): a floating format, or an integer of w bits. -/
inductive Fmt where
  | float (f : FloatFmt)
  | int (signed : Bool) (w : Nat)
  deriving DecidableEq, Repr

def fp32 : FloatFmt := ⟨24, -149, 0x7F7FFFFF, 32, true, true, true, 0x7FC00000⟩
def bf16 : FloatFmt := ⟨8, -133, 0x7F7F, 16, true, true, true, 0x7FC0⟩
def fp16 : FloatFmt := ⟨11, -24, 0x7BFF, 16, true, true, true, 0x7E00⟩
/-- FP64, the format of the sillage sums (R206). -/
def fp64 : FloatFmt := ⟨53, -1074, 0x7FEFFFFFFFFFFFFF, 64, true, true, true, 0x7FF8000000000000⟩

/-- A binary8 format by its variant bits and P (R36-R38). -/
def binary8 (variant P : Nat) : FloatFmt :=
  let signed := variant < 2
  let bias : Int := 2 ^ ((if signed then 8 - P else 9 - P) - 1)
  let finiteOnly := variant % 2 == 1
  ⟨P, 2 - bias - P, (if signed then 0x7E else 0xFD) + bit finiteOnly, 8, signed, !finiteOnly, false,
    if signed then 0x80 else 0xFF⟩

/-- The format of a code (R30); none for the packed codes, `acw` and unassigned codes. -/
def fmtOf (c : Nat) : Option Fmt :=
  match c with
  | 0x00 => some (.float fp32)
  | 0x01 => some (.float bf16)
  | 0x02 => some (.float fp16)
  | 0x04 => some (.int true 8)
  | 0x05 => some (.int true 16)
  | 0x06 => some (.int true 32)
  | 0x08 => some (.int false 8)
  | 0x0A => some (.int false 32)
  | _ => if codeAssigned c && 0x20 ≤ c then some (.float (binary8 ((c / 8) % 4) (c % 8))) else none

/-- `Width` of R40: the element width of a code; 0 for an unassigned one. -/
def widthOf (c : Nat) : Nat :=
  match c with
  | 0x00 | 0x06 | 0x0A => 32
  | 0x01 | 0x02 | 0x05 => 16
  | 0x0C => 3
  | 0x0D => 4
  | 0x0E => 1
  | 0x0F => 64
  | _ => if codeAssigned c then 8 else 0

/-! ### Tags (R29, R31) -/

/-- CODE of a tag. -/
def tagCode (t : Half) : Nat := t.toNat % 64
/-- SCALE of a tag, signed. -/
def tagScale (t : Half) : Int := (t.extractLsb' 8 8).toInt
/-- The tag of a code and a scale. -/
def mkTag (code : Nat) (scale : Int) : Half := BitVec.ofInt 8 scale ++ BitVec.ofNat 8 code
/-- R31: the code is assigned, bits [7:6] are zero, and the packed codes and `acw` have scale 0. -/
def tagValid (t : Half) : Bool :=
  codeAssigned (tagCode t) && (t.extractLsb' 6 2 == 0#2) &&
  (!(0x0C ≤ tagCode t && tagCode t ≤ 0x0F) || tagScale t == 0)
/-- A result scale outside -128 to 127 traps FORMAT (R31). -/
def scaleFits (s : Int) : Bool := -128 ≤ s && s ≤ 127
/-- The code is a floating format (R33). -/
def codeFloat (c : Nat) : Bool :=
  match fmtOf c with
  | some (.float _) => true
  | _ => false
/-- The code is an integer format (R33). -/
def codeInt (c : Nat) : Bool :=
  match fmtOf c with
  | some (.int ..) => true
  | _ => false
/-- The code has 8, 16 or 32 bits (R33). -/
def codeWhole (c : Nat) : Bool := (fmtOf c).isSome
/-- The width that lane moves and VRETAG count (R164, R168): the packed codes and `acw` count as 32. -/
def laneWidth (c : Nat) : Nat := if codeWhole c then widthOf c else 32
/-- `ImageSize` of R65 and R136, in bytes. -/
def imageSize (t : Half) : Nat := if codeWhole (tagCode t) then 64 * widthOf (tagCode t) / 8 else 256

/-! ### Reading a code (R34-R36) -/

/-- The magnitude of a code ordinal: subnormal below 2^(p-1), normal from there on. -/
def FloatFmt.ofOrd (f : FloatFmt) (neg : Bool) (n : Nat) : Num :=
  let h := 2 ^ (f.p - 1)
  if n < h then .fin neg n f.qmin else .fin neg (h + n % h) (f.qmin + ((n / h - 1 : Nat) : Int))

/-- The value of a bit pattern in a floating format. -/
def FloatFmt.decode (f : FloatFmt) (b : Nat) : Num :=
  let b := b % 2 ^ f.w
  if !f.signed then
    if b = f.nan then .nan else if f.hasInf && b = f.maxOrd + 1 then .inf false else f.ofOrd false b
  else
    let h := 2 ^ (f.w - 1)
    let n := b % h
    let neg : Bool := h ≤ b
    if f.ieee then
      if n ≤ f.maxOrd then f.ofOrd neg n else if n = f.maxOrd + 1 then .inf neg else .nan
    else if b = f.nan then .nan
    else if f.hasInf && n = f.maxOrd + 1 then .inf neg
    else f.ofOrd neg n

/-- The signed reading of the low w bits. -/
def toSigned (w b : Nat) : Int :=
  let b := b % 2 ^ w
  if 2 * b < 2 ^ w then b else (b : Int) - 2 ^ w

/-- An integer as an exact value. -/
def Num.ofInt (i : Int) : Num := .fin (i < 0) i.natAbs 0

/-- `Decode` of R40. -/
def decodeNum (c b : Nat) : Num :=
  match fmtOf c with
  | some (.float f) => f.decode b
  | some (.int true w) => .ofInt (toSigned w b)
  | some (.int false w) => .ofInt ((b % 2 ^ w : Nat) : Int)
  | none => .nan

/-- x * 2^k, exactly. -/
def Num.scale (x : Num) (k : Int) : Num :=
  match x with
  | .fin n m e => .fin n m (e + k)
  | _ => x

/-- `Val` of R40. -/
def val (tag : Half) (b : Nat) : Num := (decodeNum (tagCode tag) b).scale (tagScale tag)

/-- `IsNonFinite` of R40. -/
def isNonFinite (tag : Half) (b : Nat) : Bool :=
  match decodeNum (tagCode tag) b with
  | .fin .. => false
  | _ => codeWhole (tagCode tag)

/-! ### Exact arithmetic -/

/-- The signed integer m at the exponent e, given a sign for zero. -/
def Num.ofScaled (i : Int) (e : Int) (zeroNeg : Bool) : Num :=
  if i = 0 then .fin zeroNeg 0 e else .fin (i < 0) i.natAbs e

/-- The signed significand. -/
def signedSig (neg : Bool) (m : Nat) : Int := if neg then -(m : Int) else m

def Num.neg : Num → Num
  | .nan => .nan
  | .inf s => .inf !s
  | .fin s m e => .fin (!s) m e

def Num.abs : Num → Num
  | .nan => .nan
  | .inf _ => .inf false
  | .fin _ m e => .fin false m e

/-- The exact sum; an exact zero has the sign IEEE 754 gives under round to nearest (R158). -/
def Num.add : Num → Num → Num
  | .nan, _ => .nan
  | _, .nan => .nan
  | .inf s, .inf t => if s = t then .inf s else .nan
  | .inf s, _ => .inf s
  | _, .inf t => .inf t
  | .fin s m e, .fin t n f =>
    let g := min e f
    let i := signedSig s m * 2 ^ (e - g).toNat + signedSig t n * 2 ^ (f - g).toNat
    .ofScaled i g (s && t)

/-- The exact product; an infinity times zero is NaN (R158). -/
def Num.mul : Num → Num → Num
  | .nan, _ => .nan
  | _, .nan => .nan
  | .inf s, .inf t => .inf (s != t)
  | .inf s, .fin t n _ => if n = 0 then .nan else .inf (s != t)
  | .fin s m _, .inf t => if m = 0 then .nan else .inf (s != t)
  | .fin s m e, .fin t n f => .fin (s != t) (m * n) (e + f)

def Num.isNan : Num → Bool
  | .nan => true
  | _ => false

def Num.isZero : Num → Bool
  | .fin _ m _ => m == 0
  | _ => false

def Num.isFinite : Num → Bool
  | .fin .. => true
  | _ => false

/-- The sign bit of a value; NaN has none. -/
def Num.sign : Num → Bool
  | .nan => false
  | .inf s => s
  | .fin s _ _ => s

/-- Strict order of two values that are not NaN; the zeros are equal. -/
def Num.lt (x y : Num) : Bool :=
  match x, y with
  | .inf true, .inf true => false
  | .inf true, _ => true
  | _, .inf true => false
  | .inf false, _ => false
  | _, .inf false => true
  | x, y =>
    match x.add y.neg with
    | .fin s m _ => s && m != 0
    | _ => false

/-- The order of VMIN, VMAX and the lane reductions, in which -0 < +0 (R158, R166). -/
def Num.ltZ (x y : Num) : Bool := x.lt y || (x.isZero && y.isZero && x.sign && !y.sign)

/-! ### Roots, quotients and the transcendental functions (R165, R201) -/

/-- Newton's descent to the integer square root from above; `fuel` bounds the steps. -/
def isqrtFrom (fuel x n : Nat) : Nat :=
  match fuel with
  | 0 => x
  | fuel + 1 =>
    let y := (x + n / x) / 2
    if y < x then isqrtFrom fuel y n else x

/-- The integer square root. -/
def isqrt (n : Nat) : Nat := if n = 0 then 0 else isqrtFrom 64 (2 ^ (n.log2 / 2 + 1)) n

/-- A floor q at exponent e with its cut-off part as a last bit. -/
def sticky (neg : Bool) (q : Nat) (exact : Bool) (e : Int) : Num := .fin neg (2 * q + bit (!exact)) (e - 1)

/-- The quotient to 128 bits and a sticky bit (R201). -/
def Num.div (x y : Num) : Num :=
  match x, y with
  | .nan, _ => .nan
  | _, .nan => .nan
  | .inf _, .inf _ => .nan
  | .inf s, .fin t _ _ => .inf (s != t)
  | .fin s _ _, .inf t => .fin (s != t) 0 0
  | .fin s m e, .fin t n f =>
    if n = 0 then (if m = 0 then .nan else .inf (s != t))
    else
      let k := 128 + n.log2
      let a := m * 2 ^ k
      sticky (s != t) (a / n) (a % n = 0) (e - f - k)

/-- The square root to 128 bits and a sticky bit. -/
def Num.sqrt : Num → Num
  | .nan => .nan
  | .inf s => if s then .nan else .inf false
  | .fin s m e =>
    if m = 0 then .fin s 0 0
    else if s then .nan
    else
      let odd := (e % 2).toNat
      let a := m * 2 ^ odd * 2 ^ 256
      let q := isqrt a
      sticky false q (q * q = a) ((e - odd) / 2 - 128)

/-- The reciprocal square root of a positive value to 128 bits and a sticky bit. -/
def recipSqrt (m : Nat) (e : Int) : Num :=
  let odd := (e % 2).toNat
  let n := m * 2 ^ odd
  let k := 160 + n.log2
  let q := isqrt (2 ^ (2 * k) / n)
  sticky false q (q * q * n = 2 ^ (2 * k)) (-((e - odd) / 2) - k)

/-- Bits after the binary point of the exponential's working values. -/
def expBits : Nat := 96

/-- The product of 2^(2^-i) over the set bits of a fraction of `n` bits, most significant first; `c` is
2^(2^-i) and `acc` the product so far, both with `expBits` bits after the point. -/
def exp2Loop (n frac c acc : Nat) : Nat :=
  match n with
  | 0 => acc
  | n + 1 =>
    let c' := isqrt (c * 2 ^ expBits)
    exp2Loop n frac c' (if frac.testBit n then acc * c' / 2 ^ expBits else acc)

/-- 2^x for a finite x (R165): exact for an integer, else with the sticky bit of an irrational value. -/
def exp2Fin (neg : Bool) (m : Nat) (e : Int) : Num :=
  let x := signedSig neg m
  if m = 0 then .fin false 1 0
  else if 12 < e + (m.log2 : Int) then (if neg then .fin false 1 (-100000) else .fin false 1 100000)
  else
    -- x with expBits fraction bits, floored
    let sh := e + expBits
    let fx : Int := if 0 ≤ sh then x * 2 ^ sh.toNat else x / 2 ^ (-sh).toNat
    let whole := fx / 2 ^ expBits
    let frac := (fx % 2 ^ expBits).toNat
    if frac = 0 ∧ 0 ≤ sh then .fin false 1 whole
    else sticky false (exp2Loop expBits frac (2 ^ (expBits + 1)) (2 ^ expBits)) false (whole - expBits)

/-- Bits after the point that the logarithm keeps. -/
def logBits : Nat := 120

/-- Fraction bits of log2 y for y in [1, 2) with 256 bits after the point, by repeated squaring. -/
def log2Loop (n y acc : Nat) : Nat :=
  match n with
  | 0 => acc
  | n + 1 =>
    let z := y * y / 2 ^ 256
    if 2 ^ 257 ≤ z then log2Loop n (z / 2) (2 * acc + 1) else log2Loop n z (2 * acc)

/-- log2 of m * 2^e for m > 0 (R165): exact for a power of two. -/
def log2Fin (m : Nat) (e : Int) : Num :=
  let l := m.log2
  if m = 2 ^ l then .ofInt (e + l)
  else
    let f := log2Loop logBits (m * 2 ^ 256 / 2 ^ l) 0
    .ofScaled (((e + l) * 2 ^ logBits + (f : Int)) * 2 + 1) (-(logBits : Int) - 1) false

/-! ### Rounding (R39) -/

/-- How what was cut off compares with half a unit. -/
inductive Rest where
  | none
  | below
  | half
  | above
  deriving DecidableEq, Repr

/-- floor(m * 2^k) and what was cut off. -/
def cutAt (m : Nat) (k : Int) : Nat × Rest :=
  if 0 ≤ k then (m * 2 ^ k.toNat, .none)
  else
    let d := 2 ^ (-k).toNat
    let r := m % d
    (m / d, if r = 0 then .none else if 2 * r < d then .below else if 2 * r = d then .half else .above)

/-- Whether a magnitude with the cut-off part `r` above the even-or-odd ordinal `n` rounds up. -/
def roundsUp (mode : Mode) (neg : Bool) (n : Nat) (r : Rest) : Bool :=
  match mode with
  | .rne => r == .above || (r == .half && n % 2 == 1)
  | .rtz => false
  | .rdn => neg && r != .none
  | .rup => !neg && r != .none

/-- `RNEint` of R40 on m * 2^k: the nearest integer, ties to even, and whether it is exact. -/
def rneInt (i : Int) (k : Int) : Int × Bool :=
  let (q, r) := cutAt i.natAbs k
  (signedSig (i < 0) (q + bit (roundsUp .rne (i < 0) q r)), r == .none)

/-- The code of a sign and a magnitude ordinal. -/
def FloatFmt.code (f : FloatFmt) (neg : Bool) (n : Nat) : Nat :=
  if neg && f.signed && (n != 0 || f.ieee) then 2 ^ (f.w - 1) + n else n

/-- `Round` of R39 for a floating format. -/
def FloatFmt.round (f : FloatFmt) (x : Num) (mode : Mode) (sat : Bool) : Nat :=
  match x with
  | .nan => f.nan
  | .inf neg =>
    if neg && !f.signed then 0
    else if f.hasInf && !sat then f.code neg (f.maxOrd + 1)
    else f.code neg f.maxOrd
  | .fin neg m e =>
    if m = 0 then f.code neg 0
    else if neg && !f.signed then 0
    else
      let q := max f.qmin (e + (m.log2 : Int) - ((f.p : Int) - 1))
      let (s, r) := cutAt m (e - q)
      let n := (q - f.qmin).toNat * 2 ^ (f.p - 1) + s
      let n' := n + bit (roundsUp mode neg n r)
      let tooBig := f.maxOrd < n' || (n == f.maxOrd && mode == .rne && r == .half)
      if !tooBig then f.code neg n'
      else if f.hasInf && !sat && (mode == .rne || (mode == .rup && !neg) || (mode == .rdn && neg)) then
        f.code neg (f.maxOrd + 1)
      else f.code neg f.maxOrd

/-- `Clamp` of R40. -/
def clampInt (x lo hi : Int) : Int := if x < lo then lo else if hi < x then hi else x

/-- The range of an integer format. -/
def intRange (signed : Bool) (w : Nat) : Int × Int :=
  if signed then (-(2 ^ (w - 1)), 2 ^ (w - 1) - 1) else (0, 2 ^ w - 1)

/-- `Round` of R39 for an integer format: NaN gives 0, an overflow the clamp bound. -/
def roundInt (signed : Bool) (w : Nat) (x : Num) (mode : Mode) : Nat :=
  let (lo, hi) := intRange signed w
  match x with
  | .nan => 0
  | .inf neg => ((if neg then lo else hi) % 2 ^ w).toNat
  | .fin neg m e =>
    if neg && !signed then 0
    else
      let (q, r) := cutAt m e
      let i := signedSig neg (q + bit (roundsUp mode neg q r))
      (clampInt i lo hi % 2 ^ w).toNat

/-- `Round` of R39 by format code. -/
def roundCode (c : Nat) (x : Num) (mode : Mode) (sat : Bool) : Nat :=
  match fmtOf c with
  | some (.float f) => f.round x mode sat
  | some (.int s w) => roundInt s w x mode
  | none => 0

/-- `Enc` of R40. -/
def enc (tag : Half) (x : Num) (mode : Mode) (sat : Bool) : Nat :=
  roundCode (tagCode tag) (x.scale (-(tagScale tag))) mode sat

/-! ### FP32 and FP64 on bit patterns (R65, R201) -/

def f32 (w : Word) : Num := fp32.decode w.toNat
def toF32 (x : Num) : Word := BitVec.ofNat 32 (fp32.round x .rne false)
/-- `FMA` of R65. -/
def fma32 (x y z : Word) : Word := toF32 (((f32 x).mul (f32 y)).add (f32 z))
def add32 (x y : Word) : Word := toF32 ((f32 x).add (f32 y))
def sub32 (x y : Word) : Word := toF32 ((f32 x).add (f32 y).neg)
def mul32 (x y : Word) : Word := toF32 ((f32 x).mul (f32 y))
def div32 (x y : Word) : Word := toF32 ((f32 x).div (f32 y))
def sqrt32 (x : Word) : Word := toF32 (f32 x).sqrt
/-- Negation is exact and flips the sign of a zero (R201). -/
def neg32 (x : Word) : Word := x ^^^ 0x80000000#32
def f64 (w : Dword) : Num := fp64.decode w.toNat
def toF64 (x : Num) : Dword := BitVec.ofNat 64 (fp64.round x .rne false)
def add64 (x y : Dword) : Dword := toF64 ((f64 x).add (f64 y))

/-- `SatAdd32` of R40. -/
def satAdd32 (a b : Nat) : Nat := min (a + b) 0xFFFFFFFF

/-- The element bits of a bit pattern that decodes to 0, used by gradient-mode scrubbing (R48): every floating code
has it at 0. -/
def zeroPattern : Nat := 0

/-- The signed 56-bit mantissa M of an accumulator word (R43). -/
def accMant (w : Dword) : Int := (w.extractLsb' 0 56).toInt

/-- An accumulator word of its sticky bits and mantissa (R43). -/
def mkAcc (nf ov ix : Bool) (m : Int) : Dword :=
  0#5 ++ BitVec.ofBool nf ++ BitVec.ofBool ov ++ BitVec.ofBool ix ++ BitVec.ofInt 56 m

/-- `DrainValue` of R47. -/
def drainValue (w : Dword) (e : Half) : Num :=
  if w.getLsbD 58 then .nan
  else if w.getLsbD 57 then .inf (!(0 < accMant w))
  else .ofScaled (accMant w) e.toInt false

end Sys2Proof.Machine
end

