-- ==== Sys2Proof/Machine/State.lean ====
section
/-! DEFINITION. The state of the device as plain data: everything the spec gives the machine, from the device's
registers to each context's, the work in flight, and the model's own fields (agenda, phase, cursor, counters). -/

namespace Sys2Proof.Machine

/-! ### Why a step stops -/

/-- The reasons the machine stops without a next state. -/
inductive Fault where
  /-- Raised by the bulk byte accessors for a device address behind which R2 puts no memory (beyond 512 GiB of HBM
  or 1 TiB of exposed space). Safe: nothing is claimed about such a run. -/
  | noSuchAddress (addr : Nat)
  deriving DecidableEq, Repr

/-- The reasons the machine has no meaning for an instruction. -/
inductive Refusal where
  /-- Raised by no meaning: it names an instruction that would have none. Safe. -/
  | notModelled (mnemonic : String)
  deriving DecidableEq, Repr

/-- Trap causes (R254) by name. -/
inductive Cause where
  | illegal
  | format
  | window
  | page
  | perm
  | poison
  | spawnbusy
  | qover
  | lateobj
  | oos
  | copyflt
  | nested
  | soft
  deriving DecidableEq, Repr

/-- The number of a cause in TCAUSE, NCAUSE and the completion record (R254). -/
def Cause.num : Cause → Nat
  | .illegal => 1
  | .format => 2
  | .window => 3
  | .page => 4
  | .perm => 5
  | .poison => 6
  | .spawnbusy => 7
  | .qover => 8
  | .lateobj => 9
  | .oos => 10
  | .copyflt => 11
  | .nested => 12
  | .soft => 13

/-- A trap request of a slot: its cause, and TADDR where the raising rule names a value; with none TADDR takes the
slot word (R254). `blk` is the LDVT block to resume from (R140). -/
structure Trap where
  cause : Cause
  addr : Option Dword := none
  blk : BitVec 2 := 0
  deriving DecidableEq, Repr

/-- Why a slot or another step does not go on: a trap of the context, or a fault of the model. -/
inductive Stop where
  | trap (t : Trap)
  | fault (f : Fault)
  deriving DecidableEq, Repr

/-! ### Memory -/

/-- The bytes of every memory of the device: HBM, the exposed space, the landings, local memory, operand slots,
accumulator tiles with their row exponents, and host frames, each region at its own keys (see `Ops`). `cells` lists
the bytes that differ from what an unlisted byte reads as; `gens` lists the 4 KiB pages of the key space that have
been given up by an owner, each with the number of the free values its unlisted bytes read as (R23). -/
structure Memory where
  cells : List Host.Cell
  gens : List (Nat × Nat)
  deriving DecidableEq, Repr

/-! ### Registers of a context -/

abbrev Lanes := Vector Word 64

/-- A vector register: 64 lanes of 32 bits and a format tag (R27, R29). -/
structure VReg where
  tag : Half
  lanes : Lanes
  deriving DecidableEq, Repr

/-- An entry of the loop stack: body start S, end N and remaining count K (R116). -/
structure LoopEntry where
  start : Dword
  stop : Dword
  count : Dword
  deriving DecidableEq, Repr

/-- The kinds of control transfer, numbered as in an image (R265). -/
inductive XferKind where
  | br
  | brq
  | jr
  | call
  | callr
  | ret
  | loop
  | loopi
  deriving DecidableEq, Repr

/-- A transfer made by a C slot, taking effect when its bundle completes (R114). For LOOP and LOOPI the target is S
and the count and end are those read at issue. -/
structure Xfer where
  kind : XferKind
  target : Dword
  count : Dword := 0
  stop : Dword := 0
  deriving DecidableEq, Repr

/-- An array latch: one k-slice as bytes, the tag of its slot, and its poison mark (R173, R176). -/
structure Latch where
  tag : Half
  data : List Byte
  poison : Bool
  deriving DecidableEq, Repr

/-- The repeat buffer: the slot word of each unit class (R63). -/
abbrev RepBuf := Vector (Option Word) 8

/-- Where a value read from memory goes, and how its bytes become a value. -/
inductive ReadShape where
  /-- n bytes into a scalar register, sign- or zero-extended (R135) -/
  | scalar (r : Nat) (signed : Bool)
  /-- an image into a vector register (R136, R137) -/
  | vector (r : Nat) (tag : Half)
  /-- eight bytes into a predicate (R142) -/
  | mask (q : Nat)
  /-- elements of w bytes into the named lanes of a vector register, bytes in lane order (R141) -/
  | lanes (r : Nat) (tag : Half) (w : Nat) (which : List Nat)
  /-- one block of LDVT: rows 16j.. of four columns, bytes row by row (R140) -/
  | block (r : Nat) (tag : Half) (w : Nat) (j : Nat)
  /-- the rows of LDVT on local memory or the landing from `first` on: four columns, bytes column by column (R140) -/
  | columns (r : Nat) (tag : Half) (w : Nat) (first : Nat)
  /-- the trap record: s28-s31 and q23 (R257, R259) -/
  | record
  /-- a head, whose form has taken the bytes as they will be read (R99) -/
  | head
  deriving DecidableEq, Repr

/-- The operation of an atomic (R143). -/
inductive AtomOp where
  | add
  | min (unsigned : Bool)
  | max (unsigned : Bool)
  | and
  | or
  | xor
  | swap
  | cas (expect : Dword)
  | fadd
  deriving DecidableEq, Repr

/-- One access to memory, by keys of the device's memory (see `Ops`). -/
inductive MemAct where
  | read (keys : List Nat) (shape : ReadShape)
  | write (cells : List (Nat × Byte))
  | atomic (keys : List Nat) (op : AtomOp) (operand : Dword) (r : Nat)
  /-- ARED: the window, the word's device address, and its contribution (R144, R304) -/
  | contribute (win : Nat) (addr : Nat) (op : BitVec 2) (round : Word) (value : Dword)
  deriving DecidableEq, Repr

/-- What lands when a result is due: in the context's own state, or in an engine that belongs to the core (R256). -/
inductive Landing where
  | scalar (r : Nat) (v : Dword)
  | vector (r : Nat) (tag : Half) (lanes : Lanes) (which : Dword)
  | pred (q : Nat) (v : Dword)
  | push (f : Nat) (v : Dword)
  | nfc (n : Nat) (amount : Nat)
  | link (v : Dword)
  /-- s28-s31 and q23 from the trap record -/
  | record (v : List Dword)
  /-- a load from local memory or the own landing whose bytes are not read yet -/
  | load (shape : ReadShape)
  /-- a scalar result whose value is not known yet: the old word of an atomic, the phase of a TBARR -/
  | await (d : Nat)
  | latch (b : Bool) (l : Latch)
  | slotBytes (slot : Nat) (off : Nat) (data : List Byte)
  | beat (tile : Nat) (a b : Latch) (g : Bool)
  | clearTile (tile : Nat) (e : Half)
  | setExp (tile : Nat) (row : Option Nat) (e : Half)
  | norm (tile : Nat)
  | table (n : Nat) (entries : List Half) (scale : Int)
  | skColumns (sk : Nat) (col : Nat) (left right : List (List Word))
  | skWrite (sk : Nat) (right : Bool) (col block : Nat) (lanes : Lanes)
  | skClear (sk : Nat) (cols : Nat)
  | skSil (sk : Nat) (field : Nat) (v : Dword)
  /-- a value that is not finite, folded or written by SKWRL or SKWRR -/
  | skPoison (sk : Nat) (fold : Bool)
  deriving DecidableEq, Repr

/-- What a form that breaks R175 reads or writes of its tile. -/
inductive Touch where
  /-- every word and exponent -/
  | tile
  /-- the words of a column -/
  | column (j : Nat)
  /-- the exponent of a row, or of every row -/
  | exponent (row : Option Nat)
  deriving DecidableEq, Repr

/-- A result in flight: it lands at the end of the cycle in which `left` is 1 (R58). `fresh` marks one issued in the
present cycle, `overtaken` one that a later-issued write to its register has passed (R59); `gen` is the generation of
the resource it belongs to, so that a result bound for a released resource is dropped (R23, R195); `unit` is the unit
class of the slot that issued it, by which pushes of one cycle are ordered (R54); `breach` is what forms that issued
too early for it leave either way (R175). -/
structure Flight where
  id : Nat
  left : Nat
  fresh : Bool
  overtaken : Bool
  breach : List Touch
  gen : Nat
  unit : Nat
  what : Landing
  deriving DecidableEq, Repr

/-- Page kinds (R225). -/
inductive PageKind where
  | strong
  | release
  | unordered
  deriving DecidableEq, Repr

/-- A main-memory access, or the part of one on one page (R226), that has not been performed (R132): what it does, the
address the program gave, its charge in PBMEM, its page kind (R225) and its ordering modifiers. -/
structure Async where
  id : Nat
  /-- the access it is a part of, named by its first part -/
  whole : Nat
  addr : Dword
  act : MemAct
  /-- bytes of a single-copy-atomic unit (R223); the places of its bytes in the access; those of a load read so far -/
  unit : Nat
  places : List Nat
  got : List (Nat × Byte)
  charge : Nat
  kind : PageKind
  acquire : Bool
  releases : Bool
  /-- accesses that are performed before it for every agent (R22, R224), and those that are preserved before it for the
  agents of a scope (R227, R228, R232) -/
  after : List Nat
  within : List (Nat × Nat)
  /-- the SCLK at which it began to wait for the Skidder (R287) -/
  waiting : Option Nat
  /-- it has met its bound or bounced (R263, R296) -/
  suspended : Bool
  overtaken : Bool
  fresh : Bool
  /-- in the exposed space: the 256-byte blocks of its keys, each with that of its addresses, which give the order of blocks
  (R279) -/
  runs : List (Nat × Nat)
  deriving DecidableEq, Repr

/-- An agent that makes accesses (R220). The host lies in no scope and is named nowhere (R228). -/
inductive Agent where
  | context (core : Fin 64) (ctx : Fin 4)
  | channel (core : Fin 64) (ctx : Fin 4)
  | station
  | peer (rank : BitVec 7)
  deriving DecidableEq, Repr

/-- Bytes of an access that an agent makes: those of `acc.act`, which follow what `acc` names (R229); and the draw at which
they are made. -/
structure Event where
  agent : Agent
  acc : Async
  time : Nat
  deriving DecidableEq, Repr

/-- A FENCE in force: which classes it orders and the accesses issued before it, by class (R126, R227). -/
structure Fence where
  orderings : BitVec 4
  scope : BitVec 3
  loads : List Nat
  stores : List Nat
  deriving DecidableEq, Repr

/-- States of a context (R14). -/
inductive CtxState where
  | free
  | dormant
  | ready
  | waiting
  | swapped
  | stopped
  deriving DecidableEq, Repr

/-- What a WAITING context waits for (R14, R265). -/
inductive Waiting where
  /-- the barrier unit has taken up the wait once `applied` (R153) -/
  | tbwait (r : Nat) (name : Nat) (phase : Word) (applied : Bool)
  /-- the phase has completed: the value for r, and the accesses that the arrivals had made (R232) -/
  | released (r : Nat) (v : Dword) (before : List Nat)
  | blzwt (r : Nat) (slot : Nat) (seq : Word)
  | oclaim (slot : Nat)
  | ctxsv (addr : Dword)
  | ctxrs (addr : Dword)
  deriving DecidableEq, Repr

/-- The shadow set of a copy channel (R102). -/
structure CopyRegs where
  rows : Nat
  rowb : Nat
  ests : Dword
  estd : Dword
  ecfg : Dword
  /-- the reserved field of EGEO as written -/
  egeoReserved : Half
  deriving DecidableEq, Repr

/-- The state that the trap entry sets aside and RETT restores (R257). -/
structure Shadow where
  loops : List LoopEntry
  repbuf : RepBuf
  latchA : Latch
  latchB : Latch
  deriving DecidableEq, Repr

/-- A command that a channel has accepted, with the counters that its two sides are charged to, as WAITB numbers them: 0 PBSR,
1 PBSW, 2 PBMEM, 3 none (R105, R151, R231). Its reads bear its name, its writes the next. -/
structure Accepted where
  id : Nat
  read : Nat
  write : Nat
  bytes : Nat
  deriving DecidableEq, Repr

/-- One of the four contexts of a core. -/
structure Context where
  state : CtxState
  wait : Option Waiting
  /-- name of the result of the wait, and whether a later-issued write to its register is under way (R59) -/
  waitId : Nat
  waitPassed : Bool
  /-- the wait in which the trapped task resumes, installed by CTXRS (R265) -/
  waitrec : Option Waiting
  /-- the image of a CTXSV or CTXRS that waits: the bytes still to be written, by key, or those read, by place (R266) -/
  imageCells : List (Nat × Byte)
  /-- the task that holds it (an index of `State.tasks`) -/
  task : Option Nat
  /-- the task or launch it is reserved to when it runs nothing (R15) -/
  reservedTask : Option Nat
  reservedLaunch : Option Nat
  sibling : Nat
  /-- the context has ended and waits for its counters (R23) -/
  ending : Bool
  pc : Dword
  /-- the bundle at `pc` is reached by falling through (R64) -/
  fellThrough : Bool
  sregs : Vector Dword 32
  vregs : Vector VReg 32
  preds : Vector Dword 24
  nfc : Vector Word 16
  pbsr : Nat
  pbsw : Nat
  pbmem : Nat
  qbound : Word
  qcount : Word
  qmiss : Bool
  wkid : Dword
  wkfld : Dword
  bkey : Half
  tm : Bool
  resume : BitVec 3
  blk : BitVec 2
  tcause : Byte
  ncause : Byte
  taddr : Dword
  tepc : Dword
  tvec : Dword
  tsp : Dword
  /-- the re-entered bundle issues only slots of class RESUME or above (R259) -/
  reentry : Bool
  /-- TSTAT.XFER, and the transfer that a trapped bundle has committed (R114) -/
  xfer : Bool
  pending : Option Xfer
  /-- an EXIT or a TRAP of a trapped bundle that has committed (log entry 12) -/
  pendingExit : Bool
  pendingSoft : Option Half
  snapshot : List Flight
  held : List Flight
  shadow : Shadow
  loops : List LoopEntry
  repbuf : RepBuf
  latchA : Latch
  latchB : Latch
  flight : List Flight
  async : List Async
  fences : List Fence
  /-- accesses of the starter that every access of this context follows (R22), and others that stand before what it does
  next, each with a scope (R231, R232) -/
  inherited : List Nat
  edges : List (Nat × Nat)
  /-- the scope of the FENCE that the data of the outcomes it has read still need, 0 for none (R235); the draw of the last
  access that it stands after -/
  claimed : Nat
  view : Nat
  /-- accesses of the trap sequencer that must be performed before the next bundle issues (R257) -/
  blockedOn : List Nat
  /-- faults latched from earlier work, earliest first, and whether that work was issued in trap mode (R258, R334) -/
  latched : List (Cause × Dword × Bool)
  /-- the first name given out since the context entered trap mode -/
  tmFrom : Nat
  fi : Vector (List Dword) 4
  copy : CopyRegs
  /-- commands accepted since the first that is still in the channel or whose accesses the log keeps (R231) -/
  accepted : List Accepted
  bubble : Nat
  waitCount : Nat
  lastCut : Option Nat
  /-- held before its quiet bundle by a device-wide stop, at this cut (R269), or stopped for pre-emption (R248) -/
  heldCut : Option Nat
  stopped : Bool
  /-- switched out by a page fault: entry, faulting address, image saved, notice written (R262, R292) -/
  swapEntry : Nat
  swapAddr : Dword
  swapSaved : Bool
  /-- the fault service has answered: the page is resident, or cannot be made so (R292) -/
  swapAnswer : Option Bool
  deriving DecidableEq, Repr

/-! ### Resources of a core -/

/-- States of an accumulator tile (R172). -/
inductive TileState where
  | free
  | held (task : Nat)
  | sketch (sk : Nat)
  deriving DecidableEq, Repr

/-- States of an operand slot (R100). -/
inductive SlotState where
  | free
  | held
  | filling
  deriving DecidableEq, Repr

structure Slot where
  state : SlotState
  holder : Nat
  sideB : Bool
  tag : Half
  gen : Nat
  deriving DecidableEq, Repr

structure Table where
  holder : Option Nat
  entries : List Half
  scale : Int
  gen : Nat
  deriving DecidableEq, Repr

/-- A descriptor's state as a form that issues before earlier writes have landed reads it: each part old or new (R197). -/
structure Factors where
  pois : Bool
  silE : Dword
  silN : Dword
  silK : Word
  left : List (List Word)
  right : List (List Word)
  deriving DecidableEq, Repr

/-- What a busy sketch descriptor is doing (R208-R211). -/
inductive BusyOp where
  | buck
  /-- a fold that bucks first: the columns it appends, and whether it poisons -/
  | fold (left right : List (List Word)) (poisons : Bool)
  /-- an accord, with the source as it stood at issue -/
  | accord (bf16 pois : Bool) (left right : List (List Word)) (e n : Dword) (k : Word) (source : Nat)
  | source
  deriving DecidableEq, Repr

/-- The busy window of a descriptor: the context that issued the form, the cycles left, the column count before it, what
it has read where it issued before earlier writes had landed (R197, R198), and the name of its NFC increment (R49). -/
structure Busy where
  ctx : Fin 4
  left : Nat
  cols : Nat
  early : Option Factors
  op : BusyOp
  nfc : Option Nat
  deriving DecidableEq, Repr

/-- A sketch descriptor (R194, R206): its factors are lists of columns in the storage format. -/
structure Sketch where
  holder : Option Nat
  /-- SKDEF has landed -/
  defined : Bool
  definition : Dword
  cols : Nat
  pois : Bool
  silE : Dword
  silN : Dword
  silK : Word
  left : List (List Word)
  right : List (List Word)
  busy : Option Busy
  gen : Nat
  deriving DecidableEq, Repr

/-- A circular-buffer descriptor CBD (R98). -/
structure Ring where
  holder : Option Nat
  role : Bool
  base : Nat
  len : Nat
  pp : Nat
  cp : Nat
  poff : Nat
  coff : Nat
  tag : Half
  deriving DecidableEq, Repr

/-- One side of a copy command (R105). -/
inductive Side where
  | localMem (addr : Nat)
  | landing (addr : Nat)
  | main (addr : Dword)
  | slot (n : Nat) (off : Nat)
  | ringBuf (n : Nat)
  deriving DecidableEq, Repr

/-- An accepted command of a copy channel: its active set, what it has moved, and its clock (R101-R104). -/
structure Command where
  id : Nat
  task : Nat
  src : Side
  dst : Side
  /-- sB, the source address, for TADDR -/
  srcAddr : Dword
  regs : CopyRegs
  xform : BitVec 2
  key : Half
  /-- blocks that have moved or are on their way through a circuit, and the cycle the command started in -/
  done : Nat
  started : Option Nat
  /-- cycles a bound command has waited for a ring tile (R104), and ring tiles it has finished -/
  waited : Nat
  finished : Nat
  /-- it has met a fault (R106): it moves nothing more, and leaves once its blocks under way have arrived -/
  bad : Bool
  /-- a SEND: its message -/
  message : Option Nat
  /-- blocks on their way through a circuit: cycle of departure, cycle of arrival, block, core it arrives at (R94) -/
  circuit : List (Nat × Nat × Nat × Fin 64)
  /-- the cycle in which the next block became ready to depart -/
  readyAt : Option Nat
  /-- blocks read from one remote landing that are ready, from a cycle on, to depart for another -/
  legs : List (Nat × Nat)
  /-- landing and local stores that every access of the command follows (R230), and what stands before it with the scopes
  (R231) -/
  before : List Nat
  edges : List (Nat × Nat)
  /-- source bytes that a program has written since the command was accepted (R146) -/
  dirty : List Nat
  /-- of blocks that have not moved as a whole: what has been read for each byte of the destination, and the places written
  (R223, R230) -/
  got : List (Nat × List (Option Byte))
  ahead : List (Nat × Nat)
  /-- bytes of each side that its counter still holds (R105) -/
  unread : Nat
  unwritten : Nat
  deriving DecidableEq, Repr

/-- A window-table entry (R251). -/
structure WinEntry where
  index : Nat
  va : Nat
  psz : Nat
  kind : PageKind
  perm : BitVec 3
  pin : Bool
  res : Bool
  comp : Bool
  pa : Nat
  npg : Nat
  set : Nat
  peer0 : Nat
  deriving DecidableEq, Repr

/-- An access on its way to local memory or the own landing (R131): made at the end of the cycle in which `left`
is 1. -/
structure MemOp where
  left : Nat
  ctx : Fin 4
  id : Nat
  addr : Dword
  act : MemAct
  acquire : Bool
  releases : Bool
  /-- accesses that are preserved before it, each with its scope (R227, R232, R333) -/
  within : List (Nat × Nat)
  deriving DecidableEq, Repr

/-- An entry of an inbox (R20). -/
structure Mail where
  launch : Nat
  handler : Dword
  addr : Dword
  length : Nat
  sender : BitVec 8
  rank : BitVec 7
  wkid : Dword
  before : List Nat
  /-- what the sender has put before what follows, with the scopes, and the draw of the last access that it stood after -/
  edges : List (Nat × Nat)
  view : Nat
  deriving DecidableEq, Repr

/-- Whether a core is awake (R246). -/
inductive Wake where
  | awake
  | gated
  | waking (at_ : Nat)
  deriving DecidableEq, Repr

/-- An owner-bit flip by a context: it takes effect at the end of a cycle, after the accesses named (R97). -/
structure Flip where
  tiles : List Nat
  engine : Bool
  after : List Nat
  deriving DecidableEq, Repr

structure Core where
  ctxs : Vector Context 4
  holdcy : Dword
  /-- the hold line is raised in this cycle (R60) -/
  held : Bool
  /-- cycles of an in-flight hold left (R89) -/
  holdLeft : Nat
  tiles : Vector TileState 64
  /-- generation of each tile, for results of earlier holders -/
  tileGen : Vector Nat 64
  slots : Vector Slot 32
  tables : Vector Table 4
  sketches : Vector Sketch 16
  /-- owner bits of the local tiles at ENGINE (R96) -/
  engineTiles : List Nat
  flips : List Flip
  rings : Vector Ring 16
  channels : Vector (List Command) 4
  inbox : List Mail
  /-- window tables loaded, by launch (R251) -/
  windows : List (Nat × List WinEntry)
  memq : List MemOp
  wake : Wake
  idleSince : Nat
  deriving DecidableEq, Repr

/-! ### Clusters, launches and tasks -/

/-- A task-barrier record (R152-R154). -/
structure Barrier where
  launch : Nat
  group : Nat
  name : Nat
  size : Nat
  pm : Nat
  ph : Word
  arrived : List (Nat × Bool)
  arrivedNext : List (Nat × Bool)
  /-- ranks that have retired, and the accesses of each (R232) -/
  retired : List Nat
  left : List (Nat × List Nat)
  dc : Word
  gone : Bool
  /-- accesses made before the arrivals of PH, of PH + 1 and of the phases before (R232) -/
  before : List Nat
  beforeNext : List Nat
  beforeDone : List Nat
  deriving DecidableEq, Repr

/-- A barrier form on its way to the unit (R153): applied at the end of cycle `due`. -/
inductive BarOp where
  | init (mask : Dword)
  /-- TBARR: the result in flight that takes the phase -/
  | arrive (id : Nat)
  | wait (phase : Word)
  deriving DecidableEq, Repr

structure BarMsg where
  due : Nat
  core : Fin 64
  ctx : Fin 4
  task : Nat
  name : Nat
  op : BarOp
  deriving DecidableEq, Repr

/-- A launch record as taken (R239), and where the launch stands. -/
structure Launch where
  queue : Nat
  prio : Nat
  part : Nat
  cut : Dword
  counts : List Nat
  entry : Dword
  qb : Word
  key : Half
  tbset : Byte
  handlers : List Dword
  ranges : List (Nat × Nat)
  crec : Dword
  trapv : Dword
  signal : Dword
  waits : List Dword
  args : List Dword
  msgctx : Nat
  span : Nat
  table : List WinEntry
  stab : Dword
  slotTable : Option (Nat × List (Nat × Nat × Nat))
  /-- index of the next barrier group to start -/
  nextGroup : Nat
  /-- cluster chosen for each affinity group -/
  clusters : List (Nat × Nat)
  /-- the first task has started -/
  started : Bool
  completed : Bool
  kills : Nat
  firstKill : Option (Dword × Nat)
  undelivered : Nat
  /-- accesses of its tasks that the log kept when they retired (R233) -/
  made : List Nat
  reset : Bool
  /-- it has reached for a remote landing and names no slot table (R93) -/
  unrouted : Bool
  /-- the host changed its record after it was published (R238) -/
  amended : Bool
  deriving DecidableEq, Repr

/-- A task of a launch (R6). -/
structure Task where
  launch : Nat
  wkid : Dword
  group : Nat
  rank : Nat
  core : Fin 64
  ctxs : List (Fin 4)
  handler : Bool
  started : Nat
  /-- cause of a kill (R23) -/
  killed : Option Nat
  retired : Bool
  /-- its pre-emption group is saved in this frame (R267), since this cycle; cycles that it has stood saved before (R246) -/
  frame : Option Nat
  savedAt : Nat
  away : Nat
  deriving DecidableEq, Repr

/-- A message between SEND and its acceptance (R21, R107). -/
structure Message where
  id : Nat
  core : Fin 64
  ctx : Fin 4
  target : Fin 64
  launch : Nat
  handler : Dword
  dst : Dword
  src : List Nat
  sender : BitVec 8
  wkid : Dword
  charge : Nat
  /-- accesses of the sender that the handler's accesses follow (R22), the landing and local stores that its own follow
  (R230), and what stands before its own with the scopes (R231) -/
  before : List Nat
  chip : List Nat
  order : List (Nat × Nat)
  /-- what the sender passes on to the handler, with the scopes (R22), and the draw of the last access that the sender stood
  after -/
  edges : List (Nat × Nat)
  view : Nat
  /-- another device's rank: sent on the ring (R302) -/
  far : Option (BitVec 7)
  /-- the channel has offered it (R107) -/
  ready : Bool
  accepted : Bool
  /-- once accepted: the payload as read, and the cycle in which its last byte is written, or for another cluster the
  cycle in which its blocks became ready (R94) -/
  data : List Byte
  due : Nat
  /-- bank key of the sender (R86) -/
  key : Half
  /-- blocks that have departed for another cluster, and those under way, as of a command -/
  sent : Nat
  circuit : List (Nat × Nat × Nat × Fin 64)
  /-- earlier values of source bytes that a program has written before the charge was off (R107) -/
  stale : List (Nat × Byte)
  /-- places of the payload written ahead of its last cycle (R223) -/
  ahead : List Nat
  deriving DecidableEq, Repr

/-- A pre-emption group that is asked to stop or is saved (R247, R267). -/
structure Preempt where
  tasks : List Nat
  saved : Bool
  frames : List Dword
  /-- saved by a device-wide stop: it resumes once the stop is over (R269) -/
  byStop : Bool
  /-- saved members: task, number and the context, for what no image carries and for a release that reaches it -/
  kept : List (Nat × Fin 4 × Context)
  /-- launch and number of the barrier group that it makes room for (R248) -/
  waiter : Option (Nat × Nat)
  deriving DecidableEq, Repr

/-- A launch queue's registers (R237). -/
structure Queue where
  base : Dword
  en : Bool
  irq : Bool
  vec : Nat
  lsz : Nat
  part : Nat
  prio : Nat
  tail : Word
  head : Word
  derr : Bool
  /-- the head record has been taken and waits for its first start -/
  taken : Bool
  /-- places of the ring whose published records the host has changed (R238) -/
  changed : List Nat
  deriving DecidableEq, Repr

/-! ### Memory controller -/

/-- States of a block of the exposed space (R277, R280). -/
structure BlockMeta where
  state : Nat
  nsec : Nat
  ofs : Nat
  chunk : Nat
  deriving DecidableEq, Repr

/-- Who issued a write that waits for sectors (R287). -/
inductive Writer where
  | context (core : Fin 64) (ctx : Fin 4) (id : Nat)
  | copy (core : Fin 64) (ctx : Fin 4)
  | peer (rank : BitVec 7) (refusals : Nat)
  /-- a peer's atomic, which reads its word when it is performed (R286) -/
  | peerAtom (rank : BitVec 7) (refusals : Nat) (op : AtomOp) (operand : Dword)
  /-- the result of a round: window and key of the word -/
  | station (win addr : Nat)
  | host
  /-- the attestation report (R332) -/
  | report
  deriving DecidableEq, Repr

/-- A write, or the part of one to one block, that waits for sectors, or behind one that does (R285). -/
structure WaitingWrite where
  id : Nat
  writer : Writer
  /-- keys of the block and the bytes to write -/
  cells : List (Nat × Byte)
  /-- the SCLK at which it found no sectors; none while it waits behind another or for the initialisation (R283) -/
  since : Option Nat
  deriving DecidableEq, Repr

/-! ### Fabric -/

/-- A claim of an open set (R309). -/
structure Claim where
  rank : BitVec 7
  pri : BitVec 3
  value : Dword
  start : Nat
  deriving DecidableEq, Repr

/-- The open set of a claim slot (R307, R309). -/
structure OpenSet where
  t0 : Nat
  claims : List Claim
  win : Nat
  bound : Nat
  group : Dword
  objections : Nat
  maxv : Dword
  lowobj : Option (BitVec 7)
  miss : Bool
  /-- a claim of this device was refused while the set was open -/
  refused : Bool
  /-- claims with different descriptors or windows have met in it (R307) -/
  mixed : Bool
  deriving DecidableEq, Repr

/-- A claim slot record (R307, R311). -/
structure ClaimSlot where
  opened : Option OpenSet
  seq : Word
  code : Nat
  winner : BitVec 7
  value : Dword
  lowobj : BitVec 7
  maxv : Dword
  nobj : Nat
  miss : Bool
  /-- the group of the last outcome (R235) -/
  group : Dword
  /-- objections that have come before any claim of their set (R310) -/
  early : List (BitVec 7 × Dword)
  deriving DecidableEq, Repr

/-- A reduction window entry RDWIN (R303). -/
structure RedWindow where
  dword0 : Dword
  dword1 : Dword
  deriving DecidableEq, Repr

/-- An open round, or one held until the rounds before it complete (R304). -/
structure Round where
  win : Nat
  /-- key of the word -/
  addr : Nat
  op : BitVec 2
  number : Word
  contributions : List (BitVec 7 × Dword)
  /-- names of this device's contributions (R236) -/
  ids : List Nat
  /-- a plain store has reached the word while the round is open (R234) -/
  disturbed : Bool
  deriving DecidableEq, Repr

/-- A link: host links 0-1, ring links 2-9 (R324, R325). -/
structure Link where
  up : Bool
  failures : Nat
  setting : LinkSetting
  retraining : Bool
  /-- sequence number of the last flit sent and of the last accepted -/
  sent : Nat
  accepted : Nat
  /-- flits sent and not yet known good: sequence number and channel -/
  replay : List (Nat × Nat)
  credits : Vector Nat 17
  freeSlots : Vector Nat 17
  /-- the last accepted flit when the free slots were last reported (R325) -/
  counted : Nat
  deriving DecidableEq, Repr

/-- What the device sends outwards: to the host, the ring and the blaze plane. -/
inductive Output where
  | msix (vec : Nat)
  | machineCheck
  | bar2Data (data : List Byte)
  | unsupported
  /-- a write to a peer: device addresses (2^64 higher for its exposed space) and bytes -/
  | slotOut (rank : BitVec 7) (cells : List (Nat × Byte))
  /-- an atomic on a word that a peer holds, which that device performs (R143, R234) -/
  | atomicOut (rank : BitVec 7) (addr : Nat) (op : AtomOp) (operand : Dword) (bytes : Nat)
  | slotRefused (rank : BitVec 7) (space : Bool) (bounced : Bool)
  | slotReply (rank : BitVec 7) (data : List Byte)
  /-- a peer's access has met an uncorrectable error here -/
  | slotPoisoned (rank : BitVec 7)
  | messageOut (rank : BitVec 7) (core : BitVec 6) (hnd : BitVec 4) (addr : Dword) (data : List Byte) (sender : BitVec 8)
    (wkid : Dword) (key : Half)
  | messageBounced (rank : BitVec 7)
  | fifoOut (rank : BitVec 7) (core : Nat) (ctx : Nat) (fi : Nat) (v : Dword)
  | contributionOut (home : BitVec 7) (addr : Dword) (op : BitVec 2) (round : Word) (v : Dword)
  | claimOut (slot : Nat) (c : Claim) (group : Dword) (win : Nat)
  | objectionOut (slot : Nat) (value : Dword)
  | beat (group : Nat)
  | creditCounts (link : Nat) (seq : Nat) (counts : List Nat)
  | replayed (link : Nat) (flits : List (Nat × Nat))
  deriving DecidableEq, Repr

/-- A ring slot that has come and waits in its buffer: its source, address, space, request, and how often it has been
refused (R296, R299). -/
structure RingSlot where
  src : BitVec 7
  addr : Dword
  exposed : Bool
  data : PeerRequest
  refusals : Nat
  deriving DecidableEq, Repr

/-- A claim or an objection on its way out: its name among the accesses of its context, the context (none for the host),
its slot, and the accesses that stand before it (R222, R235). -/
structure PlaneMessage where
  id : Nat
  origin : Option (Fin 64 × Fin 4)
  slot : Nat
  before : List Nat
  what : Output
  deriving DecidableEq, Repr

/-! ### The device -/

/-- The service operation that runs (R328). -/
structure Service where
  op : Nat
  tgt : Nat
  deriving DecidableEq, Repr

/-- BAR0 registers that only hold what the host wrote or what the device counts (R241, R264, R282, R315, R323,
R332). -/
structure HostRegs where
  evbase : Dword
  csave : Dword
  spoolb : Dword
  spooln : Half
  dstopGo : Bool
  dstopPmax : BitVec 3
  dtarget : Dword
  mnqb : Dword
  mnqh : Nat
  mnqt : Nat
  mnqOvf : Bool
  mnqDrop : Word
  mthr : Word
  wupd : Nat
  cmpEn : Bool
  cmpBusy : Bool
  cmpVec : Nat
  cxsize : Nat
  cmeta : Dword
  cpool : Dword
  cfree : Nat
  cresv : Nat
  clow : Nat
  skbnd : Word
  skActive : Bool
  skResv : Bool
  /-- a run from the reserve has started the Skidder, which has made no pass since (R284) -/
  skRun : Bool
  hdrop : Half
  oosn : Word
  balPend : Bool
  balSect : Nat
  splb : Dword
  spln : Half
  evqb : Dword
  evqh : Nat
  evqt : Nat
  fnqb : Dword
  fnqh : Nat
  fnqt : Nat
  bwin : Word
  bgrp : Vector Dword 8
  rdwin : Vector RedWindow 8
  lost : Word
  rddup : Half
  pexp : Vector (Dword × Dword) 4
  hclval : Dword
  hclsel : Dword
  hclerr : Nat
  h2base : Dword
  h2key : Half
  cecnt : Dword
  uecnt : Dword
  svcBusy : Bool
  svcRes : Nat
  pcfg : Vector Dword 8
  plim : Nat
  mhz : Nat
  watts : Nat
  attn : Vector Dword 4
  attbuf : Dword
  attBusy : Bool
  attDone : Bool
  vfail : Bool
  hrv : Half
  deriving DecidableEq, Repr

/-- Which part of a cycle moves next: the cores one after another, each picking its primary context, issuing it and
issuing its secondary; then, core by core, the writes that are due, the engine's steps, and what comes through the circuit
port; then the barrier units; then, core by core, the reads that are due and the results that land; then the rest of the
device (log entry 5). -/
inductive Phase where
  | pick (core : Fin 64)
  | issue (core : Fin 64) (ctx : Fin 4) (second : Option (Fin 4))
  | second (core : Fin 64) (ctx : Fin 4)
  | store (core : Fin 64)
  | port (core : Fin 64)
  | units
  | land (core : Fin 64)
  | tick
  deriving DecidableEq, Repr

/-- Bundles of the present cycle have begun to issue, or may have. -/
def Phase.issuing : Phase → Bool
  | .pick k => k != 0
  | .issue .. | .second .. => true
  | _ => false

/-- The bundle being issued: whose it is, where it stands, the slot in hand, and what its slots have done. -/
structure Cursor where
  core : Fin 64
  ctx : Fin 4
  /-- address of the bundle and of the next bundle in memory -/
  addr : Dword
  next : Dword
  /-- the slot word in hand and its unit class -/
  word : Word
  unit : Nat
  /-- a slot has trapped or the context left: nothing further of the bundle issues -/
  stopped : Bool
  xfer : Option Xfer
  /-- a TRAP slot's immediate (R124) -/
  soft : Option Half
  /-- an EXIT slot (R119) -/
  exit : Bool
  /-- a QUIET slot has offered its cut (R120) -/
  cut : Bool
  /-- explicit words after a REP header, and the expansion (R63) -/
  explicit : List Word
  expansion : RepBuf
  /-- counters as they stood before the bundle (R49, R127) -/
  nfc : Vector Word 16
  deriving DecidableEq, Repr

structure State where
  sclk : Dword
  ringTime : Nat
  stage : Nat
  rank : BitVec 7
  /-- every byte of the device's memories, in canonical form -/
  mem : Memory
  /-- bytes with an uncorrectable error, by key (R270) -/
  poison : List Nat
  regs : HostRegs
  cores : Vector Core 64
  barriers : Vector (List Barrier) 8
  barq : List BarMsg
  queues : Vector Queue 64
  launches : List Launch
  tasks : List Task
  preempts : List Preempt
  /-- run-time estimate Test of each launch on each cluster (R246) -/
  estimates : List ((Nat × Nat) × Nat)
  /-- queue last taken at each priority (R243) -/
  lastTaken : Vector (Fin 64) 8
  /-- slot table loaded in each partition, and the launches that use it (R93) -/
  slotTables : Vector (Option (Nat × List (Nat × Nat × Nat))) 8
  messages : List Message
  /-- notices that have not been written, in the order of their switch-outs (R291): the cycle, the address, context,
  core and entry -/
  notices : List (Nat × Dword × Fin 4 × Fin 64 × Nat)
  /-- pages counted: virtual base, count, queued (R271, R272) -/
  pageCounts : List ((Nat × Nat) × Word × Bool)
  blocks : List (Nat × BlockMeta)
  /-- sectors in use of each chunk of the pool, as a mask; an unlisted chunk is free (R281) -/
  chunks : List (Nat × Byte)
  waitingWrites : List WaitingWrite
  /-- landing slots written by CMP and not written since, each by its keys (R103) -/
  packed : List (List Nat)
  /-- the page that is being evicted: its exposed address and size (R289) -/
  evicting : Option (Nat × Nat)
  /-- what has been performed, oldest first, since an access was performed ahead of one that is preserved before it and
  still is not (R229) -/
  log : List Event
  /-- main-memory bytes written while a group is defined, last first: what each held before the write, and the draw of
  that (R235) -/
  past : List (Nat × Byte × Nat)
  fbind : Vector (Vector (Vector Dword 4) 4) 64
  /-- fabric FIFO entries on their way, oldest first: receiving core, context, fi, value (R301) and
  the output register that sent it -/
  fifoq : List (Fin 64 × Fin 4 × Fin 4 × Dword × Nat)
  claims : Vector ClaimSlot 16
  /-- messages of the blaze plane that have not left (R235) -/
  plane : List PlaneMessage
  /-- claims received in the present cycle while bundles issue, taken in at its end (R308) -/
  late : List Instr
  /-- writes of WSEL that wait for the end of the cycle, each with the page address that WUPD held (R264) -/
  wsels : List (Dword × Nat)
  /-- answers to peers that wait for a credit of channel 0 (R299), and messages of peers that wait or circulate, with
  the cycle in which each is offered again, and whether it has been refused (R296) -/
  replies : List (BitVec 7 × Output)
  /-- ring slots of channel 0 that have come and cannot be served yet (R229, R285, R299) -/
  buffered : List RingSlot
  circling : List (Nat × Bool × Instr)
  /-- ranks declared lost, and the ring time at which a plane message of each rank was last heard, listed where one was
  (R313) -/
  lostRanks : List (BitVec 7)
  heard : List (BitVec 7 × Nat)
  /-- presence beats of other members to come: the ring time at which each is heard, and the rank that sends it (R305) -/
  beats : List (Nat × BitVec 7)
  /-- expected round of each window word, listed where not 0, and the open rounds (R304) -/
  expected : List ((Nat × Nat) × Word)
  rounds : List Round
  links : Vector Link 10
  service : Option Service
  /-- STOPPED contexts, first stopped first: core, context and the cycle (R323) -/
  machineChecks : List (Fin 64 × Fin 4 × Nat)
  /-- clusters of a reset partition whose stores are cleared once their tasks are gone (R327) -/
  clearing : List Nat
  /-- digests of the stage-1 image, the stage-2 firmware and the eight cluster firmwares: 64 bytes each as a free
  value's number; 0 before it is measured (R331) -/
  digests : Vector Nat 10
  outputs : List Output
  /-- inputs and unpredictable moments to come: the number of the machine's own steps before each (log entry 3) -/
  agenda : List (Nat × Instr)
  phase : Phase
  cur : Cursor
  /-- counter of free values and of names (log entry 4) -/
  draw : Nat
  nextId : Nat
  deriving DecidableEq, Repr

/-! ### Reset -/

def Latch.empty : Latch := ⟨0, [], false⟩

/-- A vector register at reset: zero lanes, tag 0 (R28). -/
def VReg.zero : VReg := ⟨0, Vector.replicate 64 0⟩

def RepBuf.empty : RepBuf := Vector.replicate 8 none

/-- The reset values of R102. -/
def CopyRegs.reset : CopyRegs := ⟨1, 256, 0, 0, 0x8000, 0⟩

def Shadow.empty : Shadow := ⟨[], RepBuf.empty, Latch.empty, Latch.empty⟩

/-- A context at device reset: FREE (R14), its registers as R28, R49, R105, R129 and R255 state; the values that
no rule states are zero (log entry 2). -/
def Context.reset : Context where
  state := .free
  wait := none
  waitId := 0
  waitPassed := false
  waitrec := none
  imageCells := []
  task := none
  reservedTask := none
  reservedLaunch := none
  sibling := 0
  ending := false
  pc := 0
  fellThrough := false
  sregs := Vector.replicate 32 0
  vregs := Vector.replicate 32 VReg.zero
  preds := Vector.replicate 24 0
  nfc := Vector.replicate 16 0
  pbsr := 0
  pbsw := 0
  pbmem := 0
  qbound := 0
  qcount := 0
  qmiss := false
  wkid := 0
  wkfld := 0
  bkey := 0
  tm := false
  resume := 0
  blk := 0
  tcause := 0
  ncause := 0
  taddr := 0
  tepc := 0
  tvec := 0
  tsp := 0
  reentry := false
  xfer := false
  pending := none
  pendingExit := false
  pendingSoft := none
  snapshot := []
  held := []
  shadow := Shadow.empty
  loops := []
  repbuf := RepBuf.empty
  latchA := Latch.empty
  latchB := Latch.empty
  flight := []
  async := []
  fences := []
  inherited := []
  edges := []
  claimed := 0
  view := 0
  blockedOn := []
  latched := []
  tmFrom := 0
  fi := Vector.replicate 4 []
  copy := CopyRegs.reset
  accepted := []
  bubble := 0
  waitCount := 0
  lastCut := none
  heldCut := none
  stopped := false
  swapEntry := 0
  swapAddr := 0
  swapSaved := false
  swapAnswer := none

def Slot.reset : Slot := ⟨.free, 0, false, 0, 0⟩
def Table.reset : Table := ⟨none, List.replicate 8 0, 0, 0⟩
def Sketch.reset : Sketch := ⟨none, false, 0, 0, false, 0, 0, 0, [], [], none, 0⟩
def Ring.reset : Ring := ⟨none, false, 0, 1, 0, 0, 0, 0, 0⟩

/-- A core at device reset. It is awake, of which R246 says nothing: the model's choice (log entry 92). -/
def Core.reset : Core where
  ctxs := Vector.replicate 4 Context.reset
  holdcy := 0
  held := false
  holdLeft := 0
  tiles := Vector.replicate 64 .free
  tileGen := Vector.replicate 64 0
  slots := Vector.replicate 32 Slot.reset
  tables := Vector.replicate 4 Table.reset
  sketches := Vector.replicate 16 Sketch.reset
  engineTiles := []
  flips := []
  rings := Vector.replicate 16 Ring.reset
  channels := Vector.replicate 4 []
  inbox := []
  windows := []
  memq := []
  wake := .awake
  idleSince := 0

/-- A launch queue at reset (R237). -/
def Queue.reset : Queue := ⟨0, false, false, 0, 4, 0, 0, 0, 0, false, false, []⟩

def ClaimSlot.reset : ClaimSlot := ⟨none, 0, 0, 0, 0, 0, 0, 0, false, 0, []⟩

def Link.reset : Link :=
  ⟨false, 0, ⟨0, 0, 0⟩, false, 0, 0, [], Vector.replicate 17 0, Vector.replicate 17 0, 0⟩

/-- BAR0 registers at reset: DSTOP.PMAX 7, SKBND 1,400,000, PCFG0 all, PLIM 2,600, MHZ 1,400, the rest 0 (R264,
R282, R323). -/
def HostRegs.reset : HostRegs where
  evbase := 0
  csave := 0
  spoolb := 0
  spooln := 0
  dstopGo := false
  dstopPmax := 7
  dtarget := 0
  mnqb := 0
  mnqh := 0
  mnqt := 0
  mnqOvf := false
  mnqDrop := 0
  mthr := 0
  wupd := 0
  cmpEn := false
  cmpBusy := false
  cmpVec := 0
  cxsize := 0
  cmeta := 0
  cpool := 0
  cfree := 0
  cresv := 0
  clow := 0
  skbnd := 1400000
  skActive := false
  skResv := false
  skRun := false
  hdrop := 0
  oosn := 0
  balPend := false
  balSect := 0
  splb := 0
  spln := 0
  evqb := 0
  evqh := 0
  evqt := 0
  fnqb := 0
  fnqh := 0
  fnqt := 0
  bwin := 0
  bgrp := Vector.replicate 8 0
  rdwin := Vector.replicate 8 ⟨0, 0⟩
  lost := 0
  rddup := 0
  pexp := Vector.replicate 4 (0, 0)
  hclval := 0
  hclsel := 0
  hclerr := 0
  h2base := 0
  h2key := 0
  cecnt := 0
  uecnt := 0
  svcBusy := false
  svcRes := 0
  pcfg := (Vector.replicate 8 0).set 0 0xFFFF0000FFFFFFFF
  plim := 2600
  mhz := 1400
  watts := 0
  attn := Vector.replicate 4 0
  attbuf := 0
  attBusy := false
  attDone := false
  vfail := false
  hrv := 0

def Cursor.reset : Cursor := ⟨0, 0, 0, 0, 0, 0, false, none, none, false, false, [], RepBuf.empty,
  Vector.replicate 16 0⟩

/-- The device right after reset: stage 0 (R321), every context FREE, memory with nothing listed. -/
def State.reset : State where
  sclk := 0
  ringTime := 0
  stage := 0
  rank := 0
  mem := ⟨[], []⟩
  poison := []
  regs := HostRegs.reset
  cores := Vector.replicate 64 Core.reset
  barriers := Vector.replicate 8 []
  barq := []
  queues := Vector.replicate 64 Queue.reset
  launches := []
  tasks := []
  preempts := []
  estimates := []
  lastTaken := Vector.replicate 8 63
  slotTables := Vector.replicate 8 none
  messages := []
  notices := []
  pageCounts := []
  blocks := []
  chunks := []
  waitingWrites := []
  packed := []
  evicting := none
  log := []
  past := []
  fbind := Vector.replicate 64 (Vector.replicate 4 (Vector.replicate 4 0))
  fifoq := []
  claims := Vector.replicate 16 ClaimSlot.reset
  plane := []
  late := []
  wsels := []
  replies := []
  buffered := []
  circling := []
  lostRanks := []
  heard := []
  beats := []
  expected := []
  rounds := []
  links := Vector.replicate 10 Link.reset
  service := none
  machineChecks := []
  clearing := []
  digests := Vector.replicate 10 0
  outputs := []
  agenda := []
  phase := .pick 0
  cur := Cursor.reset
  draw := 0
  nextId := 0

end Sys2Proof.Machine
end

