-- ==== Sys2Proof/Machine/Ops.lean ====
section
/-! DEFINITION. The named operations over the state: memory, registers and results in flight, address translation and
the checks of an access, the order of main-memory accesses, taking a trap and returning from one, ending a task. -/

namespace Sys2Proof.Machine

open Sys2Proof.Config

/-! ### Memory

The key space: HBM at its device addresses, then one region after another. -/

def exposedBase : Nat := 2 ^ 64
def landingBase : Nat := 2 ^ 65
def localBase : Nat := 2 ^ 66
def slotBase : Nat := 2 ^ 67
def accBase : Nat := 2 ^ 68
def expBase : Nat := 2 ^ 69
def hostBase : Nat := 2 ^ 70
def peerBase : Nat := 2 ^ 80

/-- The generation of a page; 0 while nobody has given it up since reset. -/
def Memory.gen (m : Memory) (page : Nat) : Nat := (m.gens.lookup page).getD 0

/-- What an unlisted byte reads as: zero since reset (log entry 1), a free value after a release (R23). -/
def Memory.blank (m : Memory) (k : Nat) : Byte :=
  if m.gen (k / tileBytes) = 0 then 0 else freeByte (m.gen (k / tileBytes)) k

def Memory.read (m : Memory) (k : Nat) : Byte := (m.cells.lookup k).getD (m.blank k)

/-- The bytes of a run from key a on that have to be listed. -/
def Memory.listed (m : Memory) (a : Nat) : List Byte → List Host.Cell
  | [] => []
  | b :: bs => if b = m.blank a then m.listed (a + 1) bs else (a, b) :: m.listed (a + 1) bs

/-- Writes a run of bytes from key a on. -/
def Memory.write (m : Memory) (a : Nat) (bs : List Byte) : Memory :=
  { m with cells := m.cells.filter (·.1 < a) ++ (m.listed a bs ++ m.cells.filter (a + bs.length ≤ ·.1)) }

/-- Writes bytes at single keys, the later ones standing. -/
def Memory.writeCells (m : Memory) (cells : List (Nat × Byte)) : Memory :=
  cells.foldl (fun m c => m.write c.1 [c.2]) m

/-- Gives up n pages from `page` on: their contents are the free values of generation g from now on. -/
def Memory.release (m : Memory) (page n g : Nat) : Memory where
  cells := m.cells.filter fun c => c.1 / tileBytes < page || page + n ≤ c.1 / tileBytes
  gens := (List.range n).map (fun i => (page + i, g)) ++ m.gens.filter fun p => p.1 < page || page + n ≤ p.1

/-- Clears n pages from `page` on to zero. -/
def Memory.clear (m : Memory) (page n : Nat) : Memory where
  cells := m.cells.filter fun c => c.1 / tileBytes < page || page + n ≤ c.1 / tileBytes
  gens := m.gens.filter fun p => p.1 < page || page + n ≤ p.1

/-- The canonical form: keys strictly rising, no byte listed that reads the same unlisted. -/
abbrev Memory.wf (m : Memory) : Prop :=
  m.cells.Pairwise (fun a b => a.1 < b.1) ∧ ∀ c ∈ m.cells, c.2 ≠ m.blank c.1

/-- A byte by its key; a byte of another device is whatever that device answers. -/
def State.byte (s : State) (k : Nat) : Byte := if peerBase ≤ k then freeByte s.draw k else s.mem.read k

def State.bytes (s : State) (k n : Nat) : List Byte := (List.range n).map fun i => s.byte (k + i)

def State.put (s : State) (k : Nat) (bs : List Byte) : State := { s with mem := s.mem.write k bs }

/-- The little-endian value of n bytes (R3). -/
def State.value (s : State) (k n : Nat) : Nat := leValue (s.bytes k n)

def State.putValue (s : State) (k n v : Nat) : State := s.put k (leBytes n v)

/-- The key of a device address that HBM holds (R2); beyond it there is no memory. -/
def hbm (a : Nat) : Except Stop Nat := if a < hbmBytes then .ok a else .error (.fault (.noSuchAddress a))

/-- n bytes of HBM at a device address; of none the address is not looked at. -/
def hbmRun (a n : Nat) : Except Stop Nat :=
  if n = 0 ∨ a + n ≤ hbmBytes then .ok a else .error (.fault (.noSuchAddress a))

/-- Uncorrectable errors in n bytes go with the bytes to another run of keys: the model's choice (log entry 78). -/
def State.carryErrors (s : State) (src dst n : Nat) : State :=
  { s with poison := s.poison ++ (s.poison.filter fun p => src ≤ p && p < src + n).map fun p => dst + (p - src) }

/-- Moves n bytes from one run of keys to another. -/
def State.move (s : State) (src dst n : Nat) : State := (s.carryErrors src dst n).put dst (s.bytes src n)

/-- Moves n bytes of accumulator words, whose bits [63:59] are zero (R43). -/
def State.moveWords (s : State) (src dst n : Nat) : State :=
  (s.carryErrors src dst n).put dst ((s.bytes src n).zipIdx.map fun p => if p.2 % 8 = 7 then p.1 &&& 7 else p.1)

/-- `LandingPlace` of R86 within a cluster: bank, row and byte of an offset, as one number. -/
def landingPlace (o : Nat) (key : Half) : Nat :=
  let line := o / 64
  let g := line / 16
  let h := BitVec.ofNat 16 g ^^^ key
  let f := h.extractLsb' 0 4 ^^^ h.extractLsb' 4 4 ^^^ h.extractLsb' 8 4 ^^^ h.extractLsb' 12 4
  let bank := (BitVec.ofNat 4 line ^^^ f).toNat
  (bank * 49152 + g) * 64 + o % 64

/-- The key of offset o of the whole landing range under a bank key. -/
def landingKey (o : Nat) (key : Half) : Nat :=
  landingBase + o / landingBytes * landingBytes + landingPlace (o % landingBytes) key

def localKey (core off : Nat) : Nat := localBase + core * localBytes + off
def slotKey (core slot off : Nat) : Nat := slotBase + (core * 32 + slot) * slotBytes + off
/-- Word (i, j) of an accumulator tile (R43). -/
def accKey (core tile i j : Nat) : Nat := accBase + (core * 64 + tile) * 49152 + (i * tileCols + j) * 8
/-- Row exponent i of a tile; the 64 exponents of a tile have a page of their own. -/
def expKey (core tile i : Nat) : Nat := expBase + (core * 64 + tile) * tileBytes + i * 2
def peerKey (rank : BitVec 7) (a : Nat) : Nat := peerBase + rank.toNat * 2 ^ 65 + a

/-! ### Cores, contexts, tasks -/

def State.core (s : State) (k : Fin 64) : Core := s.cores.get k

def State.setCore (s : State) (k : Fin 64) (c : Core) : State := { s with cores := s.cores.set k c }

def State.modCore (s : State) (k : Fin 64) (f : Core → Core) : State := s.setCore k (f (s.core k))

def Core.ctx (co : Core) (c : Fin 4) : Context := co.ctxs.get c

def Core.modCtx (co : Core) (c : Fin 4) (f : Context → Context) : Core :=
  { co with ctxs := co.ctxs.set c (f (co.ctx c)) }

def State.ctx (s : State) (k : Fin 64) (c : Fin 4) : Context := (s.core k).ctx c

def State.modCtx (s : State) (k : Fin 64) (c : Fin 4) (f : Context → Context) : State :=
  s.modCore k (·.modCtx c f)

/-- The context that issues. -/
def State.me (s : State) : Context := s.ctx s.cur.core s.cur.ctx

def State.modMe (s : State) (f : Context → Context) : State := s.modCtx s.cur.core s.cur.ctx f

def State.myCore (s : State) : Core := s.core s.cur.core

def State.modMyCore (s : State) (f : Core → Core) : State := s.modCore s.cur.core f

def allCores : List (Fin 64) := List.finRange 64
def allCtxs : List (Fin 4) := List.finRange 4

def State.foldCores (s : State) (f : State → Fin 64 → State) : State := allCores.foldl f s

def State.foldCtxs (s : State) (f : State → Fin 64 → Fin 4 → State) : State :=
  s.foldCores fun s k => allCtxs.foldl (fun s c => f s k c) s

def clusterOf (k : Fin 64) : Nat := k.val / 8

def State.task (s : State) (t : Nat) : Option Task := s.tasks[t]?
def State.launch (s : State) (l : Nat) : Option Launch := s.launches[l]?
def State.modTask (s : State) (t : Nat) (f : Task → Task) : State := { s with tasks := s.tasks.modify t f }
def State.modLaunch (s : State) (l : Nat) (f : Launch → Launch) : State := { s with launches := s.launches.modify l f }

def State.taskOf (s : State) (k : Fin 64) (c : Fin 4) : Option Task := (s.ctx k c).task.bind s.task

/-- The launch a context runs for or is reserved to. -/
def State.launchOf (s : State) (k : Fin 64) (c : Fin 4) : Option Nat :=
  match s.taskOf k c with
  | some t => some t.launch
  | none =>
    match (s.ctx k c).reservedTask.bind s.task with
    | some t => some t.launch
    | none => (s.ctx k c).reservedLaunch

/-- The contexts of the issuer's task (R15); a handler has only its own. -/
def State.myCtxs (s : State) (k : Fin 64) (c : Fin 4) : List (Fin 4) :=
  match s.taskOf k c with
  | some t => t.ctxs
  | none => [c]

/-- Changes the contexts of saved tasks. -/
def State.modKept (s : State) (f : Nat → Context → Context) : State :=
  { s with preempts := s.preempts.map fun p => { p with kept := p.kept.map fun m => (m.1, m.2.1, f m.1 m.2.2) } }

/-! ### Free values -/

def State.free (s : State) (i : Nat) : Dword := freeDword s.draw i
def State.coin (s : State) (i : Nat) : Bool := Config.coin s.draw i

/-- A fresh name for a result or an access. -/
def State.fresh (s : State) : State := { s with nextId := s.nextId + 1 }

/-! ### Results in flight (R58, R59) -/

inductive RegName where
  | s (r : Nat)
  | v (r : Nat)
  | q (r : Nat)
  deriving DecidableEq, Repr

def ReadShape.regs : ReadShape → List RegName
  | .scalar r _ => [.s r]
  | .vector r _ => [.v r]
  | .mask q => [.q q]
  | .lanes r _ _ _ => [.v r]
  | .block r _ _ _ | .columns r _ _ _ => [.v r, .v (r + 1), .v (r + 2), .v (r + 3)]
  | .record => [.s 28, .s 29, .s 30, .s 31, .q 23]
  | .head => []

/-- The registers a result writes. -/
def Landing.regs : Landing → List RegName
  | .scalar r _ => [.s r]
  | .vector r _ _ _ => [.v r]
  | .pred q _ => [.q q]
  | .link _ => [.s 31]
  | .record _ => ReadShape.record.regs
  | .load shape => shape.regs
  | .await r => [.s r]
  | _ => []

def MemAct.regs : MemAct → List RegName
  | .read _ shape => shape.regs
  | .write _ => []
  | .atomic _ _ _ r => [.s r]
  | .contribute .. => []

/-- A result bound for the context's own state, as against one bound for an engine of the core (R256). -/
def Landing.ofContext : Landing → Bool
  | .scalar .. | .vector .. | .pred .. | .push .. | .nfc .. | .link .. | .record .. | .load .. | .await .. => true
  | _ => false

def meets (a b : List RegName) : Bool := a.any (b.contains ·)

/-- The register that a wait writes. -/
def Waiting.regs : Waiting → List RegName
  | .tbwait r .. | .released r .. | .blzwt r .. => [.s r]
  | _ => []

/-- Puts a result in flight that lands at the end of the cycle `left` - 1 after this one. A write that is to land
before an earlier-issued one to the same register leaves that one overtaken (R59, R132). -/
def Context.push (cx : Context) (id left gen : Nat) (w : Landing) (unit : Nat := 0) (passed : Bool := false) : Context :=
  { cx with
    flight := cx.flight.map (fun f =>
      if !f.fresh && f.id < id && left < f.left && meets f.what.regs w.regs then { f with overtaken := true } else f) ++
      [⟨id, left, true, passed, [], gen, unit, w⟩]
    async := cx.async.map fun a => if a.id < id && meets a.act.regs w.regs then { a with overtaken := true } else a }

/-- `Land` of R65 for the issuing context, with the generation of the resource it belongs to. -/
def State.landGen (s : State) (gen : Nat) (w : Landing) (latency : Nat) : State :=
  (s.modMe (·.push s.nextId latency gen w s.cur.unit)).fresh

def State.land (s : State) (w : Landing) (latency : Nat) : State := s.landGen 0 w latency

/-! ### Where an access goes (R85, R91, R130) -/

inductive Range where
  | loc
  | own
  | remote
  | main
  deriving DecidableEq, Repr

def rangeOf (core : Fin 64) (a : Nat) : Range :=
  if locbase ≤ a && a < locbase + localBytes then .loc
  else if lbase ≤ a && a < lbase + landingRange then
    if (a - lbase) / landingBytes = clusterOf core then .own else .remote
  else .main

inductive Right where
  | read
  | write
  | execute
  deriving DecidableEq, Repr

def Right.bit : Right → Nat
  | .read => 0
  | .write => 1
  | .execute => 2

/-- Page sizes by PSZ (R251). -/
def pageSize (psz : Nat) : Nat :=
  match psz with
  | 1 => 2 ^ 12
  | 2 => 2 ^ 16
  | 3 => 2 ^ 21
  | 4 => 2 ^ 30
  | _ => 2 ^ 34

def WinEntry.covers (e : WinEntry) (a : Nat) : Bool := e.va ≤ a && a < e.va + e.npg * pageSize e.psz

/-- The stripe index of R298. -/
def xorChunks (s : Nat) : Nat → Nat → Nat
  | 0, _ => 0
  | n + 1, b => (b % 2 ^ s) ^^^ xorChunks s n (b / 2 ^ s)

def stripeIndex (set b : Nat) : Nat :=
  if set = 2 ^ set.log2 then xorChunks set.log2 (52 / set.log2 + 1) (b % 2 ^ 52) else b % set

/-- Device rank and device address of a byte that an entry maps (R297). -/
def WinEntry.place (e : WinEntry) (a : Nat) : BitVec 7 × Nat :=
  if e.set ≤ 1 then (BitVec.ofNat 7 e.peer0, e.pa + (a - e.va))
  else
    let b := (a - e.va) / 256
    (BitVec.ofNat 7 (e.peer0 + stripeIndex e.set b), e.pa + 256 * (b / e.set) + a % 256)

/-- The window table a context is under. -/
def State.windowsOf (s : State) (k : Fin 64) (c : Fin 4) : List WinEntry :=
  match s.launchOf k c with
  | some l => ((s.core k).windows.lookup l).getD []
  | none => []

def State.entryOf (s : State) (k : Fin 64) (c : Fin 4) (a : Nat) : Option WinEntry :=
  (s.windowsOf k c).find? (·.covers a)

/-- The key behind a main-memory byte: own HBM, own exposed space, or a peer device. -/
def State.mainKey (s : State) (e : WinEntry) (a : Nat) : Nat :=
  let (rank, d) := e.place a
  if rank = s.rank then (if e.comp then exposedBase + d else d)
  else peerKey rank (if e.comp then exposedBase + d else d)

/-- What stands against an access of a context to one byte (R95, R96, R133, R253, R283). -/
def State.byteFault (s : State) (k : Fin 64) (c : Fin 4) (right : Right) (a : Nat) : Option Cause :=
  match rangeOf k a with
  | .loc =>
    let tile := (a - locbase) / tileBytes
    if right = .execute then some .window
    else if !(s.myCtxs k c).any (fun d => d.val == tile / 128) then some .window
    else if (s.core k).engineTiles.contains tile then some .perm
    else none
  | .own => if right = .execute then some .window else none
  | .remote => some .window
  | .main =>
    match s.entryOf k c a with
    | none => some .window
    | some e =>
      if e.comp && !s.regs.cmpEn then some .window
      else if !e.perm.getLsbD right.bit then some .perm
      else if !e.res then some .page
      else none

/-- The key of a byte in the address space of a context. -/
def State.keyOf (s : State) (k : Fin 64) (c : Fin 4) (a : Nat) : Nat :=
  match rangeOf k a with
  | .loc => localKey k (a - locbase)
  | .own | .remote => landingKey (a - lbase) (s.ctx k c).bkey
  | .main =>
    match s.entryOf k c a with
    | some e => s.mainKey e a
    | none => 0

/-- No memory stands behind a key: beyond HBM, beyond the exposed space. -/
def keyAbsent (k : Nat) : Bool :=
  (hbmBytes ≤ k && k < exposedBase) || (exposedBase + 2 ^ 40 ≤ k && k < landingBase)

/-- The addresses of a run of n bytes, modulo 2^64. -/
def addrRun (a n : Nat) : List Nat := (List.range n).map fun i => (a + i) % 2 ^ 64

def minimum : List Nat → Option Nat
  | [] => none
  | a :: as => some (as.foldl min a)

/-- The trap of an access to the listed bytes, all in the range of `base`: the earliest cause of R133 among them, at
its lowest address. -/
def State.accessTrap (s : State) (k : Fin 64) (c : Fin 4) (right : Right) (base : Nat) (as : List Nat) :
    Option Trap :=
  let r := rangeOf k base
  let of (w : Cause) : Option Trap :=
    (minimum (as.filter fun a => (if rangeOf k a = r then s.byteFault k c right a else some .window) = some w)).map
      fun a => { cause := w, addr := some (BitVec.ofNat 64 a) }
  ((of .window).or (of .perm)).or (of .page)

/-- The keys of the bytes of an access that stands no trap. -/
def State.access (s : State) (k : Fin 64) (c : Fin 4) (right : Right) (base : Nat) (as : List Nat) :
    Except Stop (List Nat) :=
  match s.accessTrap k c right base as with
  | some t => .error (.trap t)
  | none =>
    let ks := as.map (s.keyOf k c)
    match ks.find? keyAbsent with
    | some b => .error (.fault (.noSuchAddress b))
    | none => .ok ks

/-- Page kinds, strongest first (R225). -/
def PageKind.rank : PageKind → Nat
  | .strong => 0
  | .release => 1
  | .unordered => 2

/-- The page kind of the bytes of one part: the weakest among them (R225). -/
def State.kindOf (s : State) (k : Fin 64) (c : Fin 4) (as : List Nat) : PageKind :=
  as.foldl (fun kd a =>
    match s.entryOf k c a with
    | some e => if kd.rank < e.kind.rank then e.kind else kd
    | none => kd) .strong

/-- Address of the first byte of the page that an entry maps a byte in. -/
def WinEntry.pageBase (e : WinEntry) (a : Nat) : Nat := e.va + (a - e.va) / pageSize e.psz * pageSize e.psz

def State.pageOf (s : State) (k : Fin 64) (c : Fin 4) (a : Nat) : Nat :=
  match s.entryOf k c a with
  | some e => e.pageBase a
  | none => 0

/-- Inserts a number in ascending order, once. -/
def insertOnce (b : Nat) : List Nat → List Nat
  | [] => [b]
  | x :: xs => if b < x then b :: x :: xs else if b = x then x :: xs else x :: insertOnce b xs

/-- The places of the bytes of an access by page, pages in ascending order (R226). -/
def State.pageParts (s : State) (k : Fin 64) (c : Fin 4) (as : List Nat) : List (List Nat) :=
  let pages := as.map (s.pageOf k c)
  (pages.foldl (fun l p => insertOnce p l) []).map fun p =>
    (List.range as.length).filter fun i => (pages[i]?).getD 0 == p

/-! ### Access counters (R271, R272) -/

def page64 (e : WinEntry) : Bool := 2 ≤ e.psz

/-- The counter of one page, under the launch whose table maps it: counts, and notifies at THR. -/
def State.countPage (s : State) (k : Fin 64) (l : Nat) (e : WinEntry) (base : Nat) : State :=
  let r := s.regs
  if r.mthr = 0 then s
  else
    let (n, queued) := (s.pageCounts.lookup (l, base)).getD (0, false)
    let n' : Word := if n = 0xFFFFFFFF then n else n + 1
    let rest := s.pageCounts.filter (·.1 != (l, base))
    if queued || n'.toNat < r.mthr.toNat then { s with pageCounts := ((l, base), n', queued) :: rest }
    else if (r.mnqt + 4096 - r.mnqh) % 4096 = 4095 then
      { s with
        pageCounts := ((l, base), r.mthr, false) :: rest
        regs := { r with mnqOvf := true, mnqDrop := if r.mnqDrop = 0xFFFFFFFF then r.mnqDrop else r.mnqDrop + 1 } }
    else
      let a := r.mnqb.toNat + 16 * r.mnqt
      let s := (s.putValue a 8 base).putValue (a + 8) 8 (k.val * 2 ^ 9 + e.index)
      { s with pageCounts := ((l, base), n', true) :: rest, regs := { r with mnqt := (r.mnqt + 1) % 4096 } }

/-- One main-memory access (R271): each page of 64 KiB or more that it touches counts it once. -/
def State.countAccess (s : State) (k : Fin 64) (c : Fin 4) (as : List Nat) : State :=
  match s.launchOf k c with
  | none => s
  | some l =>
    let pages := as.foldl (fun (ps : List (WinEntry × Nat)) a =>
      match s.entryOf k c a with
      | some e =>
        let base := e.pageBase a
        if page64 e && !ps.any (·.2 == base) then ps ++ [(e, base)] else ps
      | none => ps) []
    pages.foldl (fun s p => s.countPage k l p.1 p.2) s

/-! ### The order of a context's accesses (R222-R227, R333) -/

/-- The bytes that an access reads or writes. A contribution is a store for fences alone: what writes the word is the
result of its round (R234). -/
def MemAct.keys : MemAct → List Nat
  | .read ks _ => ks
  | .write cells => cells.map (·.1)
  | .atomic ks _ _ _ => ks
  | .contribute .. => []

/-- Where a read goes. -/
def MemAct.shape : MemAct → Option ReadShape
  | .read _ sh => some sh
  | _ => none

def MemAct.isLoad : MemAct → Bool
  | .read .. | .atomic .. => true
  | _ => false

def MemAct.isStore : MemAct → Bool
  | .read .. => false
  | _ => true

/-- Bit of a FENCE mask that orders a pair of classes (R126): R126 encodes the complement. -/
def Fence.orders (f : Fence) (aLoad aStore bLoad bStore : Bool) : Bool :=
  (aLoad && bLoad && !f.orderings.getLsbD 0) || (aLoad && bStore && !f.orderings.getLsbD 1) ||
  (aStore && bLoad && !f.orderings.getLsbD 2) || (aStore && bStore && !f.orderings.getLsbD 3)

/-- The scope at which an earlier access a of the context is preserved before b by R227 and R333, 0 where it is not: the
widest among the rows that apply. -/
def scopeBetween (fences : List Fence) (a b : Async) : Nat :=
  let sr (x : Async) : Bool := x.kind != .unordered
  let strong := if a.kind == .strong && b.kind == .strong then 5 else 0
  let device :=
    if (a.acquire && sr a && sr b) || (b.releases && sr a && sr b) || (a.releases && b.acquire && sr a && sr b) then 3
    else 0
  let fence := fences.foldl (fun n f =>
    if (f.loads.contains a.id && f.orders true false b.act.isLoad b.act.isStore) ||
        (f.stores.contains a.id && f.orders false true b.act.isLoad b.act.isStore) then max n f.scope.toNat else n) 0
  max strong (max device fence)

/-- An earlier access a of the same context stands before b at every agent: both touch one byte, and R224 orders them. A
load takes the bytes of the context's own pending stores (R229), so a plain store stands before no later load. -/
def coherent (a b : Async) : Bool :=
  b.act.keys.any (a.act.keys.contains ·) && (a.act.isLoad || b.act.isStore)

/-- An access to local memory or the landing, as one to strong bytes (R333). -/
def MemOp.access (m : MemOp) : Async where
  id := m.id
  whole := m.id
  addr := m.addr
  act := m.act
  unit := 1
  places := []
  got := []
  charge := 0
  kind := .strong
  acquire := m.acquire
  releases := m.releases
  after := []
  within := m.within
  waiting := none
  suspended := false
  overtaken := false
  fresh := false
  runs := []

/-- Accesses of the context on their way to local memory or the landing. -/
def State.onChip (s : State) (k : Fin 64) (c : Fin 4) : List Async :=
  ((s.core k).memq.filter (·.ctx == c)).map MemOp.access

/-- Claims and objections of the context that have not left: for fences they count as stores (R222). -/
def State.claimsOut (s : State) (k : Fin 64) (c : Fin 4) : List Async :=
  (s.plane.filter (·.origin == some (k, c))).map fun m =>
    { id := m.id, whole := m.id, addr := 0, act := .write [], unit := 1, places := [], got := [], charge := 0
      kind := .unordered, acquire := false, releases := false, after := [], within := [], waiting := none
      suspended := false, overtaken := false, fresh := false, runs := [] }

/-- The accesses of an agent in the log. -/
def State.logged (s : State) (g : Agent) : List Async := (s.log.filter (·.agent == g)).map (·.acc)

/-- What a FENCE and a later access of the context find before them: what has not been performed, and what the log
keeps of the rest. -/
def State.earlier (s : State) (k : Fin 64) (c : Fin 4) : List Async :=
  s.onChip k c ++ s.claimsOut k c ++ (s.ctx k c).async ++ s.logged (.context k c)

/-- All the bytes of a load have been read, or an atomic has been performed. -/
def Async.wholeRead (a : Async) : Bool :=
  a.act.isLoad && (if a.act.isStore then a.act.keys.length else a.places.length) ≤ a.got.length

/-- What is left of an access of main memory: of a load the bytes that have not been read. -/
def Async.rest (a : Async) : Async :=
  match a.act with
  | .read keys sh =>
    { a with act := .read (((a.places.zip keys).filter fun p => (a.got.lookup p.1).isNone).map (·.2)) sh }
  | _ => a

/-- The bytes that accesses of these names are still to make. -/
def State.bytesDue (s : State) (ids : List Nat) : List Nat :=
  if ids.isEmpty then []
  else
    allCores.flatMap fun k =>
      ((s.core k).memq.filter fun m => ids.contains m.id).flatMap (·.act.keys) ++
      allCtxs.flatMap fun c =>
        ((s.ctx k c).async.filter fun a => ids.contains a.id && !a.wholeRead).flatMap (·.rest.act.keys)

/-- The accesses that stand before a new one of the context for every agent, at the bytes that they share: those of R22 and
of R224. -/
def State.orderBefore (s : State) (k : Fin 64) (c : Fin 4) (b : Async) : List Nat :=
  let cx := s.ctx k c
  cx.inherited.filter (fun i => (s.bytesDue [i]).any b.act.keys.contains) ++
    ((s.onChip k c ++ cx.async).filter fun a => coherent a b).map (·.id)

/-- An access of main memory has not been performed yet. -/
def State.unmade (s : State) (id : Nat) : Bool :=
  allCores.any fun k => allCtxs.any fun c => (s.ctx k c).async.any fun a => a.id == id && !a.wholeRead

/-- An access has not been performed yet, or a claim has not left. -/
def State.outstanding (s : State) (id : Nat) : Bool :=
  s.plane.any (·.id == id) || (allCores.any fun k => (s.core k).memq.any (·.id == id)) || s.unmade id

def State.allPerformed (s : State) (ids : List Nat) : Bool := !ids.any s.outstanding

/-- An access still counts for the order of later ones: it has not been performed, or the log keeps it. -/
def State.counts (s : State) (id : Nat) : Bool := s.log.any (·.acc.id == id) || s.outstanding id

/-- What the context's starter, its WAITBs, its barriers and the launches before its own have put before its next access,
with the scopes (R22, R231-R233). -/
def State.preceding (s : State) (k : Fin 64) (c : Fin 4) : List (Nat × Nat) :=
  (s.ctx k c).edges.filter fun p => s.counts p.1

/-- What a context passes on to one that it starts: what stands before what follows, and the loads by which it has acquired
what others have released (R22). -/
def State.passedOn (s : State) (k : Fin 64) (c : Fin 4) : List (Nat × Nat) :=
  let cx := s.ctx k c
  let scope (a : Async) : Nat :=
    cx.fences.foldl (fun n f => if f.orders true false true false && f.loads.contains a.id then max n f.scope.toNat else n)
      (if a.acquire then 3 else 0)
  s.preceding k c ++ (((s.onChip k c ++ cx.async ++ s.logged (.context k c)).filter (·.act.isLoad)).map fun a =>
    (a.id, scope a)).filter (0 < ·.2)

/-- The accesses that are preserved before a new one of the context, each with its scope (R227). The parts of one access
have no order among themselves (R221). -/
def State.scopedBefore (s : State) (k : Fin 64) (c : Fin 4) (b : Async) : List (Nat × Nat) :=
  s.preceding k c ++ ((s.earlier k c).filter (·.whole != b.whole)).filterMap fun a =>
    let n := scopeBetween (s.ctx k c).fences a b
    if n = 0 then none else some (a.id, n)

/-- A key of local memory or a landing. -/
def chipKey (k : Nat) : Bool := landingBase ≤ k && k < slotBase

/-- The accesses that are preserved before a new one of the context to local memory or the landing (R333). -/
def State.scopedOnChip (s : State) (k : Fin 64) (c : Fin 4) : List (Nat × Nat) :=
  s.preceding k c ++ (s.onChip k c ++ (s.logged (.context k c)).filter fun a => a.act.keys.any chipKey).map fun a => (a.id, 5)

/-! ### Issuing an access (R131, R132) -/

/-- A later access writes a register that an earlier one has not written yet. The blocks of one LDVT write different
lanes (R140). -/
def MemAct.overtakes (new old : MemAct) : Bool :=
  meets old.regs new.regs &&
  match new, old with
  | .read _ (.block r _ _ j), .read _ (.block r' _ _ j') => r != r' || j == j'
  | _, _ => true

/-- Modifiers of an access. -/
structure Manner where
  acquire : Bool := false
  releases : Bool := false

/-- Bytes of a unit of a load of n bytes (R223); a mask, which R223 does not list, is read byte by byte (log entry 25). -/
def ReadShape.unit (sh : ReadShape) (n : Nat) : Nat :=
  match sh with
  | .scalar .. => n
  | .vector _ tag => if codeWhole (tagCode tag) || tagCode tag = 0x0F then laneWidth (tagCode tag) / 8 else 1
  | .mask _ => 1
  | .lanes _ _ w _ | .block _ _ w _ | .columns _ _ w _ => w
  | .record | .head => 8

/-- A key of the exposed space of this device or of a peer. -/
def compKey (k : Nat) : Bool := exposedBase ≤ k && (k < landingBase || (peerBase ≤ k && exposedBase ≤ (k - peerBase) % 2 ^ 65))

/-- The blocks of the exposed space that keys lie in, each with the block of its addresses. -/
def blockRuns (keys as : List Nat) : List (Nat × Nat) :=
  (((keys.zip as).filter fun p => compKey p.1).map fun p => (p.1 / 256, p.2 / 256)).eraseDups

/-- The access to the bytes at these places alone. -/
def MemAct.atPlaces (act : MemAct) (ps : List Nat) : MemAct :=
  match act with
  | .read keys sh => .read (ps.filterMap fun p => keys[p]?) sh
  | .write cells => .write (ps.filterMap fun p => cells[p]?)
  | a => a

/-- One part of a main-memory access enters the memory system and takes its place in the order. -/
def State.issuePart (s : State) (k : Fin 64) (c : Fin 4) (as : List Nat) (act : MemAct) (unit whole charge : Nat)
    (m : Manner) (places : List Nat) : State :=
  let mine := places.filterMap fun p => as[p]?
  let kind := s.kindOf k c mine
  let a : Async :=
    { id := s.nextId, whole := whole, addr := BitVec.ofNat 64 ((minimum mine).getD 0), act := act.atPlaces places
      unit := unit, places := places, got := [], charge := charge, kind := kind
      acquire := m.acquire && kind != .unordered, releases := m.releases && kind != .unordered, after := []
      within := [], waiting := none, suspended := false, overtaken := false, fresh := true
      runs := blockRuns (places.filterMap fun p => act.keys[p]?) mine }
  let a := { a with after := s.orderBefore k c a, within := s.scopedBefore k c a }
  (s.modCtx k c fun cx => { cx with pbmem := cx.pbmem + charge, async := cx.async ++ [a] }).fresh

/-- A main-memory access enters the memory system: one part for each page it touches (R226), units of `unit` bytes. -/
def State.issueMain (s : State) (k : Fin 64) (c : Fin 4) (as : List Nat) (act : MemAct) (unit charge : Nat)
    (m : Manner) : State :=
  let parts := s.pageParts k c as
  let rest (ps : List Nat) : Nat := if charge = 0 then 0 else ps.length
  let first := charge - (parts.tail.map rest).sum
  let whole := s.nextId
  let s := s.modCtx k c fun cx =>
    { cx with async := cx.async.map fun o => if act.overtakes o.act then { o with overtaken := true } else o }
  match parts with
  | [] => s
  | p :: ps =>
    ps.foldl (fun s p => s.issuePart k c as act unit whole (rest p) m p) (s.issuePart k c as act unit whole first m p)

/-- An access to local memory or the own landing: made at the end of the next cycle or the one after it (R131). -/
def State.issueOnChip (s : State) (k : Fin 64) (c : Fin 4) (r : Range) (a : Nat) (act : MemAct) (m : Manner) : State :=
  s.modCore k fun co =>
    { co with memq := co.memq ++
        [⟨if r = .loc then 2 else 3, c, s.nextId, BitVec.ofNat 64 a, act, m.acquire, m.releases, s.scopedOnChip k c⟩] }

/-- A load by the issuing context, with its latencies on local memory and on the own landing; of main memory it is not
yet counted. -/
def State.issueRead (s : State) (as : List Nat) (keys : List Nat) (shape : ReadShape) (charge localLat ownLat : Nat)
    (m : Manner := {}) : State :=
  let k := s.cur.core
  let c := s.cur.ctx
  match rangeOf k ((as[0]?).getD 0) with
  | .main => s.issueMain k c as (.read keys shape) (shape.unit keys.length) charge m
  | r =>
    let s := s.issueOnChip k c r ((minimum as).getD 0) (.read keys shape) m
    s.land (.load shape) (if r = .loc then localLat else ownLat)

/-- The issuing context's access is counted (R271), if it is one to main memory. -/
def State.counted (s : State) (as : List Nat) : State :=
  if rangeOf s.cur.core ((as[0]?).getD 0) = .main then s.countAccess s.cur.core s.cur.ctx as else s

/-- A load by the issuing context. -/
def State.issueLoad (s : State) (as : List Nat) (keys : List Nat) (shape : ReadShape) (charge localLat ownLat : Nat)
    (m : Manner := {}) : State :=
  (s.issueRead as keys shape charge localLat ownLat m).counted as

/-- A store by the issuing context: one byte for each key, in units of `unit` bytes. -/
def State.issueStore (s : State) (as : List Nat) (keys : List Nat) (bs : List Byte) (unit charge : Nat)
    (m : Manner := {}) : State :=
  let k := s.cur.core
  let c := s.cur.ctx
  match rangeOf k ((as[0]?).getD 0) with
  | .main => (s.issueMain k c as (.write (keys.zip bs)) unit charge m).countAccess k c as
  | r => (s.issueOnChip k c r ((minimum as).getD 0) (.write (keys.zip bs)) m).fresh

/-- An atomic by the issuing context (R143). -/
def State.issueAtomic (s : State) (as : List Nat) (keys : List Nat) (op : AtomOp) (v : Dword) (r : Nat)
    (m : Manner) : State :=
  let k := s.cur.core
  let c := s.cur.ctx
  match rangeOf k ((as[0]?).getD 0) with
  | .main => (s.issueMain k c as (.atomic keys op v r) keys.length keys.length m).countAccess k c as
  | rg =>
    let s := s.issueOnChip k c rg ((minimum as).getD 0) (.atomic keys op v r) m
    s.land (.await r) (if rg = .loc then 5 else 22)

/-! ### Ending contexts and tasks (R23) -/

/-- An outstanding write or load that is given up: its charge goes with it. -/
def Context.discardSuspended (cx : Context) : Context :=
  let gone := cx.async.filter (·.suspended)
  { cx with
    async := cx.async.filter (!·.suspended)
    pbmem := cx.pbmem - gone.foldl (fun n a => n + a.charge) 0 }

/-- The context issues nothing further. What it issued completes, frozen results are dropped, and its end waits for
its counters (CONTEXT_END). -/
def Context.finish (cx : Context) : Context :=
  { cx.discardSuspended with
    ending := true, state := .ready, wait := none, snapshot := [], held := [], latched := [], blockedOn := []
    pending := none, heldCut := none, stopped := false }

/-- A kill ends every context of the task at once and records the first cause. -/
def State.kill (s : State) (t : Nat) (cause : Option Nat) : State :=
  match s.task t with
  | none => s
  | some tk =>
    let s := s.modTask t fun tk => { tk with killed := tk.killed.or (some (cause.getD 0)) }
    tk.ctxs.foldl (fun s c =>
      if (s.ctx tk.core c).task = some t then s.modCtx tk.core c Context.finish else s) s

/-! ### Taking a trap (R254-R262) -/

/-- What a trap entry records (R254). `late` is 1 for SOFT, whose freeze cycle is the next one (R124). -/
structure TrapEntry where
  cause : Cause
  addr : Dword
  tepc : Dword
  resume : BitVec 3
  blk : BitVec 2
  pending : Option Xfer
  late : Nat := 0
  exit : Bool := false
  soft : Option Half := none
  deriving DecidableEq, Repr

/-- R256: results in flight are latched with their remaining counts, those of the context in the snapshot registers,
those of engines in their engines. -/
def Context.freeze (cx : Context) (late : Nat) : Context :=
  let later := (cx.flight.filter (late < ·.left)).map fun f => { f with left := f.left - late }
  { cx with
    flight := cx.flight.filter (·.left ≤ late)
    snapshot := cx.snapshot ++ later.filter (·.what.ofContext)
    held := cx.held ++ later.filter (!·.what.ofContext) }

/-- Latches a fault of an access or a command for the context's next bundle (R334). -/
def Context.latch (cx : Context) (w : Cause) (a : Dword) (id : Nat) : Context :=
  { cx with latched := cx.latched ++ [(w, a, cx.tm && cx.tmFrom ≤ id)] }

/-- The fault that stands before the next bundle. In trap mode those of task-mode work are held (R258). -/
def Context.nextLatched (cx : Context) : Option (Cause × Dword × Bool) := cx.latched.find? fun l => !cx.tm || l.2.2

/-- The part of the entry up to the trap record (R257). -/
def Context.latchTrap (cx : Context) (e : TrapEntry) : Context :=
  { cx.freeze e.late with
    shadow := ⟨cx.loops, cx.repbuf, cx.latchA, cx.latchB⟩
    loops := []
    tcause := BitVec.ofNat 8 e.cause.num, taddr := e.addr, tepc := e.tepc, resume := e.resume, blk := e.blk
    xfer := e.pending.isSome, pending := e.pending, pendingExit := e.exit, pendingSoft := e.soft
    reentry := false, pc := e.tepc, fellThrough := false, waitrec := none }

/-- The 64 bytes of the trap record (R257). -/
def Context.record (cx : Context) : List Byte :=
  [cx.sregs.get 28, cx.sregs.get 29, cx.sregs.get 30, cx.sregs.get 31, cx.preds.get 23].flatMap
    (fun v => leBytes 8 v.toNat) ++ List.replicate 24 0

/-- R261: the context is STOPPED with the new cause in NCAUSE, and a machine check is raised. -/
def State.nested (s : State) (k : Fin 64) (c : Fin 4) (cause : Cause) : State :=
  let s := s.modCtx k c fun cx => { cx with ncause := BitVec.ofNat 8 cause.num, state := .stopped, wait := none }
  let others := s.machineChecks.filter fun m => m.1 != k || m.2.1 != c
  { s with machineChecks := others ++ [(k, c, s.sclk.toNat)], outputs := s.outputs ++ [.machineCheck] }

/-- TSTAT and TSP as they stood before the access to the trap record: its store at an entry, or its reload by RETT (R261). -/
def Context.beforeRecord (cx : Context) : Context :=
  if cx.tm then { cx with tsp := cx.tsp + 64 }
  else { cx with tm := true, tsp := cx.tsp - 64, reentry := false, waitrec := cx.wait, wait := none }

/-- The trap sequencer's own access to the trap record meets a fault (R261). -/
def State.recordFault (s : State) (k : Fin 64) (c : Fin 4) (w : Cause) : State :=
  (s.modCtx k c Context.beforeRecord).nested k c w

/-- A fault of an access of the context stands before its next bundle (R334). One of the trap sequencer's own access to the
trap record is a nested fault (R261). -/
def State.latchFault (s : State) (k : Fin 64) (c : Fin 4) (w : Cause) (a : Dword) (id : Nat) : State :=
  if (s.ctx k c).blockedOn.contains id then s.recordFault k c w
  else s.modCtx k c fun cx => cx.latch w a id

/-- The accesses of the trap sequencer on the trap record: what R253 and R96 say of the 64 bytes. -/
def State.recordKeys (s : State) (k : Fin 64) (c : Fin 4) (right : Right) (a : Nat) : Except Stop (List Nat) :=
  s.access k c right a (addrRun a 64)

/-- The accesses of main memory that a context has issued since a name was given out. -/
def Context.namesFrom (cx : Context) (id : Nat) : List Nat := (cx.async.filter (id ≤ ·.id)).map (·.id)

/-- The part of the entry from the trap record on (R257): the first handler bundle issues at q + 4 at the earliest, and
`late` is 1 where the freeze cycle q is the next one. -/
def State.intoHandler (s : State) (k : Fin 64) (c : Fin 4) (late : Nat) : Except Fault State :=
  let cx := s.ctx k c
  let a := (cx.tsp - 64).toNat
  match s.recordKeys k c .write a with
  | .error (.fault f) => .error f
  | .error (.trap t) => .ok ((s.modCtx k c ({ · with tm := true })).nested k c t.cause)
  | .ok keys =>
    let act := MemAct.write (keys.zip cx.record)
    let id := s.nextId
    let s :=
      match rangeOf k a with
      | .main => (s.issueMain k c (addrRun a 64) act 8 0 {}).modCtx k c fun cx => { cx with blockedOn := cx.namesFrom id }
      | r => (s.issueOnChip k c r a act {}).fresh
    .ok (s.modCtx k c fun cx =>
      { cx with
        tsp := cx.tsp - 64, tm := true, pc := cx.tvec, fellThrough := false, state := .ready
        bubble := 4 + late + delay s.draw, tmFrom := s.nextId })

/-- A fault notice takes its place: after those of earlier switch-outs, and in one cycle by core, then context (R291). -/
def State.notice (s : State) (k : Fin 64) (c : Fin 4) (a : Dword) (entry : Nat) : State :=
  let t := s.sclk.toNat
  let later (n : Nat × Dword × Fin 4 × Fin 64 × Nat) : Bool := n.1 == t && (k < n.2.2.2.1 || (n.2.2.2.1 == k && c < n.2.2.1))
  { s with notices := s.notices.filter (!later ·) ++ (t, a, c, k, entry) :: s.notices.filter later }

/-- Takes a trap of a context (R254): disposition K kills the task, S switches the context out, X stops it, H enters
the handler. A context that has ended takes none. -/
def State.enterTrap (s : State) (k : Fin 64) (c : Fin 4) (e : TrapEntry) : Except Fault State :=
  let cx := s.ctx k c
  if cx.ending then .ok s
  else if cx.tm then .ok (s.nested k c e.cause)
  else
    match e.cause with
    | .window =>
      match cx.task with
      | some t => .ok (s.kill t (some Cause.window.num))
      | none => .ok (s.modCtx k c Context.finish)
    | .page =>
      let idx := ((s.entryOf k c e.addr.toNat).map (·.index)).getD 0
      .ok ((s.notice k c e.addr idx).modCtx k c fun cx =>
        { cx.latchTrap e with
          state := .swapped, swapEntry := idx, swapAddr := e.addr, swapSaved := false, swapAnswer := none })
    | _ => (s.modCtx k c (·.latchTrap e)).intoHandler k c e.late

/-- UECNT counts an uncorrectable error that a step has met, saturating (R323; log entry 24). -/
def State.countError (s : State) : State :=
  let n := s.regs.uecnt
  { s with regs := { s.regs with uecnt := if n = BitVec.allOnes 64 then n else n + 1 } }

/-- The trap of the slot in hand (R57, R254): slots to its left stand, the rest is withheld. -/
def State.slotTrap (s : State) (t : Trap) : Except Fault State :=
  let s := if t.cause = .poison then s.countError else s
  let e : TrapEntry :=
    ⟨t.cause, t.addr.getD (s.cur.word.zeroExtend 64), s.cur.addr, BitVec.ofNat 3 s.cur.unit, t.blk, s.cur.xfer, 0,
      s.cur.exit, s.cur.soft⟩
  ({ s with cur := { s.cur with stopped := true } }).enterTrap s.cur.core s.cur.ctx e

/-- A trap before any slot of the bundle at the pc (R334): RESUME is 0 (R254), so that a re-entered bundle that meets
one issues all its slots again; a transfer, EXIT or TRAP that it has committed stays pending (log entry 10). -/
def State.bundleTrap (s : State) (k : Fin 64) (c : Fin 4) (cause : Cause) (addr : Dword) : Except Fault State :=
  let cx := s.ctx k c
  s.enterTrap k c
    ⟨cause, addr, cx.pc, 0, 0, if cx.reentry && cx.xfer then cx.pending else none, 0, cx.reentry && cx.pendingExit,
      if cx.reentry then cx.pendingSoft else none⟩

/-- The end of a slot: its next state, the trap it takes, or the fault it ends in. -/
def State.settle (s : State) (r : Except Stop State) : Host.Outcome State Fault Refusal :=
  match r with
  | .ok t => .next t
  | .error (.fault f) => .fault f
  | .error (.trap t) =>
    match s.slotTrap t with
    | .ok t => .next t
    | .error f => .fault f

/-- The outcome of a step that takes no trap. -/
def outcome (r : Except Fault State) : Host.Outcome State Fault Refusal :=
  match r with
  | .ok t => .next t
  | .error f => .fault f

/-- R263: RETT resubmits the writes that met the Skidder's bound. -/
def Context.resubmit (cx : Context) : Context :=
  { cx with async := cx.async.map fun a => if a.suspended then { a with suspended := false, waiting := none } else a }

/-- What re-entry restores beside the trap record (R259): the shadow, task mode, and the bundle to re-enter. The
snapshot and the engine-held results land from the cycle in which that bundle issues. -/
def Context.reenter (cx : Context) : Context :=
  { cx with
    loops := cx.shadow.loops, repbuf := cx.shadow.repbuf, latchA := cx.shadow.latchA, latchB := cx.shadow.latchB
    tm := false, reentry := true, pc := cx.tepc, fellThrough := false, state := .ready, wait := cx.waitrec
    waitrec := none }

/-- A result of a handler that is under way to the register of the wait will have passed the result of the wait, if it
lands first (R59). -/
def Context.passWait (cx : Context) : Context :=
  { cx with waitPassed := cx.waitPassed || cx.wait.any fun w => cx.flight.any fun f =>
      cx.waitId < f.id && meets f.what.regs w.regs }

/-- A context that is restored in a wait resumes WAITING (R265): the barrier unit takes a TBWAIT up as at its issue, and
an OCLAIM issues again. -/
def State.rejoin (s : State) (k : Fin 64) (c : Fin 4) : State :=
  let s := s.modCtx k c Context.passWait
  match (s.ctx k c).wait with
  | none => s
  | some (.tbwait _ n p false) =>
    State.modCtx { s with barq := s.barq ++ [⟨s.sclk.toNat + 7, k, c, (s.ctx k c).task.getD 0, n, .wait p⟩] } k c fun cx =>
      { cx with state := .waiting }
  | some (.tbwait ..) | some (.released ..) | some (.blzwt ..) => s.modCtx k c fun cx => { cx with state := .waiting }
  | some _ => s.modCtx k c fun cx => { cx with wait := none }

/-- RETT (R259): loads the trap record and re-enters, four cycles later at the earliest. -/
def State.leaveTrap (s : State) (k : Fin 64) (c : Fin 4) : Except Fault State :=
  let cx := s.ctx k c
  let a := cx.tsp.toNat
  match s.recordKeys k c .read a with
  | .error (.fault f) => .error f
  | .error (.trap t) => .ok (s.nested k c t.cause)
  | .ok keys =>
    let act := MemAct.read keys .record
    let id := s.nextId
    let s :=
      match rangeOf k a with
      | .main => (s.issueMain k c (addrRun a 64) act 8 0 {}).modCtx k c fun cx => { cx with blockedOn := cx.namesFrom id }
      | r =>
        (((s.issueOnChip k c r a act {}).modCtx k c (·.push id (if r = Range.loc then 2 else 3) 0 (.load .record)))).fresh
    .ok ((s.modCtx k c fun cx => { cx.resubmit.reenter with tsp := cx.tsp + 64, bubble := 4 + delay s.draw }).rejoin k c)

/-! ### Signals to the host -/

def State.emit (s : State) (o : Output) : State := { s with outputs := s.outputs ++ [o] }

/-- Raises the MSI-X vector of CMPCTL.VEC (R282). -/
def State.raiseVec (s : State) : State := s.emit (.msix s.regs.cmpVec)

def State.modRegs (s : State) (f : HostRegs → HostRegs) : State := { s with regs := f s.regs }

/-! ### Host links (R318, R324) -/

/-- A host link serves its function: one that is down stops (R324), and what the host sends reaches nothing. At stage 0,
before either has come up, the host reaches what R321 gives it. An event does not say by which link it comes (log entry
23). -/
def State.hostServed (s : State) : Bool := s.stage == 0 || (s.links.get 0).up || (s.links.get 1).up

/-! ### Ring links (R295, R299, R325) -/

/-- The link a packet to another rank leaves by (R295): within the sled the way with fewer hops, clockwise at four;
between sleds the way to the bridge station, which the anticlockwise port of position 0 faces (R294; log entry 68); the
other way round where that way meets a link that is down. Ring link p joins positions p and p + 1. -/
def State.linkTo (s : State) (rank : BitVec 7) : Nat :=
  let p := s.rank.toNat % 8
  let near : Bool := rank.toNat / 8 = s.rank.toNat / 8
  let cw := if near then (rank.toNat % 8 + 8 - p) % 8 else 8 - p
  let acw := if near then 8 - cw else p + 1
  let up (k : Nat) : Bool := ((s.links[2 + k % 8]?).map (·.up)).getD false
  let cwUp := (List.range cw).all fun i => up (p + i)
  let acwUp := (List.range acw).all fun i => up (p + 15 - i)
  let clockwise := if cw ≤ acw then cwUp || !acwUp else !acwUp && cwUp
  if clockwise then 2 + p else 2 + (p + 7) % 8

def State.credit (s : State) (link ch : Nat) : Nat := ((s.links[link]?).bind fun l => l.credits[ch]?).getD 0

def State.modLink (s : State) (link : Nat) (f : Link → Link) : State :=
  { s with links := s.links.setIfInBounds link (f ((s.links[link]?).getD Link.reset)) }

/-- Sends one flit on a channel of a link: a credit is used, and the flit stays in the replay buffer (R325). -/
def State.sendFlit (s : State) (link ch : Nat) : State :=
  s.modLink link fun l =>
    { l with
      sent := l.sent + 1, replay := l.replay ++ [(l.sent + 1, ch)]
      credits := l.credits.setIfInBounds ch (((l.credits[ch]?).getD 0) - 1) }

/-- The link that a packet of another rank comes in by: the one that faces the way it takes, as `linkTo` says it of its sender,
or of the bridge station on ring link 7 (R294, R295; log entry 68). -/
def State.linkFrom (s : State) (rank : BitVec 7) : Nat :=
  let p := s.rank.toNat % 8
  let q := rank.toNat % 8
  let near : Bool := rank.toNat / 8 = s.rank.toNat / 8
  let cw := if near then (p + 8 - q) % 8 else p + 1
  let acw := if near then 8 - cw else 8 - p
  let up (k : Nat) : Bool := ((s.links[2 + k % 8]?).map (·.up)).getD false
  let cwUp := (List.range cw).all fun i => up ((if near then q else 7) + i)
  let acwUp := (List.range acw).all fun i => up ((if near then q + 15 else 15) - i)
  let clockwise := if cw ≤ acw then cwUp || !acwUp else !acwUp && cwUp
  if clockwise then 2 + (p + 7) % 8 else 2 + p

/-- One flit of a channel is accepted from a link; its buffer is free again once it has been taken in (R325). -/
def State.takeFlit (s : State) (link : Nat) : State := s.modLink link fun l => { l with accepted := l.accepted + 1 }

/-- A request that a peer answers goes out on channel 0, and the answer comes in. -/
def State.askPeer (s : State) (rank : BitVec 7) : State := (s.sendFlit (s.linkTo rank) 0).takeFlit (s.linkFrom rank)

/-- Answers to peers leave on channel 0, in order, as far as credits reach (R295, R299). -/
def State.repliesDue (s : State) : State :=
  s.replies.foldl (fun (s : State) x =>
    let link := s.linkTo x.1
    if s.credit link 0 = 0 || s.replies.any (fun y => s.linkTo y.1 == link) then { s with replies := s.replies ++ [x] }
    else (s.sendFlit link 0).emit x.2) { s with replies := [] }

/-- An answer to a peer: it leaves at once, or waits behind others and for a credit (R299). -/
def State.reply (s : State) (rank : BitVec 7) (o : Output) : State :=
  State.repliesDue { s with replies := s.replies ++ [(rank, o)] }

/-- A flit of the blaze lanes leaves by both ring ports (R305, R325). -/
def State.planeFlit (s : State) : State :=
  let p := s.rank.toNat % 8
  (s.sendFlit (2 + p) 16).sendFlit (2 + (p + 7) % 8) 16

/-- Ranks of the other devices behind keys. -/
def peersOf (keys : List Nat) : List (BitVec 7) :=
  ((keys.filter (peerBase ≤ ·)).map fun k => BitVec.ofNat 7 ((k - peerBase) / 2 ^ 65)).eraseDups

end Sys2Proof.Machine
end

