-- ==== Sys2Proof/Machine/Operands.lean ====
section
/-! DEFINITION. Every operand form: reading and writing scalar, vector and predicate registers through the results in
flight, fabric FIFO registers, circular-buffer heads, and the tag checks on vector operands (R27-R33, R53, R54, R59,
R99). -/

namespace Sys2Proof.Machine

open Sys2Proof.Config

def trapWith (w : Cause) : Except Stop α := .error (.trap { cause := w })
def trapAt (w : Cause) (a : Dword) : Except Stop α := .error (.trap { cause := w, addr := some a })

/-! ### The values of bytes read -/

/-- Replaces the named lanes. -/
def mergeLanes (old new : Lanes) (which : Dword) : Lanes :=
  Vector.ofFn fun l => if which.getLsbD l then new.get l else old.get l

/-- A predicate from one bit for each lane. -/
def predOf (f : Fin 64 → Bool) : Dword :=
  BitVec.ofNat 64 ((List.finRange 64).foldl (fun n i => n + bit (f i) * 2 ^ i.val) 0)

/-- All lanes. -/
def allLanes : Dword := BitVec.allOnes 64

/-- Element i of w bytes in a list of bytes. -/
def imageElem (w : Nat) (bs : List Byte) (i : Nat) : Nat := leValue ((bs.drop (i * w)).take w)

/-- The lanes that an image of elements of w bytes gives. -/
def lanesOfImage (tag : Half) (bs : List Byte) : Lanes :=
  let w := laneWidth (tagCode tag) / 8
  Vector.ofFn fun l => BitVec.ofNat 32 (imageElem w bs l)

/-- The lanes named by a list, as a mask. -/
def laneMask (which : List Nat) : Dword := predOf fun i => which.contains i.val

/-- The named lanes of a register from bytes in lane order. -/
def ReadShape.laneValues (r : Nat) (tag : Half) (w : Nat) (which : List Nat) (bs : List Byte) : List Landing :=
  [.vector r tag (Vector.ofFn fun l => BitVec.ofNat 32 (imageElem w bs ((which.idxOf? l.val).getD 0))) (laneMask which)]

/-- What a read makes of its bytes. -/
def ReadShape.values (sh : ReadShape) (bs : List Byte) : List Landing :=
  match sh with
  | .scalar r signed =>
    let v := leValue bs
    [.scalar r (if signed then BitVec.ofInt 64 (toSigned (8 * bs.length) v) else BitVec.ofNat 64 v)]
  | .vector r tag => [.vector r tag (lanesOfImage tag bs) allLanes]
  | .mask q => [.pred q (BitVec.ofNat 64 (leValue bs))]
  | .lanes r tag w which => laneValues r tag w which bs
  | .block r tag w j =>
    (List.range 4).map fun col =>
      .vector (r + col) tag (Vector.ofFn fun l => BitVec.ofNat 32 (imageElem w bs (l % 16 * 4 + col)))
        (laneMask ((List.range 16).map (16 * j + ·)))
  | .columns r tag w first =>
    let rows := (List.range 64).drop first
    (List.range 4).flatMap fun col =>
      ReadShape.laneValues (r + col) tag w rows ((bs.drop (col * rows.length * w)).take (rows.length * w))
  | .record => [.record ((List.range 5).map fun i => BitVec.ofNat 64 (imageElem 8 bs i))]
  | .head => []

/-- The results of an access of local memory or the landing once its bytes are read, by name: one, or of LDVT one for each
register (R256). -/
def MemOp.results (m : MemOp) (bs : List Byte) : List (Nat × List Landing) :=
  match m.act with
  | .read _ (.columns r tag w first) =>
    (ReadShape.columns r tag w first).values bs |>.zipIdx.map fun p => (m.id + p.2, [p.1])
  | .read _ sh => [(m.id, sh.values bs)]
  | _ => []

/-! ### Reading registers

A read in the shadow of a result in flight returns the old value or the new one (R59, R132): each pending result not of
the bundle itself offers its value, and a free coin decides. A load of main memory whose bytes have not been read has no
new value to offer yet; one of local memory or the landing offers what it is going to read; a result that is promised and
not known yet offers a free value (log entry 63). `pos` tells the operands of one slot apart. -/

/-- The value a pending result offers a scalar register; `any` stands for one that is not known yet. -/
def Landing.scalarAt (w : Landing) (any : Dword) (r : Nat) : Option Dword :=
  match w with
  | .await d => if d = r then some any else none
  | .scalar r' v => if r' = r then some v else none
  | .link v => if r = 31 then some v else none
  | .record vs => if 28 ≤ r then vs[r - 28]? else none
  | _ => none

def Landing.predAt (w : Landing) (q : Nat) : Option Dword :=
  match w with
  | .pred q' v => if q' = q then some v else none
  | .record vs => if q = 23 then vs[4]? else none
  | _ => none

/-- What a pending result makes of a vector register. -/
def Landing.vectorAt (w : Landing) (r : Nat) (old : VReg) : Option VReg :=
  match w with
  | .vector r' tag lanes which => if r' = r then some ⟨tag, mergeLanes old.lanes lanes which⟩ else none
  | _ => none

/-- The parts of an access of main memory. -/
def Context.partsOf (cx : Context) (whole : Nat) : List Async := cx.async.filter (·.whole == whole)

/-- What a load or an atomic of main memory will land, once every byte of all its parts has been read. -/
def Context.gathered (cx : Context) (whole : Nat) : Option (List Landing) :=
  let parts := cx.partsOf whole
  match parts with
  | [] => none
  | a :: _ =>
    match a.act with
    | .read _ sh =>
      if parts.all Async.wholeRead then
        let got := parts.flatMap (·.got)
        some (sh.values ((List.range got.length).map fun i => (got.lookup i).getD 0))
      else none
    | .atomic _ _ _ r => if a.wholeRead then some [.scalar r (BitVec.ofNat 64 (leValue (a.got.map (·.2))))] else none
    | _ => none

/-- The results that stand in the shadow of the present bundle, each with its name: those in flight, and those of loads
and atomics of main memory that have been read. -/
def Context.shadowing (cx : Context) : List (Nat × Landing) :=
  (cx.flight.filter (!·.fresh)).map (fun f => (f.id, f.what)) ++
  (cx.async.filter fun a => !a.fresh && a.whole == a.id).flatMap fun a =>
    ((cx.gathered a.id).getD []).map fun w => (a.id, w)

/-- The new word of an atomic on a word of n bytes (R143); AFADD keeps subnormals and gives the canonical NaN. -/
def atomResult (op : AtomOp) (n : Nat) (x b : Dword) : Dword :=
  let low (v : Dword) : Dword := if n = 4 then v &&& 0xFFFFFFFF else v
  let si (v : Dword) : Int := if n = 4 then (v.extractLsb' 0 32).toInt else v.toInt
  let x := low x
  let b := low b
  match op with
  | .add => low (x + b)
  | .min u => if (if u then x.toNat < b.toNat else si x < si b) then x else b
  | .max u => if (if u then x.toNat < b.toNat else si x < si b) then b else x
  | .and => x &&& b
  | .or => x ||| b
  | .xor => x ^^^ b
  | .swap => b
  | .cas e => if x = low e then b else x
  | .fadd => (add32 (x.truncate 32) (b.truncate 32)).zeroExtend 64

/-- A byte, or bytes, once the writes and atomics on their way have been made. -/
def MemOp.over (m : MemOp) (read : Nat → Byte) : Nat → Byte :=
  match m.act with
  | .write cells => fun k => cells.foldl (fun b c => if c.1 = k then c.2 else b) (read k)
  | .atomic keys op v _ =>
    let new := leBytes keys.length (atomResult op keys.length (BitVec.ofNat 64 (leValue (keys.map read))) v).toNat
    fun k => ((keys.zip new).lookup k).getD (read k)
  | _ => read

/-- Others may still write these bytes before an access of this core to them is made: an engine, a circuit, a message, a
context of another core. -/
def State.mayChange (s : State) (k : Fin 64) (keys : List Nat) : Bool :=
  allCores.any fun j =>
    (s.core j).channels.any (!·.isEmpty) ||
    (j != k && (s.core j).memq.any fun m => m.act.isStore && m.act.keys.any keys.contains)

/-- The bytes that a load on its way is going to read, once the writes of the core that come no later are made. Bytes of the
landing that others may still write are free. -/
def State.foreseen (s : State) (m : MemOp) : List Byte :=
  let before := (s.myCore.memq.filter fun o => o.left ≤ m.left)
  let keys := m.act.keys
  if (!s.messages.isEmpty || !s.circling.isEmpty || s.mayChange s.cur.core keys) && keys.all (· < localBase) then
    keys.map fun x => (s.free (2 ^ 38 + x)).truncate 8
  else keys.map (before.foldl (fun read o => o.over read) s.byte)

/-- What loads of local memory and the own landing that have not been read offer in the shadow (R59). -/
def State.earlyReads (s : State) : List (Nat × Landing) :=
  (s.me.flight.filter (!·.fresh)).flatMap fun f =>
    match f.what with
    | .load _ =>
      s.myCore.memq.flatMap fun m =>
        ((if m.id ≤ f.id && f.id < m.id + 4 then m.results (s.foreseen m) else []).filter (·.1 == f.id)).flatMap fun r =>
          r.2.map (f.id, ·)
    | _ => []

/-- All that stands in the shadow of the present bundle. -/
def State.shadowing (s : State) : List (Nat × Landing) := s.me.shadowing ++ s.earlyReads

/-- A number for the choice made about result `id` by operand `pos`. -/
def choice (id pos : Nat) : Nat := id * 8 + pos

/-- Chooses among the old value and what the pending results offer. -/
def State.shadowed (s : State) (pos : Nat) (old : α) (offers : List (Nat × α)) : α :=
  offers.foldl (fun v o => if s.coin (choice o.1 pos) then o.2 else v) old

/-- Scalar register r of the issuing context; s0 reads zero (R27). -/
def State.sreg (s : State) (pos r : Nat) : Dword :=
  if r = 0 then 0
  else
    s.shadowed pos (s.me.sregs[r]?.getD 0)
      (s.shadowing.filterMap fun o => (o.2.scalarAt (s.free (2 ^ 35 + o.1)) r).map fun v => (o.1, v))

/-- Predicate q of the issuing context; 24 is `qall` (R27). -/
def State.qreg (s : State) (pos q : Nat) : Dword :=
  if q = 24 then BitVec.allOnes 64
  else
    s.shadowed pos (s.me.preds[q]?.getD 0)
      (s.shadowing.filterMap fun o => (o.2.predAt q).map fun v => (o.1, v))

/-- Vector register r of the issuing context. -/
def State.vreg (s : State) (pos r : Nat) : VReg :=
  s.shadowing.foldl (fun v o =>
    match o.2.vectorAt r v with
    | some v' => if s.coin (choice o.1 pos) then v' else v
    | none => v) (s.me.vregs[r]?.getD VReg.zero)

/-! ### `ReadS`, `ReadQ`, `Land` (R65) -/

/-- Pops one entry of an input FIFO (R54); a bundle issues only while the entry is there. -/
def State.popFi (s : State) (f : Nat) : Dword × State :=
  let q := s.me.fi[f]?.getD []
  (q.headD (s.free f), s.modMe fun cx => { cx with fi := cx.fi.setIfInBounds f q.tail })

/-- `ReadS`: s0-s31, or a pop of fi0-fi3 for 32-35. -/
def State.readS (s : State) (pos : Nat) (f : BitVec 6) : Dword × State :=
  if f.toNat < 32 then (s.sreg pos f.toNat, s) else s.popFi (f.toNat - 32)

/-- The binding of output register f of a context (R300). -/
def State.binding (s : State) (k : Fin 64) (c : Fin 4) (f : Nat) : Dword := (((s.fbind.get k).get c)[f]?).getD 0

/-- A push that R300 lets go: a binding that is enabled and names a virtual channel of 2 or more. -/
def bindingOk (b : Dword) : Bool := b.getLsbD 63 && 2 ≤ (b.extractLsb' 32 4).toNat

/-- `Land` into a scalar destination: s0-s31, or a push onto fo0-fo3 for 32-35; an unbound fo traps ILLEGAL. -/
def State.writeS (s : State) (f : BitVec 6) (v : Dword) (latency : Nat) : Except Stop State :=
  if f.toNat < 32 then .ok (s.land (.scalar f.toNat v) latency)
  else if bindingOk (s.binding s.cur.core s.cur.ctx (f.toNat - 32)) then
    .ok (s.land (.push (f.toNat - 32) v) latency)
  else trapWith .illegal

/-- `Land` into a predicate. -/
def State.writeQ (s : State) (q : BitVec 6) (v : Dword) (latency : Nat) : State := s.land (.pred q.toNat v) latency

/-- `ReadV` of v0-v31: a register with an invalid tag traps FORMAT (R31). -/
def State.readV (s : State) (pos : Nat) (f : BitVec 6) : Except Stop VReg :=
  let v := s.vreg pos f.toNat
  if tagValid v.tag then .ok v else trapWith .format

/-- `Land` into a vector register; a scale out of range or an invalid tag traps FORMAT (R31). -/
def State.writeV (s : State) (f : BitVec 6) (tag : Half) (lanes : Lanes) (which : Dword) (latency : Nat) :
    Except Stop State :=
  if tagValid tag then .ok (s.land (.vector f.toNat tag lanes which) latency) else trapWith .format

/-- Lane contents of w bits: R32 zeroes the rest. -/
def laneOf (w n : Nat) : Word := BitVec.ofNat 32 (n % 2 ^ w)

/-- The element of w bits in a lane. -/
def elem (w : Nat) (l : Word) : Nat := l.toNat % 2 ^ w

/-! ### Memory images of a vector register (R32, R136) -/

/-- The image of a register. -/
def VReg.image (v : VReg) : List Byte :=
  let w := laneWidth (tagCode v.tag)
  v.lanes.toList.flatMap fun l => leBytes (w / 8) (elem w l)

/-! ### Circular-buffer heads (R98, R99) -/

def Ring.filled (r : Ring) : Nat := (r.pp + 2 * r.len - r.cp) % (2 * r.len)
def Ring.free (r : Ring) : Nat := r.len - r.filled
/-- Tile of ring index i. -/
def Ring.tile (r : Ring) (i : Nat) : Nat := r.base + i % r.len
def Ring.step (r : Ring) (p n : Nat) : Nat := (p + n) % (2 * r.len)

def State.ring (s : State) (h : Nat) : Ring := (s.myCore.rings[h]?).getD Ring.reset

def State.modRing (s : State) (h : Nat) (f : Ring → Ring) : State :=
  s.modMyCore fun co => { co with rings := co.rings.setIfInBounds h (f ((co.rings[h]?).getD Ring.reset)) }

/-- The issuer's task holds the handle. -/
def State.holdsRing (s : State) (h : Nat) : Bool := (s.ring h).holder.isSome && (s.ring h).holder == s.me.task

/-- Addresses of a head access of n bytes: tile `p`, offset `off` in units of 64 bytes, within the tile (log entry
11). -/
def Ring.head (r : Ring) (p off n : Nat) : List Nat :=
  (List.range n).map fun i => locbase + r.tile p * tileBytes + (off * 64 + i) % tileBytes

/-! ### Local memory as a read of this cycle finds it (R131) -/

/-- Bytes of local memory as a load of this cycle finds them: the core's writes and atomics on their way to it
included. -/
def State.localNow (s : State) (keys : List Nat) : List Byte :=
  keys.map (s.myCore.memq.foldl (fun read m => m.over read) s.byte)

/-- The step of a consumer head: the addresses it reads, its tag, and the head moved on. -/
def State.headRead (s : State) (h : Nat) : Except Stop (List Nat × Half × State) :=
  let r := s.ring h
  if !s.holdsRing h || r.role then trapWith .perm
  else
    let n := imageSize r.tag
    let as := r.head r.cp r.coff n
    if as.any fun a => s.myCore.engineTiles.contains ((a - locbase) / tileBytes) then trapWith .perm
    else .ok (as, r.tag, s.modRing h fun r => { r with coff := (r.coff + n / 64) % 64 })

/-- The step of a producer head. -/
def State.headWrite (s : State) (h : Nat) : Except Stop (List Nat × Half × State) :=
  let r := s.ring h
  if !s.holdsRing h || !r.role then trapWith .perm
  else
    let n := imageSize r.tag
    let as := r.head r.pp r.poff n
    if as.any fun a => s.myCore.engineTiles.contains ((a - locbase) / tileBytes) then trapWith .perm
    else .ok (as, r.tag, s.modRing h fun r => { r with poff := (r.poff + n / 64) % 64 })

/-- An uncorrectable error latches POISON for the context's next bundle (R133). TADDR names the lowest address of the
access (log entry 67). -/
def State.latchPoison (s : State) (k : Fin 64) (c : Fin 4) (a : Dword) (id : Nat) : State :=
  s.countError.latchFault k c .poison a id

/-- `ReadV` of v0-v31 or of a consumer head, with what is left of the state. A head whose bytes hold an uncorrectable
error gives none: POISON is latched, and the form writes nothing (R133, R270). Otherwise the head's load is on its way as one
of the context's accesses (R222), whose bytes are known already. -/
def State.readVAny (s : State) (pos : Nat) (f : BitVec 6) : Except Stop (Option VReg × State) :=
  if f.toNat < 32 then (s.readV pos f).map fun v => (some v, s)
  else
    match s.headRead (f.toNat - 32) with
    | .error e => .error e
    | .ok (as, tag, t) =>
      let keys := as.map (s.keyOf s.cur.core s.cur.ctx)
      if !tagValid tag then trapWith .format
      else if s.poison.any keys.contains then
        .ok (none, t.latchPoison s.cur.core s.cur.ctx (BitVec.ofNat 64 ((minimum as).getD 0)) s.nextId)
      else
        let t := (t.issueOnChip s.cur.core s.cur.ctx .loc ((minimum as).getD 0) (.read keys .head) {}).fresh
        .ok (some ⟨tag, lanesOfImage tag (s.localNow keys)⟩, t)

/-! ### Tag checks (R33) -/

/-- A register whose code passes a test, else FORMAT. -/
def State.readVIf (s : State) (pos : Nat) (f : BitVec 6) (ok : Nat → Bool) : Except Stop VReg :=
  match s.readV pos f with
  | .error e => .error e
  | .ok v => if ok (tagCode v.tag) then .ok v else trapWith .format

def check (b : Bool) (w : Cause) : Except Stop Unit := if b then .ok () else trapWith w
def checkAt (b : Bool) (w : Cause) (a : Dword) : Except Stop Unit := if b then .ok () else trapAt w a

/-- A lane mask: 0 selects every lane, n the predicate qn (R141, R155). -/
def State.mask (s : State) (m : Nat) : Dword := if m = 0 then allLanes else s.qreg 6 m

end Sys2Proof.Machine
end

