-- ==== Sys2Proof/Machine/Order.lean ====
section
/-! DEFINITION. The order in which agents make their accesses: the scopes, the cycles that R229 forbids, what may be
performed ahead of what is preserved before it, and what a load may still find of an earlier value (R220-R236; log entry
8). -/

namespace Sys2Proof.Machine

open Sys2Proof.Config

/-! ### Scopes (R228) -/

/-- The ranks of two devices lie in one sled ring (R294). -/
def sameSled (a b : BitVec 7) : Bool := a.toNat / 8 == b.toNat / 8

def Agent.core : Agent → Option (Fin 64)
  | .context k _ | .channel k _ => some k
  | _ => none

/-- The device of an agent. -/
def Agent.rank (own : BitVec 7) : Agent → BitVec 7
  | .peer r => r
  | _ => own

/-- A second agent lies in a scope around a first. -/
def Agent.reaches (own : BitVec 7) (n : Nat) (g h : Agent) : Bool :=
  let share (f : Fin 64 → Nat) : Bool :=
    match g.core, h.core with
    | some k, some j => f k == f j
    | _, _ => g == h
  match n with
  | 0 => g == h
  | 1 => share Fin.val
  | 2 => share clusterOf
  | 3 => g.rank own == h.rank own
  | 4 => sameSled (g.rank own) (h.rank own)
  | _ => true

/-! ### Cycles (R229) -/

/-- Of two events that share a byte, one a store, the first performed stands before the other: it is read by it, or comes
before it in coherence order, or has read what it overwrites. A load that follows an own store may have read that. -/
def Event.conflicts (x y : Event) : Bool :=
  (x.acc.act.isStore || y.acc.act.isStore) &&
  !(x.agent == y.agent && x.acc.act.isStore && !y.acc.act.isStore) &&
  x.acc.act.keys.any y.acc.act.keys.contains

/-- x stands before y: preserved at scope n or wider, or by R224 where x is performed `first`. -/
def Event.precedes (n : Nat) (first : Bool) (x y : Event) : Bool :=
  y.acc.within.any (fun p => p.1 == x.acc.id && n ≤ p.2) || ((first || y.acc.after.contains x.acc.id) && x.conflicts y)

/-- Adds to `seen` all that its events stand before. Each has its place in the order of performing; those from place d on
are still to come, in no order. -/
def reached (n d : Nat) (nodes : List (Event × Nat)) : Nat → List (Event × Nat) → List (Event × Nat)
  | 0, seen => seen
  | fuel + 1, seen =>
    let new := nodes.filter fun y =>
      !seen.any (·.2 == y.2) && seen.any fun x => x.1.precedes n (x.2 < y.2 && x.2 < d) y.1
    if new.isEmpty then seen else reached n d nodes fuel (seen ++ new)

/-- An event between those made before it and those made after it, with others to come, closes a cycle in which every
preserved edge has a scope that contains every agent. -/
def closesCycle (own : BitVec 7) (before after open_ : List Event) (e : Event) : Bool :=
  let d := before.length
  [1, 2, 3, 4, 5].any fun n =>
    let nodes := ((before ++ e :: (after ++ open_)).zipIdx).filter fun x => e.agent.reaches own n x.1.agent
    (reached n (d + 1 + after.length) nodes nodes.length [(e, d)]).any fun x => x.2 != d && x.1.precedes n (x.2 < d) e

/-- The events to come but for the bytes of one that is made. -/
def without (open_ : List Event) (e : Event) : List Event :=
  open_.filter fun q => q.acc.id != e.acc.id || !q.acc.act.keys.all e.acc.act.keys.contains

/-- Events to come that some event of the log has been performed ahead of. -/
def stillDue (log open_ : List Event) : List Event :=
  open_.filter fun p => log.any fun b => b.acc.within.any (·.1 == p.acc.id)

/-- An access of `open_` stands before this event at one of its bytes (R22, R224). -/
def heldBack (open_ : List Event) (e : Event) : Bool :=
  open_.any fun q => e.acc.after.contains q.acc.id && q.acc.act.keys.any e.acc.act.keys.contains

/-- An order in which all that the log has been performed ahead of can still be performed without closing a cycle, if there
is one. -/
def wayOn (own : BitVec 7) : Nat → List Event → List Event → Option (List Event)
  | 0, log, open_ => if (stillDue log open_).isEmpty then some [] else none
  | fuel + 1, log, open_ =>
    match stillDue log open_ with
    | [] => some []
    | due =>
      let last := (due.map (·.acc.id)).foldl max 0
      open_.findSome? fun p =>
        let rest := without open_ p
        if p.acc.id ≤ last && !heldBack open_ p && !closesCycle own log [] rest p then
          (wayOn own fuel (log ++ [p]) rest).map (p :: ·)
        else none

/-- There is such an order. -/
def finishes (own : BitVec 7) (log open_ : List Event) : Bool := (wayOn own open_.length log open_).isSome

/-! ### Groups of bytes -/

def isExposed (k : Nat) : Bool := exposedBase ≤ k && k < landingBase
def exposedBlock (k : Nat) : Nat := (k - exposedBase) / 256

/-- The exposed blocks that keys touch, ascending. -/
def blocksTouched (keys : List Nat) : List Nat :=
  (keys.filter isExposed).foldl (fun bs k => insertOnce (exposedBlock k) bs) []

/-- Lists of u elements. -/
def inUnits (u : Nat) (l : List α) : List (List α) :=
  (List.range (ceilDiv l.length (max 1 u))).map fun i => (l.drop (i * max 1 u)).take (max 1 u)

/-- The bytes of an access, by their place in its part, as they are performed together: units (R223), or in the exposed
space, of this device or of a peer, whole blocks in ascending address order (R279). -/
def Async.groups (a : Async) : List (List Nat) :=
  let keys := a.act.keys
  let places := List.range keys.length
  if keys.any compKey then
    let block (i : Nat) : Option Nat := (keys[i]?).bind fun x => a.runs.lookup (x / 256)
    ((a.runs.foldl (fun bs r => insertOnce r.2 bs) []).map fun b => places.filter fun i => block i == some b).filter
      (!·.isEmpty) ++ inUnits a.unit (places.filter fun i => (block i).isNone)
  else inUnits a.unit places

/-- The bytes that are performed together, as events: those of a load that have not been read, those of a store that have
not been written. -/
def Async.pieces (a : Async) : List Async :=
  match a.act with
  | .read keys _ =>
    let read (g : List Nat) : Bool := g.any fun i => ((a.places[i]?).bind fun p => a.got.lookup p).isSome
    (a.groups.filter (!read ·)).map fun g => { a with act := .read (g.filterMap fun i => keys[i]?) .record }
  | .write cells => a.groups.map fun g => { a with act := .write (g.filterMap fun i => cells[i]?) }
  | _ => [a]

/-! ### What may be performed -/

/-- The accesses of main memory that contexts have not made. -/
def State.awaited (s : State) : List Event :=
  allCores.flatMap fun k => allCtxs.flatMap fun c =>
    (((s.ctx k c).async.filter (!·.wholeRead)).flatMap Async.pieces).map fun a => ⟨.context k c, a, 0⟩

/-- An access of main memory that is preserved before this one has not been performed. -/
def State.ahead (s : State) (a : Async) : Bool := a.within.any fun p => s.unmade p.1

/-- An event at a moment, in the order of those that have been made. -/
def State.fits (s : State) (before after : List Event) (e : Event) : Bool :=
  let open_ := without s.awaited e
  !closesCycle s.rank before after open_ e && finishes s.rank (before ++ e :: after) open_

/-- An event may come next. Where events whose moment is fixed have left no way on, what is in its own order may. -/
def State.allows (s : State) (g : Agent) (a : Async) : Bool :=
  (s.log.isEmpty && !s.ahead a) || s.fits s.log [] ⟨g, a, s.draw⟩ ||
    (!s.ahead a && !finishes s.rank s.log s.awaited)

/-- Ranks of the members of a group descriptor, in group order (R306). -/
def groupMembers (g : Dword) : List (BitVec 7) :=
  (List.range (bits g 23 16)).map fun i => BitVec.ofNat 7 (bits g 6 0 + i * bits g 14 8)

/-- A group of devices is defined. -/
def State.grouped (s : State) : Bool := s.regs.bgrp.toList.any (·.getLsbD 63)

/-- A context has seen memory as it stands now (R235). -/
def State.look (s : State) (g : Agent) : State :=
  match g with
  | .context k c => if s.grouped then s.modCtx k c fun cx => { cx with view := s.draw } else s
  | _ => s

/-- So have those that are to observe a store of the context that started them (R22). -/
def State.lookAfter (s : State) (g : Agent) (a : Async) : State :=
  match g with
  | .context .. =>
    if s.grouped && a.act.isStore then
      s.foldCtxs fun s k c => if (s.ctx k c).inherited.contains a.id then s.look (.context k c) else s
    else s
  | _ => s

/-- The log ends when none of its events is ahead of one that is to come. -/
def State.withLog (s : State) (log : List Event) : State :=
  { s with log := if log.any fun e => s.ahead e.acc then log else [] }

/-- An event has been performed. The log begins with one that is ahead of others, and ends when none is. -/
def State.note (s : State) (g : Agent) (a : Async) : State :=
  let s := (s.look g).lookAfter g a
  if s.log.isEmpty && !s.ahead a then s else s.withLog (s.log ++ [⟨g, a, s.draw⟩])

/-- An access by its bytes alone, as an event: its name, and what is preserved before it at rack scope. -/
def plainAccess (id : Nat) (act : MemAct) (before : List Nat) : Async where
  id := id
  whole := id
  addr := 0
  act := act
  unit := 1
  places := []
  got := []
  charge := 0
  kind := .strong
  acquire := false
  releases := false
  after := []
  within := before.map (·, 5)
  waiting := none
  suspended := false
  overtaken := false
  fresh := false
  runs := []

/-- A read, or a write, of bytes. -/
def readOf (keys : List Nat) : MemAct := .read keys .record
def writeOf (keys : List Nat) : MemAct := .write (keys.map (·, 0))

/-- The access of a peer: those that it made before stand before it, as far as the log knows them. -/
def State.peerAccess (s : State) (r : BitVec 7) (act : MemAct) : Async :=
  plainAccess s.nextId act ((s.logged (.peer r)).map (·.id))

/-! ### Earlier values (R235) -/

/-- What bytes of main memory held before these are written, while a group is defined. -/
def State.remember (s : State) (cells : List (Nat × Byte)) : State :=
  if !s.grouped then s
  else
    let main := (cells.map (·.1)).filter (· < landingBase)
    { s with past := main.map (fun x => (x, s.byte x, s.draw)) ++ s.past }

/-- The events of the log before a moment, and those after it. -/
def State.logAt (s : State) (t : Nat) : List Event × List Event :=
  (s.log.filter (·.time < t), s.log.filter (t ≤ ·.time))

/-- A context that has read the outcome of a claim without the FENCE it needs may make a load at an earlier moment than now,
before some write of its bytes, if that was after what it stands after, and R229 allows it there: a free choice, as the
draw of that write. -/
def State.staleAt (s : State) (k : Fin 64) (c : Fin 4) (e : Async) : Option Nat :=
  let cx := s.ctx k c
  if cx.claimed = 0 || s.ahead e then none
  else
    let ts := ((s.past.filter fun p => e.act.keys.contains p.1 && cx.view < p.2.2).map (·.2.2)).eraseDups
    (ts[(s.free (2 ^ 37)).toNat % max 1 ts.length]?).filter fun t =>
      let (before, after) := s.logAt t
      before.isEmpty || s.fits before after ⟨.context k c, e, t⟩

/-- A byte as it stood before the writes of a draw. -/
def State.byteBefore (s : State) (t : Option Nat) (k : Nat) : Byte :=
  match t with
  | some t => (((s.past.filter fun p => p.1 == k && t ≤ p.2.2).getLast?).map (·.2.1)).getD (s.byte k)
  | none => s.byte k

/-- A load has been made at a moment: now, or an earlier one. -/
def State.noteAt (s : State) (g : Agent) (a : Async) (t : Option Nat) : State :=
  match t with
  | none => s.note g a
  | some t =>
    let (before, after) := s.logAt t
    if s.log.isEmpty then s else s.withLog (before ++ ⟨g, a, t⟩ :: after)

end Sys2Proof.Machine
end

