-- ==== Sys2Proof/Machine/Comp.lean ====
section
/-! DEFINITION. Compressed main memory: the bit-plane coder, the sectors behind the exposed space, and the one path by
which bytes are stored into any memory of the device (R276-R285, R293). The exposed space is held decoded (R220); beside
it stand the metadata entries and the sectors in HBM, which follow every store to it. -/

namespace Sys2Proof.Machine

open Sys2Proof.Config

/-! ### The coder (R276-R278) -/

/-- The 64 little-endian words of a block. -/
def blockWords (bs : List Byte) : List Nat := (List.range 64).map fun i => leValue ((bs.drop (4 * i)).take 4)

/-- The deltas, modulo 2^32, from the word before. -/
def deltas (before : Nat) : List Nat → List Nat
  | [] => []
  | w :: ws => (w + 2 ^ 32 - before) % 2 ^ 32 :: deltas w ws

/-- Plane k of a list of deltas: bit i is bit k of delta i. -/
def plane (k : Nat) : List Nat → Nat
  | [] => 0
  | d :: ds => bit (d.testBit k) + 2 * plane k ds

/-- The planes p'31 down to p'0. -/
def planes (bs : List Byte) : List Nat :=
  let d := deltas 0 (blockWords bs)
  (List.range 32).map fun i =>
    let k := 31 - i
    if k = 31 then plane 31 d else plane k d ^^^ plane (k + 1) d

/-- popcount(mask). -/
def planeCount (bs : List Byte) : Nat := ((planes bs).filter (· != 0)).length

/-- `Encode` of R276. -/
def encodeBlock (bs : List Byte) : List Byte :=
  let ps := planes bs
  let mask := ps.foldl (fun m p => 2 * m + bit (p != 0)) 0
  leBytes 4 mask ++ (ps.filter (· != 0)).flatMap (leBytes 8)

/-- The planes p'31 down to p'0 from a mask and the plane bytes that follow it; absent planes are zero. -/
def readPlanes (mask : Nat) : Nat → List Byte → List Nat
  | 0, _ => []
  | k + 1, bs =>
    if mask.testBit k then leValue (bs.take 8) :: readPlanes mask k (bs.drop 8) else 0 :: readPlanes mask k bs

/-- p31 down to p0 from p'31 down to p'0. -/
def unxor (above : Nat) : List Nat → List Nat
  | [] => []
  | p :: ps => (p ^^^ above) :: unxor (p ^^^ above) ps

/-- Delta i from the planes, highest first. -/
def deltaOf (ps : List Nat) (i : Nat) : Nat := ps.foldl (fun d p => 2 * d + bit (p.testBit i)) 0

/-- The running sums. -/
def sums (before : Nat) : List Nat → List Nat
  | [] => []
  | d :: ds => (before + d) % 2 ^ 32 :: sums ((before + d) % 2 ^ 32) ds

/-- Decoding (R278): bytes beyond the encoding are ignored. -/
def decodeBlock (bs : List Byte) : List Byte :=
  let ps := unxor 0 (readPlanes (leValue (bs.take 4)) 32 (bs.drop 4))
  (sums 0 ((List.range 64).map (deltaOf ps))).flatMap (leBytes 4)

/-- State and sectors of a block (R277). -/
def blockShape (bs : List Byte) : Nat × Nat :=
  let n := planeCount bs
  if n = 0 then (0, 0) else if n ≤ 31 then (1, ceilDiv (4 + 8 * n) 32) else (2, 8)

/-- The sectors of a block as stored: its encoding and zeros beyond it, or the block itself (R277). -/
def storedForm (bs : List Byte) : List Byte :=
  let (st, n) := blockShape bs
  if st = 2 then bs else ((if st = 0 then [] else encodeBlock bs) ++ List.replicate 31 0).take (32 * n)

/-! ### Sectors (R280, R281, R284) -/

/-- Chunks of the pool. -/
def HostRegs.poolChunks (r : HostRegs) : Nat := (r.cpool.extractLsb' 0 11).toNat * 2 ^ 22
/-- Bytes of the exposed space (R279). -/
def HostRegs.exposedBytes (r : HostRegs) : Nat := r.cxsize * 2 ^ 30

def State.blockMeta (s : State) (b : Nat) : BlockMeta := (s.blocks.lookup b).getD ⟨0, 0, 0, 0⟩
def State.chunkMask (s : State) (i : Nat) : Byte := (s.chunks.lookup i).getD 0

/-- Sectors ofs to ofs + n - 1 of a chunk. -/
def runMask (ofs n : Nat) : Byte := BitVec.ofNat 8 ((2 ^ n - 1) * 2 ^ ofs)

/-- The first free run of n sectors in a chunk. -/
def freeRun (m : Byte) (n : Nat) : Option Nat := (List.range (9 - n)).find? fun o => m &&& runMask o n == 0

/-- A free run of n sectors: the first chunk that has one. Among the chunks numbered up to the count of listed ones, one
is unlisted and free, if the pool is that large. -/
def State.findRun (s : State) (n : Nat) : Option (Nat × Nat) :=
  ((List.range (s.chunks.length + 1)).filter (· < s.regs.poolChunks)).findSome? fun i =>
    (freeRun (s.chunkMask i) n).map fun o => (i, o)

def State.setChunk (s : State) (i : Nat) (m : Byte) : State :=
  let rest := s.chunks.filter (·.1 != i)
  { s with chunks := if m = 0 then rest else (i, m) :: rest }

/-- HBM address of the metadata entry of a block (R280) and of a run of sectors (R281). -/
def HostRegs.metaAt (r : HostRegs) (b : Nat) : Nat := bits r.cmeta 63 16 * 2 ^ 16 + 8 * b
def HostRegs.sectorAt (r : HostRegs) (m : BlockMeta) : Nat := bits r.cpool 63 30 * 2 ^ 30 + 256 * m.chunk + 32 * m.ofs

/-- A metadata entry as stored (R280). -/
def BlockMeta.entry (m : BlockMeta) : Nat :=
  if m.nsec = 0 then 0 else m.state * 2 ^ 62 + m.nsec * 2 ^ 58 + m.ofs * 2 ^ 31 + m.chunk

/-- Bytes that the controller keeps in HBM; nothing where HBM has no such address. -/
def State.keep (s : State) (a : Nat) (bs : List Byte) : State := if a + bs.length ≤ hbmBytes then s.put a bs else s

/-- Gives a block its sectors: the entry is written, and the block's stored form into them. -/
def State.setMeta (s : State) (b : Nat) (m : BlockMeta) : State :=
  let rest := s.blocks.filter (·.1 != b)
  let t : State := { s with blocks := if m.nsec = 0 then rest else (b, m) :: rest }
  let t := t.keep (s.regs.metaAt b) (leBytes 8 m.entry)
  if m.nsec = 0 then t else t.keep (s.regs.sectorAt m) (storedForm (s.bytes (exposedBase + 256 * b) 256))

/-- An uncorrectable error stands in a block: in its bytes, its metadata entry or its sectors (R293). -/
def State.blockError (s : State) (b : Nat) (p : Nat) : Bool :=
  let m := s.blockMeta b
  let sectors := s.regs.sectorAt m
  (exposedBase + 256 * b ≤ p && p < exposedBase + 256 * b + 256) ||
  (s.regs.metaAt b ≤ p && p < s.regs.metaAt b + 8) || (sectors ≤ p && p < sectors + 32 * m.nsec)

def State.addFree (s : State) (f : Nat → Nat) : State := s.modRegs fun r => { r with cfree := f r.cfree }

/-- Frees a run. -/
def State.freeSectors (s : State) (chunk ofs n : Nat) : State :=
  if n = 0 then s else (s.setChunk chunk (s.chunkMask chunk &&& ~~~(runMask ofs n))).addFree (· + n)

/-- Takes a run, which is written whole: an uncorrectable error in its sectors is gone (log entry 24). -/
def State.takeSectors (s : State) (chunk ofs n : Nat) : State :=
  let a := s.regs.sectorAt ⟨0, n, ofs, chunk⟩
  (State.setChunk { s with poison := s.poison.filter fun p => p < a || a + 32 * n ≤ p } chunk (s.chunkMask chunk ||| runMask ofs n)).addFree (· - n)

/-- SKSTAT.ACTIVE is set while a write waits, the pool is below its low-water mark, or a run from the reserve has started
the Skidder (R284; log entry 52), and BALREQ.PEND clears when
neither a write waits nor the reserve is short (R289). -/
def State.settleSkidder (s : State) : State :=
  s.modRegs fun r =>
    { r with
      skActive := !s.waitingWrites.isEmpty || r.cfree < r.clow || r.skRun
      balPend := r.balPend && !(s.waitingWrites.isEmpty && r.cresv ≤ r.cfree) }

/-! ### Blocks and keys -/

def cellsOf (cells : List (Nat × Byte)) (b : Nat) : List (Nat × Byte) :=
  cells.filter fun c => isExposed c.1 && exposedBlock c.1 == b

/-- Every byte of a block is among the keys. -/
def wholeBlock (keys : List Nat) (b : Nat) : Bool := (List.range 256).all fun i => keys.contains (exposedBase + 256 * b + i)

/-- The block that a waiting write waits on. -/
def WaitingWrite.block (w : WaitingWrite) : Nat := exposedBlock ((w.cells.head?.map (·.1)).getD exposedBase)

/-- Waiting writes older than the one of a name; all of them for a new one. -/
def State.olderThan (s : State) (id : Nat) : List WaitingWrite := s.waitingWrites.takeWhile (·.id != id)

/-- An access to a block waits: the compressed space is being initialised (R283), or an older write waits on the block
(R285). -/
def State.blockWaits (s : State) (id b : Nat) : Bool := s.regs.cmpBusy || (s.olderThan id).any (·.block == b)

def State.blockedOnSectors (s : State) (id : Nat) (keys : List Nat) : Bool := (blocksTouched keys).any (s.blockWaits id)

/-- State and sectors that a block has once bytes are written into it. -/
def State.shapeAfter (s : State) (b : Nat) (cells : List (Nat × Byte)) : Nat × Nat :=
  blockShape (State.bytes { s with mem := s.mem.writeCells cells } (exposedBase + 256 * b) 256)

/-! ### Reduction words (R303, R304) -/

/-- Bytes of a reduction word (R144). -/
def redBytes (op : BitVec 2) : Nat := if op = 2 then 8 else 4

/-- acc ⊕ a contribution. -/
def redCombine (op : BitVec 2) (acc v : Dword) : Dword :=
  match op.toNat with
  | 0 => (add32 (acc.truncate 32) (v.truncate 32)).zeroExtend 64
  | 1 => (acc + v) &&& 0xFFFFFFFF
  | _ => acc + v

def State.rdWindow (s : State) (w : Nat) : RedWindow := (s.regs.rdwin[w]?).getD ⟨0, 0⟩

/-- Group descriptor of a window. -/
def State.rdGroup (s : State) (w : Nat) : Dword := (s.regs.bgrp[bits (s.rdWindow w).dword1 34 32]?).getD 0

def State.expectedRound (s : State) (w a : Nat) : Word := (s.expected.lookup (w, a)).getD 0

/-- The round that a word expects, if any contribution to it has come. -/
def State.openRound (s : State) (w a : Nat) : Option Round :=
  s.rounds.find? fun r => r.win == w && r.addr == a && r.number == s.expectedRound w a

/-- The word of a round after it: the contributions in group order. -/
def Round.result (r : Round) (members : List (BitVec 7)) (old : Dword) : Dword :=
  members.foldl (fun acc m =>
    match r.contributions.lookup m with
    | some v => redCombine r.op acc v
    | none => acc) old

/-- The keys of the word of a round, and the write of its result, which follows its contributions at rack scope (R236). -/
def Round.keys (r : Round) : List Nat := (List.range (redBytes r.op)).map (r.addr + ·)
def Round.access (r : Round) (id : Nat) : Async := plainAccess id (writeOf r.keys) r.ids

/-- The word of a round as its result leaves it now. A plain store during the round leaves it unpredictable (R234). -/
def State.roundCells (s : State) (r : Round) : List (Nat × Byte) :=
  let word := if r.disturbed then s.free (r.addr % 2 ^ 32)
    else r.result (groupMembers (s.rdGroup r.win)) (BitVec.ofNat 64 (s.value r.addr (redBytes r.op)))
  r.keys.zip (leBytes (redBytes r.op) word.toNat)

/-! ### Writes that wait -/

/-- What an atomic makes of its word as it stands now (R143). -/
def State.atomicCells (s : State) (keys : List Nat) (op : AtomOp) (v : Dword) : List (Nat × Byte) :=
  keys.zip (leBytes keys.length
    (atomResult op keys.length (BitVec.ofNat 64 (leValue (keys.map s.byte))) v).toNat)

/-- The bytes that a waiting write would store now: those of an atomic and of a round's result come of the word as it
stands (R286). -/
def State.wanted (s : State) (w : WaitingWrite) : List (Nat × Byte) :=
  match w.writer with
  | .context k c id =>
    match (s.ctx k c).async.find? (·.id == id) with
    | some a =>
      match a.act with
      | .atomic keys op v _ => s.atomicCells keys op v
      | _ => w.cells
    | none => w.cells
  | .peerAtom _ _ op v => s.atomicCells (w.cells.map (·.1)) op v
  | .station win a =>
    match s.openRound win a with
    | some r => s.roundCells r
    | none => w.cells
  | _ => w.cells

/-- A waiting write would find its sectors. -/
def State.finds (s : State) (w : WaitingWrite) : Bool :=
  let n := (s.shapeAfter w.block (s.wanted w)).2
  n ≤ (s.blockMeta w.block).nsec || (s.findRun n).isSome

/-- Some write of a queue, oldest first, stands behind no other on its block and would find its sectors. -/
def State.anyFinds (s : State) (seen : List Nat) : List WaitingWrite → Bool
  | [] => false
  | w :: ws => (!seen.contains w.block && s.finds w) || s.anyFinds (w.block :: seen) ws

/-! ### Storing -/

/-- The sectors of a block change to those of a shape (R284); none where no free run is large enough, or where an older
write that waits would take one (R285). -/
def State.reshape (s : State) (id b : Nat) (shape : Nat × Nat) : Option State :=
  let m := s.blockMeta b
  let (st, n) := shape
  if n ≤ m.nsec then some ((s.freeSectors m.chunk (m.ofs + n) (m.nsec - n)).setMeta b ⟨st, n, m.ofs, m.chunk⟩)
  else if s.anyFinds [] (s.olderThan id) then none
  else
    (s.findRun n).map fun (chunk, ofs) =>
      let s := if s.regs.cfree < s.regs.cresv + n then s.modRegs fun r => { r with skResv := true, skRun := true } else s
      ((s.takeSectors chunk ofs n).freeSectors m.chunk m.ofs m.nsec).setMeta b ⟨st, n, ofs, chunk⟩

/-- Stores bytes into one exposed block, if sectors for it are found. A write of the whole block clears an
uncorrectable error in it (R293). -/
def State.storeBlock (s : State) (id b : Nat) (cells : List (Nat × Byte)) : Option State :=
  let t : State := { s with mem := s.mem.writeCells cells }
  let t : State :=
    if wholeBlock (cells.map (·.1)) b then { t with poison := t.poison.filter (!s.blockError b ·) } else t
  t.reshape id b (s.shapeAfter b cells)

/-- Stores into exposed blocks in ascending order, each alone (R279); what finds no sectors is left. -/
def State.storeBlocks (s : State) (id : Nat) (cells : List (Nat × Byte)) : List Nat → State × List (Nat × Byte)
  | [] => (s, [])
  | b :: bs =>
    match s.storeBlock id b (cellsOf cells b) with
    | some t => t.storeBlocks id cells bs
    | none =>
      let (t, rest) := s.storeBlocks id cells bs
      (t, cellsOf cells b ++ rest)

/-- What goes to a peer device leaves on channel 0 of the ring (R299). -/
def State.storePeer (s : State) (cells : List (Nat × Byte)) : State :=
  (peersOf (cells.map (·.1))).foldl (fun s r =>
    (s.sendFlit (s.linkTo r) 0).emit (.slotOut r
      ((cells.filter fun c => peerBase ≤ c.1 && (c.1 - peerBase) / 2 ^ 65 == r.toNat).map fun c =>
        ((c.1 - peerBase) % 2 ^ 65, c.2)))) s

/-- Landing slots that these bytes are written into are no longer as CMP has written them (R103). -/
def State.unpack (s : State) (keys : List Nat) : State :=
  { s with packed := s.packed.filter fun slot => !keys.any slot.contains }

/-- Stores bytes by their keys; the cells that find no sectors are left over. -/
def State.storeCells (s : State) (id : Nat) (cells : List (Nat × Byte)) : State × List (Nat × Byte) :=
  let s := (s.remember cells).unpack (cells.map (·.1))
  let plain := cells.filter fun c => !isExposed c.1 && c.1 < peerBase
  let peer := cells.filter fun c => peerBase ≤ c.1
  let s : State := { s with mem := s.mem.writeCells plain }
  let s := if peer.isEmpty then s else s.storePeer peer
  let (s, rest) := s.storeBlocks id cells (blocksTouched (cells.map (·.1)))
  (s.settleSkidder, rest)

/-- Stores as `storeCells`: a plain store to the word of an open round leaves the word unpredictable (R234). -/
def State.plainStore (s : State) (id : Nat) (cells : List (Nat × Byte)) : State × List (Nat × Byte) :=
  let (t, rest) := s.storeCells id cells
  let met (r : Round) : Bool := r.number == (s.expected.lookup (r.win, r.addr)).getD 0 &&
    cells.any fun c => r.addr ≤ c.1 && c.1 < r.addr + (if r.op = 2 then 8 else 4)
  ({ t with rounds := t.rounds.map fun r => if met r then { r with disturbed := true } else r }, rest)

/-- Puts a write to one block into the queue of those that wait. -/
def State.enqueue (s : State) (w : Writer) (since : Option Nat) (cells : List (Nat × Byte)) : State :=
  State.settleSkidder { s.fresh with waitingWrites := s.waitingWrites ++ [⟨s.nextId, w, cells, since⟩] }

/-- What is left of a write waits, block by block. -/
def State.enqueueAll (s : State) (w : Writer) (since : Option Nat) (cells : List (Nat × Byte)) : State :=
  (blocksTouched (cells.map (·.1))).foldl (fun s b => s.enqueue w since (cellsOf cells b)) s

/-- An access meets an uncorrectable error: in a byte it touches, or in a block that must be decoded for it (R270,
R293). -/
def State.poisonMet (s : State) (act : MemAct) : Bool :=
  let meets (keys : List Nat) : Bool :=
    s.poison.any fun p => keys.contains p || (blocksTouched keys).any (s.blockError · p)
  match act with
  | .read keys _ => meets keys
  | .atomic keys _ _ _ => meets keys
  | .contribute .. => false
  | .write cells =>
    let keys := cells.map (·.1)
    s.poison.any fun p => (blocksTouched keys).any fun b => s.blockError b p && !wholeBlock keys b

end Sys2Proof.Machine
end

