-- ==== Sys2Proof/Machine/Fetch.lean ====
section
/-! DEFINITION. Fetching a bundle, its decode rules, and the expansion of a delta bundle (R50-R57, R62-R64). -/

namespace Sys2Proof.Machine

open Sys2Proof.Config

/-- One slot word at an address: a fetch that faults stops here (R56, R253). -/
def State.fetchWord (s : State) (k : Fin 64) (c : Fin 4) (a : Nat) : Except Stop Word :=
  (s.access k c .execute a (addrRun a 4)).map fun ks => BitVec.ofNat 32 (leValue (ks.map s.byte))

/-- Slot words from an address up to the first with STOP set, at most n of them. -/
def State.fetchWords (s : State) (k : Fin 64) (c : Fin 4) : Nat → Nat → Except Stop (List Word)
  | 0, _ => .ok []
  | n + 1, a =>
    match s.fetchWord k c (a % 2 ^ 64) with
    | .error e => .error e
    | .ok w =>
      if wordStop w then .ok [w]
      else
        match s.fetchWords k c n (a + 4) with
        | .error e => .error e
        | .ok ws => .ok (w :: ws)

/-- The words of the bundle at an address; eight of them pass without a STOP bit in a bundle that is ILLEGAL. -/
def State.fetchBundle (s : State) (k : Fin 64) (c : Fin 4) (a : Dword) : Except Stop (List Word) :=
  s.fetchWords k c 8 a.toNat

/-- The fetch of a bundle of at most n words waits: its bytes lie in the exposed space, and that is being initialised (R283), or
a write waits on their block (R285). -/
def State.fetchHeld (s : State) (k : Fin 64) (c : Fin 4) : Nat → Nat → Bool
  | 0, _ => false
  | n + 1, a =>
    match s.access k c .execute (a % 2 ^ 64) (addrRun (a % 2 ^ 64) 4) with
    | .error _ => false
    | .ok ks =>
      s.blockedOnSectors s.nextId ks ||
        (!wordStop (BitVec.ofNat 32 (leValue (ks.map s.byte))) && s.fetchHeld k c n (a + 4))

/-- The last word, and no other, has STOP set. -/
def stopped (ws : List Word) : Bool :=
  match ws.getLast? with
  | some w => wordStop w
  | none => false

def unitOf (w : Word) : Nat := (wordClass w).toNat

/-- A REP header: class 0b000, opcode 0x0C (R62). -/
def isRep (w : Word) : Bool := wordClass w == 0#3 && wordOp w == 0x0C#6

/-- Classes strictly ascend (R55). -/
def ascending : List Word → Bool
  | [] => true
  | [_] => true
  | a :: b :: rest => unitOf a < unitOf b && ascending (b :: rest)

/-- Slots by unit. -/
def slotsOf (ws : List Word) : RepBuf := Vector.ofFn fun u => ws.find? fun w => unitOf w == u.val

/-- One unit of `Expand` (R63): the repeated word, its D or K moved on, or none in the ILLEGAL cases. -/
def repeatSlot (prev : RepBuf) (inc : BitVec 14) (u : Fin 8) : Option Word :=
  match prev.get u with
  | none => none
  | some w => if u.val = 3 then incD w inc else if u.val = 6 then incK w inc else some w

/-- `Expand` of R63: none where it traps ILLEGAL. -/
def expand (same : BitVec 8) (inc : BitVec 14) (explicit : List Word) (prev : RepBuf) : Option RepBuf :=
  let units := List.finRange 8
  if same = 0 then none
  else if explicit.any fun e => same.getLsbD (unitOf e) then none
  else if units.any fun u => same.getLsbD u && (repeatSlot prev inc u).isNone then none
  else some (Vector.ofFn fun u => if same.getLsbD u then repeatSlot prev inc u else (slotsOf explicit).get u)

def RepBuf.words (b : RepBuf) : List Word := b.toList.filterMap id

/-- Forms that must be alone in their bundle (R125, R266). -/
def alone (w : Word) : Bool := wordClass w == 0#3 && (wordOp w).toNat ∈ [0x0E, 0x1A, 0x1B]

/-- Every word is an instruction, and a form that must be alone is. -/
def decodable (ws : List Word) : Bool := ws.all (fun w => (decode w).isSome) && (!ws.any alone || ws.length == 1)

/-- The expanded slots of a bundle, or none if it traps ILLEGAL at decode (R56, R62-R64). `through` says that the
bundle was entered as a REP bundle may be. -/
def bundleSlots (ws : List Word) (prev : RepBuf) (through : Bool) : Option RepBuf :=
  if !stopped ws then none
  else
    match ws with
    | [] => none
    | h :: rest =>
      if isRep h then
        if !through || !ascending rest || rest.any isRep || !rest.all (fun w => (decode w).isSome) then none
        else
          match expand (h.extractLsb' 14 8) (h.extractLsb' 0 14) rest prev with
          | some out => if decodable out.words then some out else none
          | none => none
      else if ascending ws && decodable ws then some (slotsOf ws)
      else none

/-- The slot mask (R55). -/
def RepBuf.mask (b : RepBuf) : Nat :=
  (List.finRange 8).foldl (fun m u => if (b.get u).isSome then m + 2 ^ u.val else m) 0

/-- A fetched and expanded bundle. -/
structure Bundle where
  words : List Word
  slots : RepBuf
  deriving DecidableEq, Repr

/-- What stands in place of a bundle's slots. -/
inductive NoBundle where
  | fault (f : Fault)
  | fetch (cause : Cause) (addr : Dword)
  | illegal
  deriving DecidableEq, Repr

/-- The bundle at a context's pc, fetched, expanded and decoded whole (R56). -/
def State.bundleAt (s : State) (k : Fin 64) (c : Fin 4) : Except NoBundle Bundle :=
  let cx := s.ctx k c
  match s.fetchBundle k c cx.pc with
  | .error (.fault f) => .error (.fault f)
  | .error (.trap t) => .error (.fetch t.cause (t.addr.getD cx.pc))
  | .ok ws =>
    match bundleSlots ws cx.repbuf (cx.fellThrough || cx.reentry) with
    | none => .error .illegal
    | some slots => .ok ⟨ws, slots⟩

/-- FETCH_FAULT (R56): a context about to issue a bundle whose fetch faults takes that trap before any slot commits. -/
def execFetchFault (core : Fin 64) (ctx : Fin 4) (s : State) : Host.Outcome State Fault Refusal :=
  match s.bundleAt core ctx with
  | .error (.fetch cause a) => outcome (s.bundleTrap core ctx cause a)
  | .error (.fault f) => .fault f
  | _ => .next s

/-- ILLEGAL_BUNDLE (R56): a bundle that breaks the decode rules traps ILLEGAL; TADDR holds its address (R254). -/
def execIllegalBundle (core : Fin 64) (ctx : Fin 4) (s : State) : Host.Outcome State Fault Refusal :=
  match s.bundleAt core ctx with
  | .error .illegal => outcome (s.bundleTrap core ctx .illegal (s.ctx core ctx).pc)
  | _ => .next s

end Sys2Proof.Machine
end

