-- ==== Sys2Proof/Machine/Flags.lean ====
section
/-! DEFINITION. The device keeps no flags; its conditions are computed where they are used: the condition codes of CMP
and CMPI, the tests of BRQ and the comparisons of VCMP. -/

namespace Sys2Proof.Machine

/-- The condition codes of R112 on 64-bit operands. -/
def condition (cc : BitVec 4) (a b : Dword) : Bool :=
  match cc.toNat with
  | 0 => a == b
  | 1 => a != b
  | 2 => a.slt b
  | 3 => b.sle a
  | 4 => a.ult b
  | 5 => b.ule a
  | 6 => b.slt a
  | 7 => a.sle b
  | 8 => b.ult a
  | _ => a.ule b

/-- The tests of BRQ (R115). -/
def predTest (t : BitVec 2) (q : Dword) : Bool :=
  match t.toNat with
  | 0 => q != 0
  | 1 => q == BitVec.allOnes 64
  | 2 => q == 0
  | _ => q != BitVec.allOnes 64

/-- A truth value as a 64-bit register. -/
def truth (b : Bool) : Dword := if b then 1 else 0

end Sys2Proof.Machine
end

