-- ==== Sys2Proof/Machine/Tasks.lean ====
section
/-! DEFINITION. Launches, tasks and barrier records: cutting the work identifier, starting a context, the barrier
record's phases, retirement of a task and completion of a launch (R8-R24, R152-R154, R239-R242). -/

namespace Sys2Proof.Machine

open Sys2Proof.Config

/-! ### Cutting the work identifier (R8-R13) -/

/-- NF, and the width of field i, of a cutting in the layout of WKFLD (R13). -/
def cutNf (cut : Dword) : Nat := (cut.extractLsb' 0 3).toNat
def cutWidth (cut : Dword) (i : Nat) : Nat := (cut.extractLsb' (8 + 6 * i) 6).toNat
def cutAff (cut : Dword) : Nat := (cut.extractLsb' 52 4).toNat
def cutBar (cut : Dword) : Nat := (cut.extractLsb' 48 4).toNat
def cutPre (cut : Dword) : Nat := (cut.extractLsb' 44 4).toNat

def product (l : List Nat) : Nat := l.foldl (· * ·) 1

/-- Tasks of one group at a level. -/
def Launch.groupSize (l : Launch) (level : Nat) : Nat := product (l.counts.drop level)
def Launch.total (l : Launch) : Nat := l.groupSize 0
def Launch.barSize (l : Launch) : Nat := l.groupSize (cutBar l.cut)
/-- Barrier groups of the launch. -/
def Launch.groups (l : Launch) : Nat := product (l.counts.take (cutBar l.cut))

/-- The identifier of the task of ordinal n: its mixed-radix digits packed, the last field lowest (R8, R9). -/
def packDigits : List (Nat × Nat) → Nat → Nat
  | [], _ => 0
  | (c, w) :: rest, n => n % c + 2 ^ w * packDigits rest (n / c)

def Launch.fields (l : Launch) : List (Nat × Nat) :=
  (List.range l.counts.length).map fun i => ((l.counts[i]?).getD 1, cutWidth l.cut i)

def Launch.wkid (l : Launch) (n : Nat) : Dword := BitVec.ofNat 64 (packDigits l.fields.reverse n)

/-- The group of barrier group g at a level above it: tasks whose leading fields agree. -/
def Launch.groupAt (l : Launch) (level g : Nat) : Nat := g * l.barSize / l.groupSize level

/-! ### Starting a context (R16, R18, R20) -/

/-- The top of context c's local tiles (R255). -/
def topOfLocal (c : Fin 4) : Dword := BitVec.ofNat 64 (locbase + (128 * c.val + 128) * tileBytes)

/-- A context at a start: everything at its reset value but what R16 gives; the entries of its input FIFOs belong to
the context and stay (R301). -/
def Context.start (cx : Context) (c : Fin 4) (task : Nat) (l : Launch) (pc : Dword) (sregs : Vector Dword 32)
    (wkid : Dword) : Context :=
  { Context.reset with
    state := .ready, task := some task, reservedTask := cx.reservedTask, reservedLaunch := cx.reservedLaunch
    sibling := cx.sibling, pc := pc, sregs := sregs, wkid := wkid, wkfld := l.cut, bkey := l.key, qbound := l.qb
    tvec := l.trapv &&& ~~~3, tsp := topOfLocal c, fi := cx.fi }

/-- Registers s1.. loaded from a list, the rest zero. -/
def loadRegs (vs : List Dword) : Vector Dword 32 :=
  Vector.ofFn fun i => if i.val = 0 then 0 else (vs[i.val - 1]?).getD 0

/-- A launch's event satisfies a wait (R241). -/
def Launch.signals (l : Launch) (w : Dword) : Bool :=
  l.signal != 0 && w != 0 && l.signal.extractLsb' 0 12 == w.extractLsb' 0 12 &&
    (w.extractLsb' 12 52).toNat ≤ (l.signal.extractLsb' 12 52).toNat

/-- What the launches that a launch depends on have made stands before every access of it (R233). -/
def State.launchEdges (s : State) (l : Launch) : List (Nat × Nat) :=
  (s.launches.filter fun o => o.completed && l.waits.any o.signals).flatMap fun o => (o.made.filter s.counts).map (·, 3)

/-- Stores of a context that have not reached their places, and those that the log keeps. -/
def State.pendingStores (s : State) (k : Fin 64) (c : Fin 4) : List Nat :=
  ((s.onChip k c ++ (s.ctx k c).async ++ s.logged (.context k c)).filter (·.act.isStore)).map (·.id)

/-! ### Barrier records (R24, R152-R154) -/

/-- Ranks of a mask. -/
def ranksOf (pm : Nat) : List Nat := (List.range 64).filter pm.testBit

def Barrier.new (launch group name size : Nat) : Barrier :=
  ⟨launch, group, name, size, 2 ^ size - 1, 0, [], [], [], [], 0, false, [], [], []⟩

/-- Departed arrivals in the current phase for every retired member that has none: an arrival of a task that retires
later in the phase stands (R24). The accesses of the retired task stand before a departed arrival (R232). -/
def Barrier.depart (b : Barrier) : Barrier :=
  let gone := b.retired.filter fun r => b.pm.testBit r && !b.arrived.any (·.1 == r)
  { b with
    arrived := b.arrived ++ gone.map (·, true)
    before := b.before ++ (b.left.filter fun p => gone.contains p.1).flatMap (·.2) }

/-- The start of a phase: every retired member's arrival is recorded as departed, an early one of its own included
(R24). -/
def Barrier.startPhase (b : Barrier) : Barrier :=
  Barrier.depart { b with arrived := b.arrived.filter fun a => !b.retired.contains a.1 }

/-- Every participant has an arrival in the current phase. -/
def Barrier.full (b : Barrier) : Bool := (ranksOf b.pm).all fun r => b.arrived.any (·.1 == r)

/-- `Complete` of R154, with the phases it completes and their departed counts. Three rounds are enough: two phases
may stand full, and then every rank has retired or somebody is missing. -/
def Barrier.complete (fuel : Nat) (b : Barrier) : Barrier × List (Word × Word) :=
  match fuel with
  | 0 => (b, [])
  | fuel + 1 =>
    if b.gone || !b.full then (b, [])
    else
      let dc := BitVec.ofNat 32 (b.arrived.filter fun a => a.2 && b.pm.testBit a.1).length
      let next : Barrier :=
        { b with
          dc := dc, ph := b.ph + 1, arrived := b.arrivedNext, arrivedNext := []
          beforeDone := b.beforeDone ++ b.before, before := b.beforeNext, beforeNext := [] }
      let next := if (ranksOf b.pm).all b.retired.contains then { next with gone := true } else next.startPhase
      let (b', done) := next.complete fuel
      (b', (b.ph, dc) :: done)

/-- An arrival of a rank (R154), with the accesses that stand before it (R232): the phase it arrives in and the record
after it; none where the record refuses it. -/
def Barrier.arrive (b : Barrier) (rank : Nat) (before : List Nat) : Option (Word × Barrier) :=
  if !b.pm.testBit rank then none
  else if !b.arrived.any (·.1 == rank) then
    some (b.ph, { b with arrived := b.arrived ++ [(rank, false)], before := b.before ++ before })
  else if !b.arrivedNext.any (·.1 == rank) then
    some (b.ph + 1, { b with arrivedNext := b.arrivedNext ++ [(rank, false)], beforeNext := b.beforeNext ++ before })
  else none

/-- TBINIT on a record (R154). -/
def Barrier.reinit (b : Barrier) (mask : Dword) : Barrier :=
  Barrier.depart { b with
    pm := mask.toNat, arrived := [], arrivedNext := [], before := [], beforeNext := [], dc := 0xFFFFFFFF, ph := b.ph + 1
    gone := false }

/-- The record as the forms of these ranks leave it, in this order. -/
def Barrier.afterForms (b : Barrier) (forms : List (Nat × BarOp)) : Barrier :=
  forms.foldl (fun b f =>
    match f.2 with
    | .arrive _ => (((b.arrive f.1 []).map (·.2)).getD b |>.complete 3).1
    | .init mask => ((b.reinit mask).complete 3).1
    | .wait _ => b) b

/-- p is older than q (R154). -/
def older (p q : Word) : Bool := 1 ≤ (q - p).toNat && (q - p).toNat ≤ 2 ^ 31

def State.modBarrier (s : State) (cl i : Nat) (f : Barrier → Barrier) : State :=
  { s with barriers := s.barriers.setIfInBounds cl (((s.barriers[cl]?).getD []).modify i f) }

def State.barrierList (s : State) (cl : Nat) : List Barrier := (s.barriers[cl]?).getD []

/-- The record of a name for a task. -/
def State.barrierOf (s : State) (t : Task) (name : Nat) : Option (Nat × Barrier) :=
  let l := s.barrierList (clusterOf t.core)
  (l.findIdx? fun b => b.launch == t.launch && b.group == t.group && b.name == name).bind fun i =>
    l[i]?.map fun b => (i, b)

/-- What a release on the phases that `p` names makes of a wait. -/
def Barrier.frees (b : Barrier) (p : Word → Bool) (v : Word) (before : List Nat) (w : Waiting) : Waiting :=
  match w with
  | .tbwait r n p' true => if n = b.name && p p' then .released r (v.zeroExtend 64) before else w
  | w => w

/-- Releases the waiters of a record on some phases with a value, saved ones among them (R154, R232, R267). -/
def State.releaseWaiters (s : State) (b : Barrier) (p : Word → Bool) (v : Word) (before : List Nat) : State :=
  let f (cx : Context) : Context := { cx with wait := cx.wait.map (b.frees p v before) }
  let mine (t : Option Task) : Bool :=
    match t with
    | some t => t.launch == b.launch && t.group == b.group
    | none => false
  (s.foldCtxs fun s k c => if mine (s.taskOf k c) then s.modCtx k c f else s).modKept fun t cx =>
    if mine (s.task t) then f cx else cx

/-- Participants of a record. -/
def Barrier.members (b : Barrier) : Nat := (ranksOf b.pm).length

/-- Completes what phases of record i of a cluster can complete, and releases their waiters. When a record is gone, every
wait on it returns the participant count, those on later phases too (R24). -/
def State.completeBarrier (s : State) (cl i : Nat) : State :=
  match (s.barrierList cl)[i]? with
  | none => s
  | some b =>
    let (b', done) := b.complete 3
    let t := done.foldl (fun s d => s.releaseWaiters b (· == d.1) d.2 b'.beforeDone) (s.modBarrier cl i fun _ => b')
    if b'.gone then t.releaseWaiters b (fun _ => true) (BitVec.ofNat 32 b.members) b'.beforeDone else t

/-- Accesses of a task and its commands that the log keeps. -/
def State.loggedOf (s : State) (t : Task) : List Nat :=
  t.ctxs.flatMap fun c => (s.logged (.context t.core c) ++ s.logged (.channel t.core c)).map (·.id)

/-- A retiring member (R24): departed in the current phase if it has not arrived, and in every later one. -/
def State.departBarriers (s : State) (t : Task) : State :=
  let cl := clusterOf t.core
  (List.range (s.barrierList cl).length).foldl (fun s i =>
    match (s.barrierList cl)[i]? with
    | some b =>
      if b.launch = t.launch ∧ b.group = t.group then
        (s.modBarrier cl i fun b => Barrier.depart
          { b with retired := b.retired ++ [t.rank], left := b.left ++ [(t.rank, s.loggedOf t)] }).completeBarrier cl i
      else s
    | none => s) s

/-- A record is freed when every task of its group has retired (R152). -/
def State.freeBarriers (s : State) (t : Task) : State :=
  let cl := clusterOf t.core
  { s with
    barriers := s.barriers.setIfInBounds cl ((s.barrierList cl).filter fun b =>
      !(b.launch == t.launch && b.group == t.group && b.retired.length == b.size)) }

/-! ### Releasing resources (R23) -/

/-- The number of the free values that a release gives. -/
def State.newGen (s : State) : Nat := s.draw + 1

def State.releaseLocal (s : State) (k : Fin 64) (c : Fin 4) : State :=
  let first := localKey k (128 * c.val * tileBytes) / tileBytes
  State.modCore { s with mem := s.mem.release first 128 s.newGen } k fun co =>
    { co with engineTiles := co.engineTiles.filter fun t => t / 128 != c.val }

def State.releaseTile (s : State) (k : Fin 64) (t : Fin 64) : State :=
  let m := (s.mem.release (accKey k t 0 0 / tileBytes) 12 s.newGen).release (expKey k t 0 / tileBytes) 1 s.newGen
  State.modCore { s with mem := m } k fun co => { co with tiles := co.tiles.set t .free, tileGen := co.tileGen.set t (co.tileGen.get t + 1) }

def State.releaseSlot (s : State) (k : Fin 64) (n : Fin 32) : State :=
  State.modCore { s with mem := s.mem.release (slotKey k n 0 / tileBytes) 12 s.newGen } k fun co =>
    { co with slots := co.slots.set n { Slot.reset with gen := (co.slots.get n).gen + 1 } }

/-- A codebook table given up keeps free contents (R190). -/
def State.releaseTable (s : State) (k : Fin 64) (n : Fin 4) : State :=
  let entries := (List.range 8).map fun i => (s.free (n.val * 8 + i)).truncate 16
  let scale := ((s.free (1000 + n)).truncate 8).toInt
  s.modCore k fun co => { co with tables := co.tables.set n ⟨none, entries, scale, (co.tables.get n).gen + 1⟩ }

/-- A descriptor given up: its tiles are free, with unpredictable contents (R195). -/
def State.releaseSketch (s : State) (k : Fin 64) (n : Fin 16) : State :=
  let s := (List.finRange 64).foldl (fun s t => if (s.core k).tiles.get t = .sketch n.val then s.releaseTile k t else s) s
  s.modCore k fun co =>
    { co with sketches := co.sketches.set n { Sketch.reset with gen := (co.sketches.get n).gen + 1 } }

def Ring.tiles (r : Ring) : List Nat := (List.range r.len).map r.tile

/-- Step 3 of R23: everything the task holds on its core is given up. -/
def State.releaseTask (s : State) (t : Nat) (tk : Task) : State :=
  let k := tk.core
  let s := (List.finRange 64).foldl (fun s i => if (s.core k).tiles.get i = .held t then s.releaseTile k i else s) s
  let s := (List.finRange 32).foldl (fun s i =>
    let sl := (s.core k).slots.get i
    if sl.state ≠ .free ∧ sl.holder = t then s.releaseSlot k i else s) s
  let s := (List.finRange 4).foldl (fun s i =>
    if ((s.core k).tables.get i).holder = some t then s.releaseTable k i else s) s
  let s := (List.finRange 16).foldl (fun s i =>
    if ((s.core k).sketches.get i).holder = some t then s.releaseSketch k i else s) s
  let s := s.modCore k fun co =>
    { co with rings := co.rings.map fun r => if r.holder = some t then Ring.reset else r }
  tk.ctxs.foldl (fun s c => s.releaseLocal k c) s

/-! ### Events and completion (R241, R242) -/

/-- The event table's dword of an index. -/
def State.eventAddr (s : State) (d : Dword) : Nat := s.regs.evbase.toNat + 8 * (d.extractLsb' 0 12).toNat

/-- A wait dword is satisfied. -/
def State.eventReached (s : State) (d : Dword) : Except Stop Bool :=
  if d = 0 then .ok true
  else (hbmRun (s.eventAddr d) 8).map fun a => (d.extractLsb' 12 52).toNat ≤ s.value a 8

/-- A signal raises the event to its value. -/
def State.signal (s : State) (d : Dword) : Except Stop State :=
  if d = 0 then .ok s
  else (hbmRun (s.eventAddr d) 8).map fun a => s.putValue a 8 (max (s.value a 8) (d.extractLsb' 12 52).toNat)

/-- The 32 bytes of a completion record. -/
def State.putCompletion (s : State) (l : Launch) (status cause a : Nat) : State :=
  let s := s.putValue (a + 8) 8 (l.undelivered * 2 ^ 32 + min l.kills 0xFFFFFFFF)
  let s := s.putValue (a + 16) 8 ((l.firstKill.map (·.1.toNat)).getD 0)
  let s := s.putValue (a + 24) 8 s.sclk.toNat
  s.putValue a 8 (2 ^ 63 + cause * 256 + status)

/-- LAUNCH_COMPLETE: the record's fields, DONE with the first dword after the others, then the event, then the
vector. Of a launch whose record the host changed too soon, CREC may lead nowhere: then no record is written (R238; log
entry 80). -/
def State.writeCompletion (s : State) (l : Launch) (status cause : Nat) : Except Stop State :=
  let written : Except Stop State :=
    match hbmRun l.crec.toNat 32 with
    | .ok a => .ok (s.putCompletion l status cause a)
    | .error e => if l.amended then .ok s else .error e
  written.bind fun s => (s.signal l.signal).map fun s =>
    match s.queues[l.queue]? with
    | some q => if q.irq then s.emit (.msix q.vec) else s
    | none => s

/-- Contexts that a launch reserves for messages become unreserved (R15). -/
def State.unreserveLaunch (s : State) (l : Nat) : State :=
  s.foldCtxs fun s k c =>
    if (s.ctx k c).reservedLaunch = some l then
      (s.modCtx k c fun cx => { Context.reset with fi := cx.fi }).modCore k fun co =>
        { co with idleSince := s.sclk.toNat }
    else s

/-- Every task has started and retired, and no message of the launch is under way or in an inbox (R23). A launch that needed
a slot table it has not named starts no further group (log entry 59). -/
def State.launchDone (s : State) (l : Nat) (la : Launch) : Bool :=
  (la.unrouted || la.nextGroup == la.groups) && s.tasks.all (fun t => t.launch != l || t.retired) && s.messages.all (·.launch != l) &&
  allCores.all fun k => (s.core k).inbox.all fun m => m.launch != l

/-- Completes a launch that is done. -/
def State.finishLaunch (s : State) (l : Nat) : Except Stop State :=
  match s.launch l with
  | none => .ok s
  | some la =>
    if la.completed || !s.launchDone l la then .ok s
    else
      let status := if la.reset then 3 else if la.unrouted then 1 else if la.kills = 0 then 0 else 2
      let cause := (la.firstKill.map (·.2)).getD 0
      let s := (s.unreserveLaunch l).modLaunch l fun la => { la with completed := true }
      s.writeCompletion la status cause

/-! ### Retirement (R23) -/

/-- Test after a retirement (R246): Test + floor((t - Test) / 8). -/
def State.estimate (s : State) (l cl t : Nat) : State :=
  let old := (s.estimates.lookup (l, cl)).getD 0
  let new := ((old : Int) + ((t : Int) - old) / 8).toNat
  { s with estimates := ((l, cl), new) :: s.estimates.filter (·.1 != (l, cl)) }

/-- A context of a task that has retired: FREE and unreserved, or DORMANT again for a live launch. -/
def Context.retire (cx : Context) (live : Bool) : Context :=
  match cx.reservedLaunch with
  | some l => { Context.reset with fi := cx.fi, state := if live then .dormant else .free, reservedLaunch := some l }
  | none => { Context.reset with fi := cx.fi }

/-- What the barrier records make of a retirement. A handler is a member of no barrier group and departs none (R20,
log entry 72). -/
def State.leaveBarriers (s : State) (t : Task) : State :=
  if t.handler then s else (s.departBarriers t).freeBarriers t

/-- Cycles that a task has run: those that it has stood saved in a frame are none (R246). -/
def State.ranFor (s : State) (tk : Task) : Nat :=
  (if tk.frame.isSome then tk.savedAt else s.sclk.toNat) - tk.started - tk.away

/-- The contexts that a retiring task gives back: of a saved one those that nobody has taken since. -/
def State.givesBack (s : State) (tk : Task) : List (Fin 4) :=
  if tk.frame.isNone then tk.ctxs
  else tk.ctxs.filter fun c => (s.ctx tk.core c).state == .swapped && (s.ctx tk.core c).task.isNone

/-- TASK_RETIRE: releases, departs, counts a kill, gives the contexts back, and completes the launch if this was its
last task. A saved task has given up what it held. -/
def State.retire (s : State) (t : Nat) : Except Stop State :=
  match s.task t with
  | none => .ok s
  | some tk =>
    let s := (if tk.frame.isNone then s.releaseTask t tk else s).leaveBarriers tk
    let s := s.modTask t fun tk => { tk with retired := true }
    let s := s.modLaunch tk.launch fun l =>
      match tk.killed with
      | some w =>
        { l with
          kills := l.kills + 1
          firstKill := some (match l.firstKill with
            | none => (tk.wkid, w)
            | some (id, 0) => (id, w)
            | some f => f) }
      | none => l
    let s := s.modLaunch tk.launch fun l => { l with made := l.made ++ s.loggedOf tk }
    let s := s.estimate tk.launch (clusterOf tk.core) (s.ranFor tk)
    let live := match s.launch tk.launch with
      | some l => !l.completed
      | none => false
    let s := (s.givesBack tk).foldl (fun s c => s.modCtx tk.core c (·.retire live)) s
    let s := s.modCore tk.core fun co => { co with idleSince := s.sclk.toNat }
    s.finishLaunch tk.launch

/-- A context has nothing left to complete: its counters are zero, its results have landed (R23), and its barrier forms
have been applied. -/
def State.drained (s : State) (k : Fin 64) (c : Fin 4) : Bool :=
  let cx := s.ctx k c
  cx.pbsr == 0 && cx.pbsw == 0 && cx.pbmem == 0 && cx.flight.isEmpty && cx.async.isEmpty &&
  !(s.core k).memq.any (·.ctx == c) && ((s.core k).channels.get c).isEmpty &&
  !s.barq.any fun m => m.core == k && m.ctx == c

/-- Returns a frame to the array (R267). -/
def State.returnFrame (s : State) (f : Nat) : Except Stop State := do
  let n := s.regs.spooln.toNat
  let a ← hbmRun (s.regs.spoolb.toNat + 8 * n) 8
  .ok ((s.putValue a 8 f).modRegs fun r => { r with spooln := BitVec.ofNat 16 (n + 1) })

/-- Ends a step that may meet an address without memory. -/
def State.orFault (s : State) (r : Except Stop State) : Host.Outcome State Fault Refusal :=
  match r with
  | .ok t => .next t
  | .error (.fault f) => .fault f
  | .error (.trap _) => .next s

/-- A saved task that has been killed, whose first context is this one (R327). -/
def State.killedSaved (s : State) (k : Fin 64) (c : Fin 4) : Option Nat :=
  (List.range s.tasks.length).find? fun t =>
    match s.task t with
    | some tk => tk.killed.isSome && tk.frame.isSome && !tk.retired && tk.core == k && tk.ctxs.head? == some c
    | none => false

/-- A killed saved task retires, and its frame goes back. -/
def State.retireSaved (s : State) (t : Nat) : Except Stop State := do
  let s ← s.returnFrame (((s.task t).bind (·.frame)).getD 0)
  let s ← s.retire t
  .ok (s.modTask t fun tk => { tk with frame := none })

/-- An ended context becomes FREE, still reserved to its task; with the last one the task retires. -/
def State.endContext (s : State) (k : Fin 64) (c : Fin 4) : Except Stop State :=
  match (s.ctx k c).task with
  | none => .ok (s.modCtx k c fun cx => { cx with ending := false, state := .free })
  | some t =>
    let s := s.modCtx k c fun cx =>
      { Context.reset with
        fi := cx.fi, reservedTask := cx.reservedTask, reservedLaunch := cx.reservedLaunch, sibling := cx.sibling }
    if allCtxs.any fun d => (s.ctx k d).task = some t then .ok s else s.retire t

/-- CONTEXT_END (R23): an ended context becomes FREE, and with the last one its task retires; or a killed saved task of the
context retires (R242, R327). Among kills of one cycle a task with several contexts has the place of the last one to end, a
saved one that of its first: the model's choice (log entry 91). -/
def execContextEnd (core : Fin 64) (ctx : Fin 4) (s : State) : Host.Outcome State Fault Refusal :=
  match s.killedSaved core ctx with
  | some t => s.orFault (s.retireSaved t)
  | none =>
    if !(s.ctx core ctx).ending || !s.drained core ctx then .next s else s.orFault (s.endContext core ctx)

end Sys2Proof.Machine
end

