-- ==== Sys2Proof/Machine/Control.lean ====
section
/-! DEFINITION. The control forms of R114-R129: transfers, loops, EXIT, QUIET, SPAWN, REP, traps and returns, FENCE,
the system registers; and WAITB with the task barriers (R151-R154). A transfer is noted in the cursor and takes effect
when its bundle completes (R114). -/

namespace Sys2Proof.Machine

open Sys2Proof.Config

/-- NOP (R119). -/
def execNop (s : State) : Host.Outcome State Fault Refusal := .next s

/-! ### Transfers (R114, R115) -/

/-- Notes the transfer of the bundle. -/
def State.transfer (s : State) (x : Xfer) : State := { s with cur := { s.cur with xfer := some x } }

/-- A + a signed word offset. -/
def relative {w : Nat} (s : State) (i : BitVec w) : Dword := s.cur.addr + i.signExtend 64 * 4

/-- The link write of CALL and CALLR: s31 takes the address of the next bundle in memory. -/
def State.linkNext (s : State) : State := s.land (.link s.cur.next) 1

/-- A target whose bits [1:0] are not zero traps ILLEGAL, with the target in TADDR (R254). -/
def aligned4 (a : Dword) : Except Stop Unit := checkAt (a.toNat % 4 = 0) .illegal a

/-- BR (R115). -/
def execBr (i : BitVec 22) (s : State) : Host.Outcome State Fault Refusal :=
  .next (s.transfer { kind := .br, target := relative s i })

/-- BRQ (R115). -/
def execBrq (a : BitVec 6) (t : BitVec 2) (d : BitVec 14) (s : State) : Host.Outcome State Fault Refusal :=
  if predTest t (s.qreg 0 a.toNat) then .next (s.transfer { kind := .brq, target := relative s d }) else .next s

/-- The register jumps, with what they do beside the transfer. -/
def State.jump (s : State) (kind : XferKind) (b : BitVec 6) (t : State) : Host.Outcome State Fault Refusal :=
  let x := s.sreg 0 b.toNat
  s.settle ((aligned4 x).map fun _ => t.transfer { kind := kind, target := x })

/-- JR (R115). -/
def execJr (b : BitVec 6) (s : State) : Host.Outcome State Fault Refusal := s.jump .jr b s

/-- CALL (R115). -/
def execCall (i : BitVec 22) (s : State) : Host.Outcome State Fault Refusal :=
  .next (s.linkNext.transfer { kind := .call, target := relative s i })

/-- CALLR (R115): the target is read at issue. -/
def execCallr (b : BitVec 6) (s : State) : Host.Outcome State Fault Refusal := s.jump .callr b s.linkNext

/-- RET (R115). -/
def execRet (b : BitVec 6) (s : State) : Host.Outcome State Fault Refusal := s.jump .ret b s

/-! ### Loops (R116, R117) -/

/-- The address of the bundle that follows the one at N, whose length is read as a fetch that faults. Where no word of the
eight at N has STOP, the loop slot traps ILLEGAL with TADDR = N: the model's choice (log entry 13). -/
def State.after (s : State) (k : Fin 64) (c : Fin 4) (n : Dword) : Except Stop Dword :=
  match s.fetchBundle k c n with
  | .error e => .error e
  | .ok ws => if stopped ws then .ok (n + BitVec.ofNat 64 (4 * ws.length)) else trapAt .illegal n

/-- LOOP and LOOPI: the tests at the loop slot, then the transfer that pushes the entry or skips the body. -/
def State.openLoop (s : State) (kind : XferKind) (count n : Dword) : Except Stop State :=
  let loops := s.me.loops
  if n.ult s.cur.next || 4 ≤ loops.length || loops.any (·.stop == n) || (loops.head?.map (·.stop)) == some s.cur.addr
  then trapWith .illegal
  else
    let t := s.transfer { kind := kind, target := s.cur.next, count := count, stop := n }
    if count = 0 then (s.after s.cur.core s.cur.ctx n).map fun _ => t else .ok t

/-- LOOP (R117). -/
def execLoop (a : BitVec 6) (i : BitVec 16) (s : State) : Host.Outcome State Fault Refusal :=
  s.settle (s.openLoop .loop (s.sreg 0 a.toNat) (s.cur.addr + i.zeroExtend 64 * 4))

/-- LOOPI (R117). -/
def execLoopi (d : BitVec 6) (n : BitVec 16) (s : State) : Host.Outcome State Fault Refusal :=
  s.settle (s.openLoop .loopi (n.zeroExtend 64) (s.cur.addr + d.zeroExtend 64 * 4))

/-! ### EXIT, QUIET, SPAWN, REP, traps -/

/-- EXIT (R119): noted; the context ends, or in trap mode its task is killed, once every slot has committed. -/
def execExit (s : State) : Host.Outcome State Fault Refusal := .next { s with cur := { s.cur with exit := true } }

/-- A buck or an accord runs on a sketch descriptor that the task holds (R120). -/
def State.sketchBusy (s : State) (k : Fin 64) (t : Option Nat) : Bool :=
  t.isSome && (s.core k).sketches.any fun d => d.holder == t && d.busy.isSome

/-- A buck or an accord that this context issued runs (R209). -/
def State.sketchRuns (s : State) (k : Fin 64) (c : Fin 4) : Bool :=
  (s.core k).sketches.any fun d => d.holder == (s.ctx k c).task && (d.busy.map (·.ctx)) == some c

/-- A quiet bundle of this context would offer its cut (R120). -/
def State.offersCut (s : State) (k : Fin 64) (c : Fin 4) : Bool :=
  let cx := s.ctx k c
  cx.flight.isEmpty && cx.snapshot.isEmpty && cx.held.isEmpty && cx.pbsr == 0 && cx.pbsw == 0 && cx.pbmem == 0 &&
  !s.sketchBusy k cx.task

/-- QUIET (R120): offers the cut, or sets QCOUNT.MISS; a NOP in trap mode. -/
def execQuiet (b : BitVec 6) (_l : BitVec 1) (s : State) : Host.Outcome State Fault Refusal :=
  if s.me.tm then .next s
  else if s.offersCut s.cur.core s.cur.ctx then
    let n := (s.sreg 0 b.toNat).toNat
    let s := s.modMe fun cx => { cx with qcount := 0, lastCut := some n }
    .next { s with cur := { s.cur with cut := true } }
  else .next (s.modMe fun cx => { cx with qmiss := true })

/-- SPAWN (R18, R19, R122): the child starts with the values the registers hold at issue. Of a misaligned entry and a busy
sibling the model takes ILLEGAL first (log entry 73). A kill of the task in the same cycle ends the child with it (R23). -/
def execSpawn (a b : BitVec 6) (t : BitVec 2) (k : BitVec 4) (s : State) : Host.Outcome State Fault Refusal :=
  let entry := s.sreg 0 a.toNat
  s.settle do
    aligned4 entry
    let busy : Except Stop State := trapAt .spawnbusy (t.zeroExtend 64)
    match s.me.task.bind fun i => (s.task i).map fun tk => (i, tk) with
    | none => busy
    | some (i, tk) =>
      match tk.ctxs[t.toNat]?, s.launch tk.launch with
      | some c, some la =>
        if tk.handler || c = s.cur.ctx || (s.ctx s.cur.core c).state ≠ .free then busy
        else if tk.killed.isSome then .ok s
        else
          let args := (List.range (k.toNat + 1)).map fun j =>
            if b.toNat + j = 0 then 0 else (s.me.sregs[b.toNat + j]?).getD 0
          .ok (s.modCtx s.cur.core c fun cx =>
            { cx.start c i la entry (loadRegs args) s.me.wkid with
              bubble := 16, inherited := s.pendingStores s.cur.core s.cur.ctx
              edges := s.launchEdges la ++ s.passedOn s.cur.core s.cur.ctx, view := s.me.view })
      | _, _ => busy

/-- REP (R63, R123): expands the bundle from the repeat buffer and the explicit words that follow the header. -/
def execRep (same : BitVec 8) (inc : BitVec 14) (s : State) : Host.Outcome State Fault Refusal :=
  match expand same inc s.cur.explicit s.me.repbuf with
  | some out => .next { s with cur := { s.cur with expansion := out } }
  | none => outcome ({ s with cur := { s.cur with stopped := true } }.bundleTrap s.cur.core s.cur.ctx .illegal s.cur.addr)

/-- TRAP (R124): noted; the handler is entered with cause SOFT once every slot has committed, in trap mode as a nested
trap (R261). -/
def execTrap (i : BitVec 16) (s : State) : Host.Outcome State Fault Refusal :=
  .next { s with cur := { s.cur with soft := some i } }

/-- RETT (R125, R259): ILLEGAL outside trap mode. -/
def execRett (s : State) : Host.Outcome State Fault Refusal :=
  if s.me.tm then
    outcome ({ s with cur := { s.cur with stopped := true } }.leaveTrap s.cur.core s.cur.ctx)
  else s.settle (trapWith .illegal)

/-! ### WAITB and the task barriers -/

/-- A WAITB names a counter. -/
def waitNames (k : BitVec 2) (n : Nat) : Bool := n < 3 && (k = 3 || k.toNat = n)

/-- Bytes that a command was charged on a counter. -/
def Accepted.charge (a : Accepted) (n : Nat) : Nat :=
  (if a.read = n then a.bytes else 0) + if a.write = n then a.bytes else 0

/-- The names of engine accesses that a WAITB observes (R231): with L = 0 the sides that are charged to its counters, with
L > 0 both sides of every command after which commands were accepted that charged at least L to one of them. -/
def observedCommands (k : BitVec 2) (lim : Nat) : List Accepted → List Nat
  | [] => []
  | x :: later =>
    let seen : List Nat :=
      if lim = 0 then (if waitNames k x.read then [x.id] else []) ++ if waitNames k x.write then [x.id + 1] else []
      else if [0, 1, 2].any fun n => waitNames k n && lim ≤ (later.map (·.charge n)).sum then [x.id, x.id + 1] else []
    seen ++ observedCommands k lim later

/-- Accesses in the log that a WAITB observes (R231): with L = 0 the context's asynchronous ones too. -/
def State.observed (s : State) (k : BitVec 2) (i : BitVec 16) : List Nat :=
  let core := s.cur.core
  let c := s.cur.ctx
  let mine := if i = 0 && waitNames k 2 then (s.logged (.context core c)).filter fun a => !a.act.keys.any chipKey else []
  let named := observedCommands k (i.toNat * 256) s.me.accepted
  (mine ++ (s.logged (.channel core c)).filter fun a => named.contains a.id).map (·.id)

/-- WAITB (R151) holds its bundle before it issues; once it issues, what it observed has been performed and stands before
what follows at rack scope (R231). -/
def execWaitb (k : BitVec 2) (i : BitVec 16) (s : State) : Host.Outcome State Fault Refusal :=
  let seen := s.observed k i
  let t := if seen.isEmpty then s else s.modMe fun cx => { cx with edges := cx.edges ++ seen.map (·, 5) }
  .next (t.look (.context s.cur.core s.cur.ctx))

/-- The counters that a WAITB names are at or below its limit (R151). -/
def Context.waitMet (cx : Context) (k : BitVec 2) (i : BitVec 16) : Bool :=
  let lim := i.toNat * 256
  match k.toNat with
  | 0 => cx.pbsr ≤ lim
  | 1 => cx.pbsw ≤ lim
  | 2 => cx.pbmem ≤ lim
  | _ => cx.pbsr ≤ lim && cx.pbsw ≤ lim && cx.pbmem ≤ lim

/-- The record of the issuer's group, for a name of the launch's set (R153). A message-started task acts as rank 0 of group
0 of its launch: the model's choice (log entry 72). -/
def State.myBarrier (s : State) (n : BitVec 3) : Except Stop (Task × Barrier) :=
  match s.taskOf s.cur.core s.cur.ctx with
  | none => trapWith .illegal
  | some t =>
    match s.barrierOf t n.toNat with
    | none => trapWith .illegal
    | some (_, b) => .ok (t, b)

/-- A form on its way to the barrier unit, which applies it at the end of cycle c + 7 (R153). The unit is no part of the
core: cycles of the hold line count on the way, and stand still for TBARR's result alone, the model's choice (log entry
28). -/
def State.toUnit (s : State) (n : BitVec 3) (op : BarOp) : State :=
  { s with barq := s.barq ++ [⟨s.sclk.toNat + 7, s.cur.core, s.cur.ctx, s.me.task.getD 0, n.toNat, op⟩] }

/-- TBINIT (R154). -/
def execTbinit (n : BitVec 3) (b : BitVec 6) (s : State) : Host.Outcome State Fault Refusal :=
  let (m, t) := s.readS 0 b
  s.settle ((s.myBarrier n).bind fun (_, r) =>
    if m = 0 || 2 ^ r.size ≤ m.toNat then trapWith .illegal else .ok (t.toUnit n (.init m)))

/-- The forms on their way to the record of a name of the task's group, with the ranks that issued them. -/
def State.formsComing (s : State) (t : Task) (n : Nat) : List (Nat × BarOp) :=
  s.barq.filterMap fun m =>
    match s.task m.task with
    | some u => if m.name = n ∧ u.launch = t.launch ∧ u.group = t.group then some (u.rank, m.op) else none
    | none => none

/-- The record refuses an arrival of this rank (R154), as the forms already on their way will leave it. -/
def State.refusesArrival (s : State) (t : Task) (r : Barrier) (n : Nat) : Bool :=
  ((r.afterForms (s.formsComing t n)).arrive t.rank []).isNone

/-- TBARR (R154): the phase arrived in lands at latency 8. -/
def execTbarr (a : BitVec 6) (n : BitVec 3) (s : State) : Host.Outcome State Fault Refusal :=
  s.settle ((s.myBarrier n).bind fun (t, r) =>
    if s.refusesArrival t r n.toNat then trapWith .illegal
    else
      (s.writeS a 0 8).map fun _ => (s.toUnit n (.arrive s.nextId)).land (.await a.toNat) 8)

/-- TBWAIT (R154): the context is WAITING until the unit releases it. -/
def execTbwait (a b : BitVec 6) (n : BitVec 3) (s : State) : Host.Outcome State Fault Refusal :=
  let (p, t) := s.readS 0 b
  s.settle ((s.myBarrier n).bind fun _ =>
    (s.writeS a 0 1).map fun _ =>
      ((t.toUnit n (.wait (p.truncate 32))).modMe fun cx =>
        { cx with
          state := .waiting, wait := some (.tbwait a.toNat n.toNat (p.truncate 32) false), waitId := s.nextId
          waitPassed := false, bubble := 8 }).fresh)

/-- FENCE (R126, R227): the accesses before it, by class, for those that follow; claims and objections that have not left
count as stores (R222). A scope of the context alone preserves nothing that coherence does not (R228). One that orders
loads before loads and before stores, at a scope that contains every member of the group, is what a reader of an outcome
needs (R235). -/
def execFence (p : BitVec 3) (m : BitVec 4) (s : State) : Host.Outcome State Fault Refusal :=
  if p = 0 then .next s
  else
    let before := s.earlier s.cur.core s.cur.ctx
    let f : Fence := ⟨m, p, (before.filter (·.act.isLoad)).map (·.id), (before.filter (·.act.isStore)).map (·.id)⟩
    let serves : Bool := f.orders true false true false && f.orders true false false true
    .next (s.modMe fun cx =>
      { cx with fences := cx.fences ++ [f], claimed := if serves && cx.claimed ≤ p.toNat then 0 else cx.claimed })

/-! ### System registers (R127-R129, R255) -/

/-- TSTAT (R255). -/
def Context.tstat (cx : Context) : Dword :=
  BitVec.ofBool cx.tm ++ BitVec.ofBool cx.xfer ++ 0#6 ++
    BitVec.ofNat 8 (if cx.tm then min cx.snapshot.length 192 else 0) ++ 0#38 ++ cx.blk ++ 0#5 ++ cx.resume

/-- QCOUNT (R129). -/
def Context.qcountReg (cx : Context) : Dword := BitVec.ofBool cx.qmiss ++ 0#31 ++ cx.qcount

/-- A system register as SYSRD reads it; NFC counters stand as before the bundle (R49). -/
def State.sysRead (s : State) (n : Nat) : Dword :=
  let cx := s.me
  match n with
  | 0x00 => cx.tstat
  | 0x01 => cx.tcause.zeroExtend 64
  | 0x02 => cx.taddr
  | 0x03 => cx.tepc
  | 0x04 => cx.tvec
  | 0x05 => cx.tsp
  | 0x06 => cx.ncause.zeroExtend 64
  | 0x10 => cx.qbound.zeroExtend 64
  | 0x11 => cx.qcountReg
  | 0x20 => cx.wkid
  | 0x21 => cx.wkfld
  | 0x22 => BitVec.ofNat 64 s.cur.ctx
  | 0x23 => BitVec.ofNat 64 s.cur.core
  | 0x24 => BitVec.ofNat 64 (clusterOf s.cur.core)
  | 0x25 => s.rank.zeroExtend 64
  | 0x26 => cx.bkey.zeroExtend 64
  | 0x40 => BitVec.ofNat 64 (cx.pbsr % 2 ^ 40)
  | 0x41 => BitVec.ofNat 64 (cx.pbsw % 2 ^ 40)
  | 0x42 => BitVec.ofNat 64 (cx.pbmem % 2 ^ 40)
  | 0x50 => s.sclk
  | 0x51 => s.myCore.holdcy
  | 0x60 => s.regs.bwin.zeroExtend 64
  | 0x70 => s.regs.mthr.zeroExtend 64
  | n =>
    if 0x30 ≤ n && n < 0x40 then ((s.cur.nfc[n - 0x30]?).getD 0).zeroExtend 64
    else if 0x68 ≤ n && n < 0x70 then (s.regs.bgrp[n - 0x68]?).getD 0
    else 0

/-- A write in trap mode to a register that has writable fields there (R129, R255); none for the others. -/
def Context.trapWrite (cx : Context) (n : Nat) (v : Dword) : Option Context :=
  match n with
  | 0x00 => some { cx with
      xfer := v.getLsbD 62, blk := v.extractLsb' 8 2, resume := v.extractLsb' 0 3
      pending := if v.getLsbD 62 then cx.pending else none }
  | 0x01 => some { cx with tcause := v.truncate 8 }
  | 0x02 => some { cx with taddr := v }
  | 0x03 => some { cx with tepc := v &&& ~~~3 }
  | 0x04 => some { cx with tvec := v &&& ~~~3 }
  | 0x05 => some { cx with tsp := v &&& ~~~63 }
  | 0x06 => some { cx with ncause := v.truncate 8 }
  | 0x10 => some { cx with qbound := v.truncate 32 }
  | 0x11 => some { cx with qcount := v.truncate 32, qmiss := cx.qmiss && !v.getLsbD 63 }
  | _ => none

/-- SYSRD (R127). -/
def execSysrd (a : BitVec 6) (n : BitVec 8) (s : State) : Host.Outcome State Fault Refusal :=
  s.settle (s.writeS a (s.sysRead n.toNat) 1)

/-- SYSWR (R127): a register without a writable field in the present mode traps PERM. An NFC increment of an earlier bundle
that lands at the end of the same cycle is added to the value written: the model's choice (log entry 74). -/
def execSyswr (a : BitVec 6) (n : BitVec 8) (s : State) : Host.Outcome State Fault Refusal :=
  let (v, t) := s.readS 0 a
  let k := n.toNat
  if 0x30 ≤ k && k < 0x40 then
    .next (t.modMe fun cx => { cx with nfc := cx.nfc.setIfInBounds (k - 0x30) (v.truncate 32) })
  else
    match if s.me.tm then t.me.trapWrite k v else none with
    | some cx => .next (t.modMe fun _ => cx)
    | none => s.settle (trapWith .perm)

end Sys2Proof.Machine
end

