-- ==== Sys2Proof/Machine/Memory.lean ====
section
/-! DEFINITION. The loads, stores, masked and transposing forms, gathers, atomics and reductions of the M unit
(R130-R145). Traps are tested in the order of R133: FORMAT, ILLEGAL, then those of the address. -/

namespace Sys2Proof.Machine

open Sys2Proof.Config

/-- The keys of an access by the issuing context. -/
def State.myAccess (s : State) (right : Right) (base : Nat) (as : List Nat) : Except Stop (List Nat) :=
  s.access s.cur.core s.cur.ctx right base as

/-- sB + D * u (R134). -/
def State.address (s : State) (b : BitVec 6) (d : BitVec 10) (u : Nat) : Dword :=
  s.sreg 0 b.toNat + d.signExtend 64 * BitVec.ofNat 64 u

/-- A misaligned address traps ILLEGAL, with the address in TADDR (R133, R135). -/
def alignedTo (n : Nat) (a : Dword) : Except Stop Unit := checkAt (a.toNat % n = 0) .illegal a

/-! ### Scalar loads and stores (R135, R145) -/

/-- A load of n bytes at an address. -/
def State.loadScalar (s : State) (a : BitVec 6) (addr : Dword) (n : Nat) (signed : Bool) (m : Manner := {}) :
    Except Stop State := do
  alignedTo n addr
  let as := addrRun addr.toNat n
  let keys ← s.myAccess .read addr.toNat as
  .ok (s.issueLoad as keys (.scalar a.toNat signed) n 5 22 m)

/-- A store of the low n bytes of a scalar source, which may pop an input FIFO. -/
def State.storeScalar (s : State) (a : BitVec 6) (addr : Dword) (n : Nat) (m : Manner := {}) : Except Stop State := do
  let (v, t) := s.readS 2 a
  alignedTo n addr
  let as := addrRun addr.toNat n
  let keys ← s.myAccess .write addr.toNat as
  .ok (t.issueStore as keys (leBytes n v.toNat) n n m)

/-- LDB (R135). -/
def execLdb (a b : BitVec 6) (d : BitVec 10) (s : State) : Host.Outcome State Fault Refusal :=
  s.settle (s.loadScalar a (s.address b d 1) 1 true)

/-- LDBZ (R135). -/
def execLdbz (a b : BitVec 6) (d : BitVec 10) (s : State) : Host.Outcome State Fault Refusal :=
  s.settle (s.loadScalar a (s.address b d 1) 1 false)

/-- LDH (R135). -/
def execLdh (a b : BitVec 6) (d : BitVec 10) (s : State) : Host.Outcome State Fault Refusal :=
  s.settle (s.loadScalar a (s.address b d 2) 2 true)

/-- LDHZ (R135). -/
def execLdhz (a b : BitVec 6) (d : BitVec 10) (s : State) : Host.Outcome State Fault Refusal :=
  s.settle (s.loadScalar a (s.address b d 2) 2 false)

/-- LDW (R135). -/
def execLdw (a b : BitVec 6) (d : BitVec 10) (s : State) : Host.Outcome State Fault Refusal :=
  s.settle (s.loadScalar a (s.address b d 4) 4 true)

/-- LDWZ (R135). -/
def execLdwz (a b : BitVec 6) (d : BitVec 10) (s : State) : Host.Outcome State Fault Refusal :=
  s.settle (s.loadScalar a (s.address b d 4) 4 false)

/-- LDD (R135). -/
def execLdd (a b : BitVec 6) (d : BitVec 10) (s : State) : Host.Outcome State Fault Refusal :=
  s.settle (s.loadScalar a (s.address b d 8) 8 false)

/-- STB (R135). -/
def execStb (a b : BitVec 6) (d : BitVec 10) (s : State) : Host.Outcome State Fault Refusal :=
  s.settle (s.storeScalar a (s.address b d 1) 1)

/-- STH (R135). -/
def execSth (a b : BitVec 6) (d : BitVec 10) (s : State) : Host.Outcome State Fault Refusal :=
  s.settle (s.storeScalar a (s.address b d 2) 2)

/-- STW (R135). -/
def execStw (a b : BitVec 6) (d : BitVec 10) (s : State) : Host.Outcome State Fault Refusal :=
  s.settle (s.storeScalar a (s.address b d 4) 4)

/-- STD (R135). -/
def execStd (a b : BitVec 6) (d : BitVec 10) (s : State) : Host.Outcome State Fault Refusal :=
  s.settle (s.storeScalar a (s.address b d 8) 8)

/-- Bytes of the word that a W field selects (R143). -/
def wordBytes (w : BitVec 1) : Nat := if w = 1 then 4 else 8

/-- LDAQ (R145). -/
def execLdaq (a b : BitVec 6) (w : BitVec 1) (s : State) : Host.Outcome State Fault Refusal :=
  s.settle (s.loadScalar a (s.sreg 0 b.toNat) (wordBytes w) false { acquire := true })

/-- STRL (R145). -/
def execStrl (a b : BitVec 6) (w : BitVec 1) (s : State) : Host.Outcome State Fault Refusal :=
  s.settle (s.storeScalar a (s.sreg 0 b.toNat) (wordBytes w) { releases := true })

/-! ### Vector loads and stores (R136-R139) -/

/-- The alignment of a vector access under a tag (R137). -/
def vecAlign (tag : Half) : Nat := max 1 (widthOf (tagCode tag) / 8)

/-- LDV (R137). -/
def execLdv (a b f : BitVec 6) (k : BitVec 4) (s : State) : Host.Outcome State Fault Refusal :=
  let tag := mkTag f.toNat k.toInt
  let addr := s.sreg 0 b.toNat
  s.settle do
    checkAt (tagValid tag && tagCode tag != 0x0F) .format addr
    alignedTo (vecAlign tag) addr
    let as := addrRun addr.toNat (imageSize tag)
    let keys ← s.myAccess .read addr.toNat as
    .ok (s.issueLoad as keys (.vector a.toNat tag) (imageSize tag) 5 22)

/-- A vector source of the M unit: an invalid tag traps FORMAT with the address in TADDR. -/
def State.readVAt (s : State) (pos : Nat) (f : BitVec 6) (addr : Dword) : Except Stop VReg :=
  if tagValid (s.vreg pos f.toNat).tag then .ok (s.vreg pos f.toNat) else trapAt .format addr

/-- Bytes of a unit of a register's image (R223). -/
def imageUnit (tag : Half) : Nat := (ReadShape.vector 0 tag).unit 0

/-- A WINDOW of the access by the issuing context, which stands before every PERM (R133). -/
def State.windowFirst (s : State) (right : Right) (base : Nat) (as : List Nat) : Except Stop Unit :=
  match s.myAccess right base as with
  | .error (.trap t) => if t.cause = .window then .error (.trap t) else .ok ()
  | _ => .ok ()

/-- STV (R137): of a register, or of what a consumer head holds. A head's PERM comes after the ILLEGAL and the WINDOW
of the destination (R133), both by the ring's TAG. -/
def execStv (a b : BitVec 6) (d : BitVec 10) (s : State) : Host.Outcome State Fault Refusal :=
  let addr := s.address b d 64
  s.settle do
    let tag ← if a.toNat < 32 then (s.readVAt 2 a addr).map (·.tag) else .ok (s.ring (a.toNat - 32)).tag
    alignedTo (vecAlign tag) addr
    let as := addrRun addr.toNat (imageSize tag)
    s.windowFirst .write addr.toNat as
    let (v, t) ← if a.toNat < 32 then (s.readVAt 2 a addr).map fun v => (some v, s) else s.readVAny 2 a
    let keys ← s.myAccess .write addr.toNat as
    match v with
    | some v => .ok (t.issueStore as keys v.image (imageUnit v.tag) (imageSize v.tag))
    | none => .ok t

/-- STVB (R138): n bytes of the image from byte f on, at any alignment. -/
def execStvb (a b c : BitVec 6) (s : State) : Host.Outcome State Fault Refusal :=
  let addr := s.sreg 0 b.toNat
  let x := s.sreg 1 c.toNat
  let f := bits x 7 0
  let n := bits x 15 8 + 1
  s.settle do
    let v ← s.readVAt 2 a addr
    checkAt (f + n ≤ imageSize v.tag) .illegal addr
    let as := addrRun addr.toNat n
    let keys ← s.myAccess .write addr.toNat as
    .ok (s.issueStore as keys ((v.image.drop f).take n) 1 n)

/-- A register with an 8-, 16- or 32-bit code (R33). -/
def State.readWhole (s : State) (pos : Nat) (f : BitVec 6) (addr : Dword) : Except Stop VReg := do
  let v ← s.readVAt pos f addr
  checkAt (codeWhole (tagCode v.tag)) .format addr
  .ok v

/-- Lanes set in a mask. -/
def lanesIn (m : Dword) : List (Fin 64) := (List.finRange 64).filter fun i => m.getLsbD i

/-- GSTV (R139): the active elements, scrubbed and counted with `.g`. -/
def execGstv (a : BitVec 6) (g : BitVec 1) (b : BitVec 5) (c : BitVec 6) (n : BitVec 4) (s : State) :
    Host.Outcome State Fault Refusal :=
  let addr := s.sreg 0 b.toNat
  s.settle do
    let v ← s.readWhole 2 a addr
    let w := widthOf (tagCode v.tag) / 8
    alignedTo w addr
    let act := lanesIn (s.qreg 1 c.toNat)
    let scrub (i : Fin 64) : Bool := g = 1 && isNonFinite v.tag (elem (8 * w) (v.lanes.get i))
    let as := act.flatMap fun i => addrRun (addr.toNat + i.val * w) w
    let bs := act.flatMap fun i => leBytes w (if scrub i then zeroPattern else elem (8 * w) (v.lanes.get i))
    let t ← if act.isEmpty then .ok s
      else (s.myAccess .write addr.toNat as).map fun keys => s.issueStore as keys bs w (act.length * w)
    .ok (if g = 1 then t.land (.nfc n.toNat (act.filter scrub).length) 3 else t)

/-! ### The holds of R89 -/

/-- H: the cycles that an access of the landing holds the core for, by the lines its bytes touch in each bank. -/
def bankHold (keys : List Nat) : Nat :=
  let lines := (keys.map fun k => (k - landingBase) / 64).eraseDups
  let bank (l : Nat) : Nat := l / 49152
  (lines.map fun l => ceilDiv (lines.filter fun m => bank m == bank l).length 2 - 1).foldl max 0

/-- Raises the hold line from the next cycle on. -/
def State.holdFor (s : State) (h : Nat) : State := s.modMyCore fun co => { co with holdLeft := co.holdLeft + h }

/-- The hold of GATH, SCAT or LDVT, which the own landing alone makes. -/
def State.holdForBanks (s : State) (base : Dword) (keys : List Nat) : State :=
  if rangeOf s.cur.core base.toNat = .own then s.holdFor (bankHold keys) else s

/-! ### Transposing load (R140) -/

/-- The bytes of block j: rows 16j to 16j + 15, four elements each. -/
def blockBytes (base stride : Dword) (w j : Nat) : List Nat :=
  (List.range 16).flatMap fun i => addrRun (base + BitVec.ofNat 64 (16 * j + i) * stride).toNat (4 * w)

/-- The bytes of column c of the rows from n on. -/
def columnBytes (base stride : Dword) (w n c : Nat) : List Nat :=
  ((List.range 64).drop n).flatMap fun i => addrRun (base + BitVec.ofNat 64 i * stride + BitVec.ofNat 64 (c * w)).toNat w

/-- Issues block j of main memory, or says why not. -/
def State.issueBlock (s : State) (a : BitVec 6) (tag : Half) (base stride : Dword) (w j : Nat) : Except Stop State :=
  let as := blockBytes base stride w j
  (s.myAccess .read base.toNat as).map fun keys => s.issueRead as keys (.block a.toNat tag w j) (64 * w) 9 26

/-- Blocks of main memory one after another: at the first that faults, those before it stand issued and the slot traps
with that block in TSTAT.BLK. The blocks issued, whose bytes are `done`, count as one access (R271). -/
def State.issueBlocks (s : State) (a : BitVec 6) (tag : Half) (base stride : Dword) (w : Nat) (done : List Nat) :
    List Nat → Host.Outcome State Fault Refusal
  | [] => .next (s.counted done)
  | j :: js =>
    match s.issueBlock a tag base stride w j with
    | .ok t => t.issueBlocks a tag base stride w (done ++ blockBytes base stride w j) js
    | .error (.fault f) => .fault f
    | .error (.trap t) => (s.counted done).settle (.error (.trap { t with blk := BitVec.ofNat 2 j }))

/-- On local memory and the own landing, whose blocks have all been checked: one access, with one result for each register
(R256). -/
def State.issueColumns (s : State) (a : BitVec 6) (tag : Half) (base stride : Dword) (w first : Nat) : State :=
  let n := 16 * first
  let r := rangeOf s.cur.core base.toNat
  let as := (List.range 4).flatMap (columnBytes base stride w n)
  let s := s.issueOnChip s.cur.core s.cur.ctx r ((minimum as).getD 0)
    (.read (as.map (s.keyOf s.cur.core s.cur.ctx)) (.columns a.toNat tag w n)) {}
  (List.range 4).foldl (fun s c =>
    s.land (.load (.lanes (a.toNat + c) tag w ((List.range 64).drop n))) (if r = .loc then 9 else 26)) s

/-- LDVT (R140). TADDR of its ILLEGAL is sB also where the stride alone is at fault, which is no address of a row: the model's
choice (log entry 67). -/
def execLdvt (a b c : BitVec 6) (s : State) : Host.Outcome State Fault Refusal :=
  let base := s.sreg 0 b.toNat
  let stride := s.sreg 1 c.toNat
  let first := if s.me.tm then 0 else s.me.blk.toNat
  let pre : Except Stop VReg := do
    let v ← s.readWhole 2 a base
    alignedTo (widthOf (tagCode v.tag) / 8) base
    checkAt (stride.toNat % (widthOf (tagCode v.tag) / 8) = 0) .illegal base
    .ok v
  match pre with
  | .error e => s.settle (.error e)
  | .ok v =>
    let w := widthOf (tagCode v.tag) / 8
    let blocks := (List.range 4).drop first
    if rangeOf s.cur.core base.toNat = .main then s.issueBlocks a v.tag base stride w [] blocks
    else
      let as := (List.range 4).flatMap (blockBytes base stride w)
      match s.myAccess .read base.toNat as with
      | .error e => s.settle (.error e)
      | .ok keys => .next ((s.holdForBanks base keys).issueColumns a v.tag base stride w first)

/-! ### Gather and scatter (R141) -/

/-- The lanes and addresses of a gather or scatter; a misaligned one traps ILLEGAL at the lowest such lane. -/
def State.laneAddresses (s : State) (base : Dword) (c : BitVec 6) (m : BitVec 4) (w : Nat) :
    Except Stop (List (Fin 64 × Dword)) := do
  let idx ← s.readVAt 1 c base
  checkAt (idx.tag == mkTag 0x06 0 || idx.tag == mkTag 0x0A 0) .format base
  let lanes := (lanesIn (s.mask m.toNat)).map fun i =>
    (i, base + (if tagCode idx.tag = 0x06 then (idx.lanes.get i).signExtend 64 else (idx.lanes.get i).zeroExtend 64))
  match lanes.find? fun l => l.2.toNat % w != 0 with
  | some l => trapAt .illegal l.2
  | none => .ok lanes

/-- GATH (R141). -/
def execGath (a b c : BitVec 6) (m : BitVec 4) (s : State) : Host.Outcome State Fault Refusal :=
  let base := s.sreg 0 b.toNat
  s.settle do
    let v ← s.readWhole 2 a base
    let w := widthOf (tagCode v.tag) / 8
    let lanes ← s.laneAddresses base c m w
    if lanes.isEmpty then .ok s
    else
      let as := lanes.flatMap fun l => addrRun l.2.toNat w
      let keys ← s.myAccess .read base.toNat as
      .ok ((s.issueLoad as keys (.lanes a.toNat v.tag w (lanes.map (·.1.val))) (lanes.length * w) 6 22).holdForBanks
        base keys)

/-- Lanes of a scatter that no higher lane overlaps. -/
def standing : List (Fin 64 × Dword) → List (Fin 64 × Dword)
  | [] => []
  | l :: ls => if ls.any (·.2 == l.2) then standing ls else l :: standing ls

/-- SCAT (R141): where lanes overlap, the higher one stands; every active lane is charged (R132). -/
def execScat (a b c : BitVec 6) (m : BitVec 4) (s : State) : Host.Outcome State Fault Refusal :=
  let base := s.sreg 0 b.toNat
  s.settle do
    let v ← s.readWhole 2 a base
    let w := widthOf (tagCode v.tag) / 8
    let lanes ← s.laneAddresses base c m w
    if lanes.isEmpty then .ok s
    else
      let all ← s.myAccess .write base.toNat (lanes.flatMap fun l => addrRun l.2.toNat w)
      let last := standing lanes
      let as := last.flatMap fun l => addrRun l.2.toNat w
      let bs := last.flatMap fun l => leBytes w (elem (8 * w) (v.lanes.get l.1))
      .ok ((s.issueStore as (as.map (s.keyOf s.cur.core s.cur.ctx)) bs w (lanes.length * w)).holdForBanks base all)

/-! ### Masks (R142) -/

/-- STMSK (R142). -/
def execStmsk (a b : BitVec 6) (d : BitVec 10) (s : State) : Host.Outcome State Fault Refusal :=
  let addr := s.address b d 8
  s.settle do
    alignedTo 8 addr
    let as := addrRun addr.toNat 8
    let keys ← s.myAccess .write addr.toNat as
    .ok (s.issueStore as keys (leBytes 8 (s.qreg 2 a.toNat).toNat) 1 8)

/-- LDMSK (R142). -/
def execLdmsk (a b : BitVec 6) (d : BitVec 10) (s : State) : Host.Outcome State Fault Refusal :=
  let addr := s.address b d 8
  s.settle do
    alignedTo 8 addr
    let as := addrRun addr.toNat 8
    let keys ← s.myAccess .read addr.toNat as
    .ok (s.issueLoad as keys (.mask a.toNat) 8 5 22)

/-! ### Atomics and reductions (R143, R144) -/

/-- An atomic on a naturally aligned word (R143). -/
def State.atomic (s : State) (a b c : BitVec 6) (r q w : BitVec 1) (op : AtomOp) : Host.Outcome State Fault Refusal :=
  let addr := s.sreg 0 b.toNat
  let n := wordBytes w
  s.settle do
    alignedTo n addr
    let as := addrRun addr.toNat n
    let keys ← s.myAccess .write addr.toNat as
    .ok (s.issueAtomic as keys op (s.sreg 1 c.toNat) a.toNat { acquire := q = 1, releases := r = 1 })

/-- AADD (R143). -/
def execAadd (a b c : BitVec 6) (r q w : BitVec 1) (s : State) : Host.Outcome State Fault Refusal :=
  s.atomic a b c r q w .add

/-- AMIN (R143). -/
def execAmin (a b c : BitVec 6) (v r q w : BitVec 1) (s : State) : Host.Outcome State Fault Refusal :=
  s.atomic a b c r q w (.min (v = 1))

/-- AMAX (R143). -/
def execAmax (a b c : BitVec 6) (v r q w : BitVec 1) (s : State) : Host.Outcome State Fault Refusal :=
  s.atomic a b c r q w (.max (v = 1))

/-- AAND (R143). -/
def execAand (a b c : BitVec 6) (r q w : BitVec 1) (s : State) : Host.Outcome State Fault Refusal :=
  s.atomic a b c r q w .and

/-- AOR (R143). -/
def execAor (a b c : BitVec 6) (r q w : BitVec 1) (s : State) : Host.Outcome State Fault Refusal :=
  s.atomic a b c r q w .or

/-- AXOR (R143). -/
def execAxor (a b c : BitVec 6) (r q w : BitVec 1) (s : State) : Host.Outcome State Fault Refusal :=
  s.atomic a b c r q w .xor

/-- ASWP (R143). -/
def execAswp (a b c : BitVec 6) (r q w : BitVec 1) (s : State) : Host.Outcome State Fault Refusal :=
  s.atomic a b c r q w .swap

/-- ACAS (R143): the expected word is sA at issue. -/
def execAcas (a b c : BitVec 6) (r q w : BitVec 1) (s : State) : Host.Outcome State Fault Refusal :=
  s.atomic a b c r q w (.cas (s.sreg 2 a.toNat))

/-- AFADD (R143): 32-bit words only. -/
def execAfadd (a b c : BitVec 6) (r q : BitVec 1) (s : State) : Host.Outcome State Fault Refusal :=
  s.atomic a b c r q 1 .fadd

/-- A window access (R303): the enabled window that a device and a device address lie in. -/
def RedWindow.holds (w : RedWindow) (rank : BitVec 7) (a : Nat) : Bool :=
  w.dword1.getLsbD 63 && w.dword1.extractLsb' 16 7 == rank &&
  (w.dword0.toNat / 4096 * 4096 ≤ a && a < w.dword0.toNat / 4096 * 4096 + bits w.dword1 15 0 * 4096)

def State.windowAt (s : State) (rank : BitVec 7) (a : Nat) : Option Nat :=
  s.regs.rdwin.toList.findIdx? (·.holds rank a)

/-- ARED (R144): after a WINDOW, a word that is misaligned or lies in no reduction window traps PERM; a PAGE comes last
(R133). The word is named by its key, which tells the exposed space from HBM. -/
def execAred (a b c : BitVec 6) (o : BitVec 2) (s : State) : Host.Outcome State Fault Refusal :=
  let addr := s.sreg 0 b.toNat
  let n := if o = 2 then 8 else 4
  s.settle do
    let as := addrRun addr.toNat n
    s.windowFirst .write addr.toNat as
    checkAt (addr.toNat % n = 0) .perm addr
    match s.entryOf s.cur.core s.cur.ctx addr.toNat with
    | none => trapAt .perm addr
    | some e =>
      let (rank, d) := e.place addr.toNat
      match s.windowAt rank d with
      | none => trapAt .perm addr
      | some w =>
        let _ ← s.myAccess .write addr.toNat as
        let act := MemAct.contribute w (if e.comp then exposedBase + d else d) o ((s.sreg 2 a.toNat).truncate 32)
          (s.sreg 1 c.toNat)
        .ok ((s.issueMain s.cur.core s.cur.ctx as act n n {}).countAccess s.cur.core s.cur.ctx as)

end Sys2Proof.Machine
end

