-- ==== Sys2Proof/Machine/Reduce.lean ====
section
/-! DEFINITION. Device groups, and the rounds of the reduction windows (R303-R306, R315). -/

namespace Sys2Proof.Machine

open Sys2Proof.Config

/-! ### Groups (R306) -/

/-- COUNT is 1 to 128, STRIDE is not 0, and the members are distinct. -/
def groupValid (g : Dword) : Bool :=
  let ms := groupMembers g
  1 ≤ ms.length && ms.length ≤ 128 && bits g 14 8 != 0 && ms.eraseDups.length == ms.length

/-! ### Rounds (R304) -/

def State.setExpected (s : State) (w a : Nat) (n : Word) : State :=
  let rest := s.expected.filter (·.1 != (w, a))
  { s with expected := if n = 0 then rest else ((w, a), n) :: rest }

/-- Where a word of the exposed space and one of HBM stand in a contribution's address: bit 63 tells them apart (log
entry 44). -/
def windowKey (a : Dword) : Nat := if a.getLsbD 63 then exposedBase + bits a 62 0 else a.toNat
def windowName (key : Nat) : Dword :=
  if isExposed key then BitVec.ofNat 64 (2 ^ 63 + (key - exposedBase)) else BitVec.ofNat 64 key

/-- No memory of the device stands behind a word. -/
def State.wordAbsent (s : State) (key n : Nat) : Bool :=
  if isExposed key then s.regs.exposedBytes < key - exposedBase + n else hbmBytes < key + n

/-- Writes the result of a round, read and written at once; `id` names it in the queue of writes that wait. What finds no
sectors is given back. -/
def State.writeRound (s : State) (id : Nat) (r : Round) : State × List (Nat × Byte) :=
  if r.contributions.isEmpty || s.wordAbsent r.addr (redBytes r.op) then (s, [])
  else
    let new := s.roundCells r
    if s.poisonMet (.write new) then (s.countError, [])
    else
      match s.storeCells id new with
      | (t, []) => (t.note .station (r.access id), [])
      | p => p

/-- The result of a round has been written, or there is none: the round closes and the next one is expected. -/
def State.closeRound (s : State) (r : Round) : State :=
  State.setExpected { s with rounds := s.rounds.filter (· != r) } r.win r.addr (r.number + 1)

/-- The result of this word's round waits for sectors (R287). -/
def State.roundWaits (s : State) (w a : Nat) : Bool := s.waitingWrites.any (·.writer == .station w a)

/-- Completes a round: its word is written once, and the next round is expected. A result that finds no sectors waits
with no bound, and the round stays open (R234, R287). -/
def State.completeRound (s : State) (r : Round) : State :=
  if s.roundWaits r.win r.addr then s
  else if s.blockedOnSectors s.nextId [r.addr] && !r.contributions.isEmpty then
    s.enqueueAll (.station r.win r.addr) none ((List.range (redBytes r.op)).map fun i => (r.addr + i, (0 : Byte)))
  else
    match s.writeRound s.nextId r with
    | (t, []) => t.closeRound r
    | (_, rest) => s.enqueueAll (.station r.win r.addr) none rest

/-- Nothing in the order of accesses stands against the write of a round's result (R229, R236). -/
def State.mayWrite (s : State) (r : Round) : Bool := s.allows .station (r.access s.nextId)

/-- Completes the rounds of a word that every member has contributed to, in ascending order; none while a member is
lost. -/
def State.completeRounds (s : State) (w a : Nat) : Nat → State
  | 0 => s
  | fuel + 1 =>
    match s.openRound w a with
    | none => s
    | some r =>
      if !s.roundWaits w a && s.mayWrite r &&
          (groupMembers (s.rdGroup w)).all fun m => (r.contributions.lookup m).isSome && !s.lostRanks.contains m then
        (s.completeRound r).completeRounds w a fuel
      else s

/-- A station accepts a contribution; `ids` names what its result follows: this device's own contribution, or what the log keeps
of the peer (R236). A second one of a device to an open round is
discarded and counted, and so is, uncounted, one to a round that has completed. -/
def State.contribute (s : State) (w a : Nat) (op : BitVec 2) (number : Word) (rank : BitVec 7) (v : Dword)
    (ids : List Nat := []) : State :=
  let e := s.expectedRound w a
  if number != e && 2 ^ 31 ≤ (number - e).toNat then s
  else
    let mine (r : Round) : Bool := r.win == w && r.addr == a && r.number == number
    let s : State :=
      match s.rounds.find? mine with
      | none => { s with rounds := s.rounds ++ [⟨w, a, op, number, [(rank, v)], ids, false⟩] }
      | some r =>
        if (r.contributions.lookup rank).isSome then
          s.modRegs fun r => { r with rddup := if r.rddup = 0xFFFF then r.rddup else r.rddup + 1 }
        else
          { s with rounds := s.rounds.map fun r =>
              if mine r then { r with contributions := r.contributions ++ [(rank, v)], ids := r.ids ++ ids } else r }
    s.completeRounds w a (s.rounds.length + 1)

/-- REDUCTION_CONTRIBUTION (R304): a contribution reaches this device's station, which is the home of its window. -/
def execReductionContribution (win : Fin 8) (addr : Dword) (op : BitVec 2) (round : Word) (rank : BitVec 7)
    (value : Dword) (s : State) : Host.Outcome State Fault Refusal :=
  if (s.rdWindow win).holds s.rank (bits addr 62 0) then
    .next ((s.takeFlit (s.linkFrom rank)).contribute win (windowKey addr) op round rank value
      ((s.logged (.peer rank)).map (·.id)))
  else .next s

/-- RDCLOSE (R315): the expected round of every word of the window that holds any contribution, of that round or a later
one, is completed over what has come; a round with none leaves its word. It waits while R229 holds one of the results
back. -/
def execRdclose (value : Dword) (s : State) : Host.Outcome State Fault Refusal :=
  let w := bits value 2 0
  let words := ((s.rounds.filter (·.win == w)).map (·.addr)).eraseDups
  let round (s : State) (a : Nat) : Round := (s.openRound w a).getD ⟨w, a, 0, s.expectedRound w a, [], [], false⟩
  if words.all fun a => s.mayWrite (round s a) then
    .next (words.foldl (fun s a => (s.completeRound (round s a)).completeRounds w a (s.rounds.length + 1)) s)
  else .next { s with late := s.late ++ [.rdclose value] }

end Sys2Proof.Machine
end

