-- ==== Sys2Proof/Machine/Blaze.lean ====
section
/-! DEFINITION. The blaze plane: claims, objections, decisions and loss (R305-R315). -/

namespace Sys2Proof.Machine

open Sys2Proof.Config

/-- B(g) for a claimant (R305). -/
def planeBound (g : Dword) (claimant : BitVec 7) : Nat := if (groupMembers g).all (sameSled claimant) then 40 else 200

/-- A group that is defined, valid, and has the device as a member (R306). -/
def groupHas (g : Dword) (rank : BitVec 7) : Bool := g.getLsbD 63 && groupValid g && (groupMembers g).contains rank

def State.claimSlot (s : State) (n : Nat) : ClaimSlot := (s.claims[n]?).getD ClaimSlot.reset
def State.modClaimSlot (s : State) (n : Nat) (f : ClaimSlot → ClaimSlot) : State :=
  { s with claims := s.claims.setIfInBounds n (f (s.claimSlot n)) }
def State.modOpen (s : State) (n : Nat) (f : OpenSet → OpenSet) : State :=
  s.modClaimSlot n fun r => { r with opened := r.opened.map f }

/-- The group descriptor a claim names. -/
def State.blazeGroup (s : State) (n : Nat) : Dword := (s.regs.bgrp[n]?).getD 0

/-- A message of the plane leaves once the accesses before it have reached their ordering points (R235). -/
def State.toPlane (s : State) (origin : Option (Fin 64 × Fin 4)) (slot : Nat) (before : List Nat) (o : Output) : State :=
  { s.fresh with plane := s.plane ++ [⟨s.nextId, origin, slot, before, o⟩] }

/-- What may leave leaves. -/
def State.planeDue (s : State) : State :=
  (s.plane.filter fun p => s.allPerformed p.before).foldl (fun s p => s.planeFlit.emit p.what)
    { s with plane := s.plane.filter fun p => !s.allPerformed p.before }

/-- The scope contains every member of a group (R228, R235). -/
def scopeHolds (scope : BitVec 3) (own : BitVec 7) (g : Dword) : Bool :=
  scope = 5 || (scope = 4 && (groupMembers g).all (sameSled own)) || (scope = 3 && (groupMembers g).all (· == own))

/-- The narrowest scope that contains every member of a group; 0 where there is no group (R228, R235). -/
def groupScope (own : BitVec 7) (g : Dword) : Nat :=
  let ms := groupMembers g
  if ms.isEmpty then 0 else if ms.all (· == own) then 3 else if ms.all (sameSled own) then 4 else 5

/-- Accesses that FENCEs of the context have put before its later claims, which count as stores (R222, R235). -/
def Context.fencedBefore (cx : Context) (own : BitVec 7) (g : Dword) : List Nat :=
  (cx.fences.filter (scopeHolds ·.scope own g)).flatMap fun f =>
    (if f.orders true false false true then f.loads else []) ++ if f.orders false true false true then f.stores else []

/-! ### Claims (R308, R309) -/

/-- BLZ may be made: else it is ILLEGAL. -/
def State.mayClaim (s : State) (grp : Nat) : Bool :=
  let g := s.blazeGroup grp
  groupHas g s.rank && 2 * planeBound g s.rank + 20 ≤ s.regs.bwin.toNat

/-- An accepted objection. -/
def OpenSet.object (o : OpenSet) (rank : BitVec 7) (v : Dword) : OpenSet :=
  { o with
    objections := min 255 (o.objections + 1)
    maxv := if o.maxv.toNat < v.toNat then v else o.maxv
    lowobj := match o.lowobj with
      | some r => some (if rank.toNat < r.toNat then rank else r)
      | none => some rank }

/-- A set opened by a claim. A member lost at that time gives it MISS (R313). -/
def State.newSet (s : State) (c : Claim) (g : Dword) (win : Nat) : OpenSet :=
  ⟨c.start, [c], win, planeBound g c.rank, g, 0, 0, none, (groupMembers g).any s.lostRanks.contains, false, false⟩

/-- A claim opens a set on a slot, with the objections to it that have come before (R309, R310). -/
def State.openSet (s : State) (slot : Nat) (c : Claim) (g : Dword) (win : Nat) : State :=
  s.modClaimSlot slot fun r =>
    { r with opened := some (r.early.foldl (fun o x => o.object x.1 x.2) (s.newSet c g win)), early := [] }

/-- BLZ with a valid group: refused while a set is open, and otherwise entered in the own record and sent. -/
def State.claim (s : State) (origin : Option (Fin 64 × Fin 4)) (slot grp : Nat) (pri : BitVec 3) (v : Dword)
    (before : List Nat) : State :=
  let g := s.blazeGroup grp
  match (s.claimSlot slot).opened with
  | some _ => s.modOpen slot fun o => { o with refused := true }
  | none =>
    let c : Claim := ⟨s.rank, pri, v, s.ringTime⟩
    (s.openSet slot c g s.regs.bwin.toNat).toPlane origin slot before (.claimOut slot c g s.regs.bwin.toNat)

/-- BLZ (R308). -/
def execBlz (l : BitVec 4) (b : BitVec 6) (p g : BitVec 3) (s : State) : Host.Outcome State Fault Refusal :=
  s.settle (do
    check (s.mayClaim g.toNat) .illegal
    .ok (s.claim (some (s.cur.core, s.cur.ctx)) l.toNat g.toNat p (s.sreg 0 b.toNat)
      (s.me.fencedBefore s.rank (s.blazeGroup g.toNat))))

/-- A claim that lies within B of t0 joins; one that does not is discarded and sets MISS (R309). Different descriptors
or windows spoil the outcome (R307). -/
def OpenSet.join (o : OpenSet) (c : Claim) (g : Dword) (win : Nat) : OpenSet :=
  if c.start - o.t0 ≤ o.bound && o.t0 - c.start ≤ o.bound then
    { o with
      t0 := min o.t0 c.start, claims := o.claims ++ [c]
      mixed := o.mixed || g != o.group || win != o.win }
  else { o with miss := true }

/-- The device hears a member: it is lost no longer, and rounds that waited for it complete (R304, R313). -/
def State.hear (s : State) (rank : BitVec 7) : State :=
  let s : State := { s with heard := (rank, s.ringTime) :: s.heard.filter (·.1 != rank) }
  if s.lostRanks.contains rank then
    let s : State := { s with lostRanks := s.lostRanks.filter (· != rank) }
    ((s.rounds.map fun r => (r.win, r.addr)).eraseDups).foldl (fun s w => s.completeRounds w.1 w.2 (s.rounds.length + 1)) s
  else s

/-- CLAIM_RECEIVE (R309). A claim that arrives while bundles of the cycle issue counts as arriving after them
(R308). -/
def execClaimReceive (slot : Fin 16) (rank : BitVec 7) (pri : BitVec 3) (value : Dword) (start : Nat) (group : Dword)
    (win : Word) (s : State) : Host.Outcome State Fault Refusal :=
  if s.phase.issuing then .next { s with late := s.late ++ [.claimReceive slot rank pri value start group win] }
  else if rank = s.rank || !groupHas group s.rank then .next s
  else
    let c : Claim := ⟨rank, pri, value, start⟩
    let s := (s.takeFlit (s.linkFrom rank)).hear rank
    match (s.claimSlot slot).opened with
    | some _ => .next (s.modOpen slot (·.join c group win.toNat))
    | none => .next (s.openSet slot c group win.toNat)

/-! ### Objections (R310) -/

/-- The open set that the device may object to now. -/
def State.objectable (s : State) (slot : Nat) : Option OpenSet :=
  match (s.claimSlot slot).opened with
  | some o => if (groupMembers o.group).contains s.rank && s.ringTime < o.t0 + o.win then some o else none
  | none => none

def State.objection (s : State) (origin : Option (Fin 64 × Fin 4)) (slot : Nat) (v : Dword) (before : List Nat) : State :=
  (s.modOpen slot (·.object s.rank v)).toPlane origin slot before (.objectionOut slot v)

/-- BLZOBJ (R310). -/
def execBlzobj (l : BitVec 4) (b : BitVec 6) (s : State) : Host.Outcome State Fault Refusal :=
  s.settle <|
    match s.objectable l.toNat with
    | some o => 
      .ok (s.objection (some (s.cur.core, s.cur.ctx)) l.toNat (s.sreg 0 b.toNat) (s.me.fencedBefore s.rank o.group))
    | none => trapAt .lateobj ((s.claimSlot l.toNat).seq ++ 0#28 ++ l)

/-- OBJECTION_RECEIVE (R310): an objection that its sender's plane accepted. One that comes before any claim of its set is
kept for the set. -/
def execObjectionReceive (slot : Fin 16) (rank : BitVec 7) (value : Dword) (s : State) :
    Host.Outcome State Fault Refusal :=
  .next (((s.takeFlit (s.linkFrom rank)).hear rank).modClaimSlot slot fun r =>
    match r.opened with
    | some o => { r with opened := some (o.object rank value) }
    | none => { r with early := r.early ++ [(rank, value)] })

/-! ### Decisions and reading them (R309-R312) -/

/-- The status word of R311. -/
def ClaimSlot.status (r : ClaimSlot) : Dword :=
  r.seq ++ BitVec.ofBool r.opened.isSome ++ BitVec.ofBool r.miss ++ BitVec.ofNat 2 r.code ++ 0#5 ++ r.winner ++ 0#1 ++
    r.lowobj ++ BitVec.ofNat 8 r.nobj

/-- A word of a slot as BLZRD reads it. -/
def ClaimSlot.word (r : ClaimSlot) (sel : Nat) : Dword :=
  match sel with
  | 0 => r.status
  | 1 => r.value
  | _ => r.maxv

/-- The claim with the highest priority; ties go to the lowest rank. -/
def topClaim : List Claim → Option Claim
  | [] => none
  | c :: cs =>
    match topClaim cs with
    | none => some c
    | some d => some (if d.pri.toNat < c.pri.toNat || (d.pri == c.pri && c.rank.toNat < d.rank.toNat) then c else d)

/-- The outcome of a set, as this device records it (R309). -/
def ClaimSlot.decide (r : ClaimSlot) (o : OpenSet) (own : BitVec 7) : ClaimSlot :=
  match topClaim o.claims with
  | none => { r with opened := none }
  | some w =>
    let lost : Bool := (o.claims.any (·.rank == own) && w.rank != own) || o.refused
    ⟨none, r.seq + 1, if lost then 3 else if 0 < o.objections then 2 else 1, w.rank, w.value, o.lowobj.getD 0, o.maxv,
      o.objections, o.miss, o.group, []⟩

/-- The outcome of a set whose claims did not agree is not stated (R307). -/
def State.freeOutcome (s : State) (group : Dword) : ClaimSlot :=
  ⟨none, (s.free 0).truncate 32, (s.free 1).toNat % 4, (s.free 2).truncate 7, s.free 3, (s.free 4).truncate 7, s.free 5,
    (s.free 6).toNat % 256, s.coin 7, group, []⟩

/-- SEQ has reached a sequence (R312). -/
def seqReached (seq want : Word) : Bool := (seq - want).toNat < 2 ^ 31

/-- The context has read an outcome: until it issues the FENCE that R235 asks for, its loads may miss what was stored
before the claim. -/
def Context.readsOutcome (cx : Context) (own : BitVec 7) (r : ClaimSlot) : Context :=
  { cx with claimed := max cx.claimed (groupScope own r.group) }

/-- The wait of a BLZWT once the slot has its decision. -/
def Waiting.decided (r : ClaimSlot) (slot : Nat) (w : Waiting) : Waiting :=
  match w with
  | .blzwt d n want => if n = slot && seqReached r.seq want then .released d r.status [] else w
  | w => w

/-- A context that waits for a decision on a slot takes it once it is made. -/
def Context.decided (cx : Context) (own : BitVec 7) (r : ClaimSlot) (slot : Nat) : Context :=
  let wait := cx.wait.map (·.decided r slot)
  if wait = cx.wait then cx else { cx.readsOutcome own r with wait := wait }

/-- A decision reaches the contexts that wait for it, those that are saved among them (R312). -/
def State.wakeBlaze (s : State) (slot : Nat) : State :=
  let f (cx : Context) : Context := cx.decided s.rank (s.claimSlot slot) slot
  (s.foldCtxs fun s k c => s.modCtx k c f).modKept fun _ => f

/-- BLAZE_DECISION (R309): at t0 + W + B, whatever FENCEs have put before the leaving of a claim (R235). -/
def execBlazeDecision (slot : Fin 16) (s : State) : Host.Outcome State Fault Refusal :=
  match (s.claimSlot slot).opened with
  | none => .next s
  | some o =>
    if s.ringTime < o.t0 + o.win + o.bound then .next s
    else
      .next ((s.modClaimSlot slot fun r => if o.mixed then s.freeOutcome o.group else r.decide o s.rank).wakeBlaze slot)

/-- The issuing context has read the outcome of a slot. -/
def State.readsOutcome (s : State) (slot : Nat) : State := s.modMe (·.readsOutcome s.rank (s.claimSlot slot))

/-- BLZRD (R311). -/
def execBlzrd (a : BitVec 6) (e : BitVec 2) (l : BitVec 4) (s : State) : Host.Outcome State Fault Refusal :=
  s.settle ((s.writeS a ((s.claimSlot l.toNat).word e.toNat) 2).map (State.readsOutcome · l.toNat))

/-- BLZWT (R312). -/
def execBlzwt (a b : BitVec 6) (l : BitVec 4) (s : State) : Host.Outcome State Fault Refusal :=
  let r := s.claimSlot l.toNat
  let want : Word := (s.sreg 0 b.toNat).truncate 32
  s.settle ((if seqReached r.seq want then (s.writeS a r.status 2).map (State.readsOutcome · l.toNat)
    else .ok (s.modMe fun cx =>
      { cx with
        state := .waiting, wait := some (.blzwt a.toNat l.toNat want), waitId := s.nextId, waitPassed := false }).fresh).map
      fun t => t.modMe fun cx => { cx with bubble := max 2 cx.bubble })

/-! ### Beats and loss (R305, R313) -/

/-- The other members of the defined groups that the device belongs to. -/
def State.partners (s : State) : List (BitVec 7) :=
  (((List.range 8).filter fun n => groupHas (s.blazeGroup n) s.rank).flatMap fun n =>
    (groupMembers (s.blazeGroup n)).filter (· != s.rank)).eraseDups

/-- The device's own beat, to every defined group it belongs to (R305). -/
def State.sendBeat (s : State) : State :=
  ((List.range 8).filter fun n => groupHas (s.blazeGroup n) s.rank).foldl (fun s n => s.planeFlit.emit (.beat n)) s

/-- PRESENCE_BEAT (R305): to every member of every defined group the device belongs to. -/
def execPresenceBeat (s : State) : Host.Outcome State Fault Refusal := .next s.sendBeat

/-- The beats of other members that have come are heard (R313). -/
def State.hearBeats (s : State) : State :=
  (s.beats.filter (·.1 ≤ s.ringTime)).foldl (fun s b => if b.2 = s.rank then s else (s.takeFlit (s.linkFrom b.2)).hear b.2)
    { s with beats := s.beats.filter (s.ringTime < ·.1) }

/-- A member has been silent for 2 x B of the pair (R313). -/
def State.silent (s : State) (rank : BitVec 7) : Bool :=
  (s.heard.lookup rank).getD 0 + 2 * (if sameSled s.rank rank then 40 else 200) ≤ s.ringTime

/-- Members whose silence makes them lost now. -/
def State.losses (s : State) : List (BitVec 7) := s.partners.filter fun r => !s.lostRanks.contains r && s.silent r

/-- MEMBER_LOST (R313): a member of a shared group that has been silent for 2 x B is lost; every open set that has it takes
MISS. -/
def execMemberLost (rank : BitVec 7) (s : State) : Host.Outcome State Fault Refusal :=
  if !s.losses.contains rank then .next s
  else
    let s : State := { s with lostRanks := s.lostRanks ++ [rank] }
    let s := s.modRegs fun r => { r with lost := if r.lost = 0xFFFFFFFF then r.lost else r.lost + 1 }
    .next ((List.range 16).foldl (fun s n =>
      s.modOpen n fun o => { o with miss := o.miss || (groupMembers o.group).contains rank }) s)

/-! ### The host's operations (R315) -/

/-- HOST_CLAIM: HCLCTL with GO and OBJ = 0. -/
def execHostClaim (value : Dword) (s : State) : Host.Outcome State Fault Refusal :=
  if !s.hostServed then .next s else
  if !value.getLsbD 63 || value.getLsbD 62 then .next s
  else
    let g := bits value 6 4
    if s.mayClaim g then
      .next ((s.claim none (bits value 3 0) g (value.extractLsb' 8 3) s.regs.hclval []).modRegs fun r => { r with hclerr := 0 })
    else .next (s.modRegs fun r => { r with hclerr := 1 })

/-- HOST_OBJECTION: HCLCTL with GO and OBJ = 1. -/
def execHostObjection (value : Dword) (s : State) : Host.Outcome State Fault Refusal :=
  if !s.hostServed then .next s else
  if !value.getLsbD 63 || !value.getLsbD 62 then .next s
  else
    match s.objectable (bits value 3 0) with
    | some _ =>
      .next ((s.objection none (bits value 3 0) s.regs.hclval []).modRegs fun r => { r with hclerr := 0 })
    | none => .next (s.modRegs fun r => { r with hclerr := 2 })

end Sys2Proof.Machine
end

