-- ==== Sys2Proof/Machine/Buck.lean ====
section
/-! DEFINITION. The arithmetic of a buck: Householder triangles, the core, one-sided Jacobi, and the columns kept
(R201-R205). A matrix is a list of its columns. Every operation answers none where its result is not finite: the buck
then poisons its descriptor (R205). -/

namespace Sys2Proof.Machine

/-- A result of FP32 arithmetic, none where it is a NaN or an infinity. -/
def fin32 (w : Word) : Option Word := if (f32 w).isFinite then some w else none

def bFma (x y z : Word) : Option Word := fin32 (fma32 x y z)
def bAdd (x y : Word) : Option Word := fin32 (add32 x y)
def bSub (x y : Word) : Option Word := fin32 (sub32 x y)
def bMul (x y : Word) : Option Word := fin32 (mul32 x y)
def bDiv (x y : Word) : Option Word := fin32 (div32 x y)
def bSqrt (x : Word) : Option Word := fin32 (sqrt32 x)
def isZero32 (x : Word) : Bool := (f32 x).isZero
/-- x < 0; -0 is not (R201). -/
def below0 (x : Word) : Bool := (f32 x).lt (.fin false 0 0)
def abs32 (x : Word) : Word := x &&& 0x7FFFFFFF
def one32 : Word := 0x3F800000

/-- `Chain` of R65: from +0, one fused step per term. -/
def chain (xs ys : List Word) : Option Word :=
  (xs.zip ys).foldlM (fun acc p => bFma p.1 p.2 acc) 0

abbrev Matrix := List (List Word)

def elemAt (x : Matrix) (i j : Nat) : Word := ((x[j]?).getD []).getD i 0
def rowOf (x : Matrix) (i : Nat) : List Word := x.map fun c => c.getD i 0

/-- A Householder vector from row k on, with its squared length. -/
structure Reflector where
  k : Nat
  v : List Word
  w : Word
  deriving DecidableEq, Repr

/-- Applies a reflector to a column. -/
def Reflector.apply (h : Reflector) (col : List Word) : Option (List Word) := do
  let seg := col.drop h.k
  let d ← chain h.v seg
  let f ← bDiv (← bAdd d d) h.w
  let seg' ← (h.v.zip seg).mapM fun p => bFma (neg32 f) p.1 p.2
  pure (col.take h.k ++ seg')

/-- Step k of the triangularisation: the matrix after it, and the reflector if there is one. -/
def hqrStep (x : Matrix) (k : Nat) : Option (Matrix × Option Reflector) := do
  let tail := ((x[k]?).getD []).drop k
  let nrm ← bSqrt (← chain tail tail)
  if isZero32 nrm then pure (x, none)
  else
    let head := tail.headD 0
    let alpha := if below0 head then nrm else neg32 nrm
    let v := (← bSub head alpha) :: tail.tail
    let w ← chain v v
    let h : Reflector := ⟨k, v, w⟩
    let right ← (x.drop (k + 1)).mapM h.apply
    let col := ((x[k]?).getD []).take k ++ alpha :: List.replicate (tail.length - 1) 0
    pure (x.take k ++ col :: right, some h)

def hqrSteps (x : Matrix) : List Nat → Option (Matrix × List Reflector)
  | [] => some (x, [])
  | k :: ks => do
    let (y, h) ← hqrStep x k
    let (z, hs) ← hqrSteps y ks
    pure (z, h.toList ++ hs)

/-- Column j of the h by h identity. -/
def unitColumn (h j : Nat) : List Word := (List.range h).map fun i => if i = j then one32 else 0

/-- `HQR` of R202: Q and R of an h by c matrix. -/
def hqr (h : Nat) (x : Matrix) : Option (Matrix × Matrix) := do
  let c := x.length
  let p := min h c
  let (y, hs) ← hqrSteps x (List.range p)
  let r := y.map (·.take p)
  let e ← hs.reverse.foldlM (fun (e : Matrix) f => e.mapM f.apply) ((List.range p).map (unitColumn h))
  let flip (k : Nat) : Bool := below0 (elemAt r k k)
  let r' := (List.range c).map fun j => (List.range p).map fun k =>
    if flip k && k ≤ j then neg32 (elemAt r k j) else elemAt r k j
  let q := (List.range p).map fun k => ((e[k]?).getD []).map fun w => if flip k then neg32 w else w
  pure (q, r')

/-- The two columns of one rotation (R203). -/
def rotateColumns (cs sn : Word) (x y : List Word) : Option (List Word × List Word) := do
  let x' ← (x.zip y).mapM fun p => do bFma cs p.1 (neg32 (← bMul sn p.2))
  let y' ← (x.zip y).mapM fun p => do bFma cs p.2 (← bMul sn p.1)
  pure (x', y')

/-- cs and sn of `Rotate`, none where g = 0 and no rotation is made. -/
def rotation (ki kj : List Word) : Option (Option (Word × Word)) := do
  let a ← chain ki ki
  let b ← chain kj kj
  let g ← chain ki kj
  if isZero32 g then pure none
  else
    let z ← bDiv (← bSub b a) (← bAdd g g)
    let big : Bool := !(f32 (abs32 z)).lt (.fin false 1 60)
    let t ← if big then do bDiv one32 (← bAdd z z)
      else do
        let t ← bDiv one32 (← bAdd (abs32 z) (← bSqrt (← bFma z z one32)))
        pure (if below0 z then neg32 t else t)
    let cs ← bDiv one32 (← bSqrt (← bFma t t one32))
    pure (some (cs, ← bMul cs t))

/-- `Rotate(i, j)` on K and V. -/
def rotate (kv : Matrix × Matrix) (p : Nat × Nat) : Option (Matrix × Matrix) := do
  let col (x : Matrix) (j : Nat) : List Word := (x[j]?).getD []
  match ← rotation (col kv.1 p.1) (col kv.1 p.2) with
  | none => pure kv
  | some (cs, sn) =>
    let (ki, kj) ← rotateColumns cs sn (col kv.1 p.1) (col kv.1 p.2)
    let (vi, vj) ← rotateColumns cs sn (col kv.2 p.1) (col kv.2 p.2)
    pure ((kv.1.set p.1 ki).set p.2 kj, (kv.2.set p.1 vi).set p.2 vj)

/-- The pairs of a sweep in lexicographic order. -/
def sweepPairs (n : Nat) : List (Nat × Nat) :=
  (List.range n).flatMap fun i => ((List.range n).filter (i < ·)).map fun j => (i, j)

/-- The columns in order of falling σ, ties to the lower index: insertion keeps the order of equals. -/
def insertSigma (sig : List Word) (j : Nat) : List Nat → List Nat
  | [] => [j]
  | k :: ks =>
    if (f32 ((sig[k]?).getD 0)).lt (f32 ((sig[j]?).getD 0)) then j :: k :: ks else k :: insertSigma sig j ks

def orderSigma (sig : List Word) : List Nat := (List.range sig.length).foldl (fun l j => insertSigma sig j l) []

/-- The lowest index at which the magnitude is greatest. -/
def peak (l : List Word) : Nat :=
  (List.range l.length).foldl (fun m i =>
    if (f32 (abs32 ((l[m]?).getD 0))).lt (f32 (abs32 ((l[i]?).getD 0))) then i else m) 0

/-- The storage tag of a descriptor (R194). -/
def storageTag (bf16 : Bool) : Half := mkTag (if bf16 then 0x01 else 0x00) 0

/-- A stored element as FP32: BF16 widens exactly (R201). -/
def widen (bf16 : Bool) (w : Word) : Word := if bf16 then w <<< 16 else w

/-- A value rounded into storage, none where it is not finite. -/
def storeElem (bf16 : Bool) (x : Num) : Option Word :=
  let c := enc (storageTag bf16) x .rne false
  if isNonFinite (storageTag bf16) c then none else some (BitVec.ofNat 32 c)

/-- What a buck leaves: the new factors and the discarded energy. -/
structure Bucked where
  left : Matrix
  right : Matrix
  energy : Dword
  deriving DecidableEq, Repr

/-- `Buck` of R204 on factors of m and n rows and rank limit r; none where a value is not finite (R205). -/
def buck (bf16 : Bool) (m n r : Nat) (left right : Matrix) : Option Bucked := do
  let lin ← (left.map (·.map (widen bf16))).mapM (·.mapM fin32)
  let rin ← (right.map (·.map (widen bf16))).mapM (·.mapM fin32)
  let c := left.length
  let (ql, rl) ← hqr m lin
  let (qr, rr) ← hqr n rin
  let pl := min m c
  let pr := min n c
  let k0 ← (List.range pr).mapM fun j => (List.range pl).mapM fun i => chain (rowOf rl i) (rowOf rr j)
  let v0 : Matrix := (List.range pr).map (unitColumn pr)
  let (k, v) ← (List.replicate 10 (sweepPairs pr)).flatten.foldlM rotate (k0, v0)
  let sig ← k.mapM fun col => do bSqrt (← chain col col)
  let keep := (orderSigma sig).take (min r pr)
  let square (j : Nat) : Num := (f32 ((sig[j]?).getD 0)).mul (f32 ((sig[j]?).getD 0))
  let e := ((List.range pr).filter (!keep.contains ·)).foldl (fun e j => toF64 ((f64 e).add (square j))) 0
  let cols ← keep.mapM fun j => do
    let lc ← (List.range m).mapM fun i => chain (rowOf ql i) ((k[j]?).getD [])
    let tc ← (List.range n).mapM fun i => chain (rowOf qr i) ((v[j]?).getD [])
    let flip := below0 ((lc[peak lc]?).getD 0)
    let out (l : List Word) : Option (List Word) :=
      l.mapM fun w => storeElem bf16 (f32 (if flip then neg32 w else w))
    pure (← out lc, ← out tc)
  pure ⟨cols.map (·.1), cols.map (·.2), e⟩

end Sys2Proof.Machine
end

