-- ==== Sys2Proof/Machine/Vector.lean ====
section
/-! DEFINITION. The vector forms (R155-R170): the tag of a source decides whether a lane is a floating value, an integer
or a bit pattern; every result is exact and rounded once. -/

namespace Sys2Proof.Machine

open Sys2Proof.Config

/-! ### The common frame of the element-wise forms (R156) -/

/-- Latency of a form that takes 2 cycles on integer and bitwise tags and 4 on floating ones (R157). -/
def tagLatency (t : Half) : Nat := if codeFloat (tagCode t) then 4 else 2

/-- `ElemForm`: active lanes take f, inactive ones keep vA, whose tag must then be the result's. -/
def State.elemForm (s : State) (a : BitVec 6) (m : BitVec 3) (tag : Half) (latency : Nat) (f : Fin 64 → Nat) :
    Except Stop State := do
  check (tagValid tag) .format
  let old := s.vreg 2 a.toNat
  check (m = 0 || old.tag == tag) .format
  let q := s.mask m.toNat
  let w := laneWidth (tagCode tag)
  s.writeV a tag (Vector.ofFn fun i => laneOf w (if q.getLsbD i then f i else (old.lanes.get i).toNat)) allLanes latency

/-- A form that writes all lanes. -/
def State.wholeForm (s : State) (a : BitVec 6) (tag : Half) (latency : Nat) (f : Fin 64 → Nat) : Except Stop State :=
  s.writeV a tag (Vector.ofFn fun i => laneOf (laneWidth (tagCode tag)) (f i)) allLanes latency

/-! ### Elements -/

/-- The value of lane i (R40). -/
def VReg.num (v : VReg) (i : Fin 64) : Num := val v.tag (v.lanes.get i).toNat

/-- Bits [w-1:0] of lane i. -/
def VReg.bits (v : VReg) (i : Fin 64) : Nat := elem (laneWidth (tagCode v.tag)) (v.lanes.get i)

/-- The stored integer of lane i. -/
def VReg.int (v : VReg) (i : Fin 64) : Int :=
  match fmtOf (tagCode v.tag) with
  | some (.int true w) => toSigned w (v.bits i)
  | _ => (v.bits i : Int)

/-- All registers bear one floating code (R158). -/
def sameFloat : List Half → Bool
  | [] => false
  | t :: ts => codeFloat (tagCode t) && ts.all fun u => tagCode u == tagCode t

/-- All registers bear one tag with an integer code (R159). -/
def sameInt : List Half → Bool
  | [] => false
  | t :: ts => codeInt (tagCode t) && ts.all (· == t)

/-- All registers bear one 8-, 16- or 32-bit code (R160). -/
def sameWhole : List Half → Bool
  | [] => false
  | t :: ts => codeWhole (tagCode t) && ts.all fun u => tagCode u == tagCode t

/-- The stored result of an exact integer: modulo 2^w, or clamped with `.sat` (R159). -/
def intResult (code : Nat) (sat : Bool) (y : Int) : Nat :=
  match fmtOf code with
  | some (.int signed w) =>
    let r := intRange signed w
    ((if sat then clampInt y r.1 r.2 else y) % 2 ^ w).toNat
  | _ => 0

/-- The integer amounts of a shift or a permutation: an integer code with scale 0 (R160, R168). -/
def amounts (v : VReg) : Except Stop Unit := check (codeInt (tagCode v.tag) && tagScale v.tag == 0) .format

/-! ### Arithmetic (R158, R159) -/

/-- Two sources: floating results take vB's tag, integer ones the common tag. -/
def State.arith2 (s : State) (a b c : BitVec 6) (sat : Bool) (m : BitVec 3) (ff : Num → Num → Num)
    (fi : Int → Int → Int) : Host.Outcome State Fault Refusal :=
  s.settle do
    let x ← s.readV 0 b
    let y ← s.readV 1 c
    if sameFloat [x.tag, y.tag] then
      s.elemForm a m x.tag 4 fun i => enc x.tag (ff (x.num i) (y.num i)) .rne sat
    else if sameInt [x.tag, y.tag] then
      s.elemForm a m x.tag 2 fun i => intResult (tagCode x.tag) sat (fi (x.int i) (y.int i))
    else trapWith .format

/-- One source. -/
def State.arith1 (s : State) (a b : BitVec 6) (sat : Bool) (m : BitVec 3) (ff : Num → Num) (fi : Int → Int) :
    Host.Outcome State Fault Refusal :=
  s.settle do
    let x ← s.readV 0 b
    if codeFloat (tagCode x.tag) then s.elemForm a m x.tag 4 fun i => enc x.tag (ff (x.num i)) .rne sat
    else if codeInt (tagCode x.tag) then
      s.elemForm a m x.tag 2 fun i => intResult (tagCode x.tag) sat (fi (x.int i))
    else trapWith .format

/-- VFMA and VFMS: the addend is the old vA, whose tag a floating result takes; integers need scale 0. -/
def State.fused (s : State) (a b c : BitVec 6) (sat : Bool) (m : BitVec 3) (ff : Num → Num) (fi : Int → Int) :
    Host.Outcome State Fault Refusal :=
  s.settle do
    let x ← s.readV 0 b
    let y ← s.readV 1 c
    let z ← s.readV 2 a
    if sameFloat [x.tag, y.tag, z.tag] then
      s.elemForm a m z.tag 4 fun i => enc z.tag (((x.num i).mul (y.num i)).add (ff (z.num i))) .rne sat
    else if sameInt [x.tag, y.tag, z.tag] && tagScale x.tag == 0 then
      s.elemForm a m x.tag 2 fun i => intResult (tagCode x.tag) sat (x.int i * y.int i + fi (z.int i))
    else trapWith .format

/-- The lesser of two values, -0 below +0; a NaN gives NaN. -/
def Num.least (x y : Num) : Num := if x.isNan || y.isNan then .nan else if y.ltZ x then y else x

/-- The greater of two values. -/
def Num.greatest (x y : Num) : Num := if x.isNan || y.isNan then .nan else if x.ltZ y then y else x

/-- VADD (R158, R159). -/
def execVadd (_u : VecUnit) (a b c : BitVec 6) (t : BitVec 1) (m : BitVec 3) (s : State) :
    Host.Outcome State Fault Refusal :=
  s.arith2 a b c (t = 1) m Num.add (· + ·)

/-- VSUB (R158, R159). -/
def execVsub (_u : VecUnit) (a b c : BitVec 6) (t : BitVec 1) (m : BitVec 3) (s : State) :
    Host.Outcome State Fault Refusal :=
  s.arith2 a b c (t = 1) m (fun x y => x.add y.neg) (· - ·)

/-- VMUL (R158, R159): the scales of integer sources add. -/
def execVmul (_u : VecUnit) (a b c : BitVec 6) (t : BitVec 1) (m : BitVec 3) (s : State) :
    Host.Outcome State Fault Refusal :=
  s.settle do
    let x ← s.readV 0 b
    let y ← s.readV 1 c
    if sameFloat [x.tag, y.tag] then
      s.elemForm a m x.tag 4 fun i => enc x.tag ((x.num i).mul (y.num i)) .rne (t = 1)
    else if sameInt [x.tag, y.tag] then do
      let sc := tagScale x.tag + tagScale y.tag
      check (scaleFits sc) .format
      s.elemForm a m (mkTag (tagCode x.tag) sc) 2 fun i => intResult (tagCode x.tag) (t = 1) (x.int i * y.int i)
    else trapWith .format

/-- VFMA (R158, R159). -/
def execVfma (_u : VecUnit) (a b c : BitVec 6) (t : BitVec 1) (m : BitVec 3) (s : State) :
    Host.Outcome State Fault Refusal :=
  s.fused a b c (t = 1) m id id

/-- VFMS (R158, R159). -/
def execVfms (_u : VecUnit) (a b c : BitVec 6) (t : BitVec 1) (m : BitVec 3) (s : State) :
    Host.Outcome State Fault Refusal :=
  s.fused a b c (t = 1) m Num.neg (- ·)

/-- VMIN (R158, R159). -/
def execVmin (_u : VecUnit) (a b c : BitVec 6) (m : BitVec 3) (s : State) : Host.Outcome State Fault Refusal :=
  s.arith2 a b c false m Num.least min

/-- VMAX (R158, R159). -/
def execVmax (_u : VecUnit) (a b c : BitVec 6) (m : BitVec 3) (s : State) : Host.Outcome State Fault Refusal :=
  s.arith2 a b c false m Num.greatest max

/-- VABS (R158, R159). -/
def execVabs (_u : VecUnit) (a b : BitVec 6) (t : BitVec 1) (m : BitVec 3) (s : State) :
    Host.Outcome State Fault Refusal :=
  s.arith1 a b (t = 1) m Num.abs fun y => (y.natAbs : Int)

/-- VNEG (R158, R159). -/
def execVneg (_u : VecUnit) (a b : BitVec 6) (t : BitVec 1) (m : BitVec 3) (s : State) :
    Host.Outcome State Fault Refusal :=
  s.arith1 a b (t = 1) m Num.neg (- ·)

/-! ### Bits and shifts (R160) -/

/-- VAND, VOR, VXOR: one code, vB's tag. -/
def State.bitwise (s : State) (a b c : BitVec 6) (m : BitVec 3) (f : Nat → Nat → Nat) :
    Host.Outcome State Fault Refusal :=
  s.settle do
    let x ← s.readV 0 b
    let y ← s.readV 1 c
    check (sameWhole [x.tag, y.tag]) .format
    s.elemForm a m x.tag 2 fun i => f (x.bits i) (y.bits i)

/-- VAND (R160). -/
def execVand (_u : VecUnit) (a b c : BitVec 6) (m : BitVec 3) (s : State) : Host.Outcome State Fault Refusal :=
  s.bitwise a b c m (· &&& ·)

/-- VOR (R160). -/
def execVor (_u : VecUnit) (a b c : BitVec 6) (m : BitVec 3) (s : State) : Host.Outcome State Fault Refusal :=
  s.bitwise a b c m (· ||| ·)

/-- VXOR (R160). -/
def execVxor (_u : VecUnit) (a b c : BitVec 6) (m : BitVec 3) (s : State) : Host.Outcome State Fault Refusal :=
  s.bitwise a b c m (· ^^^ ·)

/-- VNOT (R160). -/
def execVnot (_u : VecUnit) (a b : BitVec 6) (m : BitVec 3) (s : State) : Host.Outcome State Fault Refusal :=
  s.settle do
    let x ← s.readV 0 b
    check (codeWhole (tagCode x.tag)) .format
    s.elemForm a m x.tag 2 fun i => 2 ^ laneWidth (tagCode x.tag) - 1 - x.bits i

/-- The shifts: f w amount data. -/
def State.shiftForm (s : State) (a b c : BitVec 6) (m : BitVec 3) (f : Nat → Nat → Nat → Nat) :
    Host.Outcome State Fault Refusal :=
  s.settle do
    let x ← s.readV 0 b
    let y ← s.readV 1 c
    check (codeWhole (tagCode x.tag)) .format
    amounts y
    s.elemForm a m x.tag 2 fun i => f (laneWidth (tagCode x.tag)) (y.bits i) (x.bits i)

/-- The arithmetic right shift of w bits: all copies of the sign for w or more. -/
def sarBits (w n x : Nat) : Nat :=
  let k := min n w
  if x.testBit (w - 1) then x / 2 ^ k + (2 ^ w - 2 ^ (w - k)) else x / 2 ^ k

/-- VSHL (R160). -/
def execVshl (_u : VecUnit) (a b c : BitVec 6) (m : BitVec 3) (s : State) : Host.Outcome State Fault Refusal :=
  s.shiftForm a b c m fun w n x => if n < w then x * 2 ^ n else 0

/-- VSHR (R160). -/
def execVshr (_u : VecUnit) (a b c : BitVec 6) (m : BitVec 3) (s : State) : Host.Outcome State Fault Refusal :=
  s.shiftForm a b c m fun w n x => if n < w then x / 2 ^ n else 0

/-- VSAR (R160). -/
def execVsar (_u : VecUnit) (a b c : BitVec 6) (m : BitVec 3) (s : State) : Host.Outcome State Fault Refusal :=
  s.shiftForm a b c m sarBits

/-- The funnel shifts: f w n X, with X the old vA above vB. -/
def State.funnelForm (s : State) (a b c : BitVec 6) (m : BitVec 3) (f : Nat → Nat → Nat → Nat) :
    Host.Outcome State Fault Refusal :=
  s.settle do
    let x ← s.readV 0 b
    let y ← s.readV 1 c
    let z ← s.readV 2 a
    check (sameWhole [x.tag, z.tag]) .format
    amounts y
    let w := laneWidth (tagCode x.tag)
    s.elemForm a m x.tag 2 fun i => f w (y.bits i % w) (z.bits i * 2 ^ w + x.bits i)

/-- VFSHL (R160). -/
def execVfshl (_u : VecUnit) (a b c : BitVec 6) (m : BitVec 3) (s : State) : Host.Outcome State Fault Refusal :=
  s.funnelForm a b c m fun w n x => x * 2 ^ n / 2 ^ w

/-- VFSHR (R160). -/
def execVfshr (_u : VecUnit) (a b c : BitVec 6) (m : BitVec 3) (s : State) : Host.Outcome State Fault Refusal :=
  s.funnelForm a b c m fun _ n x => x / 2 ^ n

/-- VCLZ and VPOPC: the result is `nat32` with scale 0. -/
def State.countForm (s : State) (a b : BitVec 6) (m : BitVec 3) (f : Nat → Nat → Nat) :
    Host.Outcome State Fault Refusal :=
  s.settle do
    let x ← s.readV 0 b
    check (codeWhole (tagCode x.tag)) .format
    s.elemForm a m (mkTag 0x0A 0) 2 fun i => f (laneWidth (tagCode x.tag)) (x.bits i)

/-- VCLZ (R160). -/
def execVclz (_u : VecUnit) (a b : BitVec 6) (m : BitVec 3) (s : State) : Host.Outcome State Fault Refusal :=
  s.countForm a b m fun w x => if x = 0 then w else w - 1 - x.log2

/-- VPOPC (R160). -/
def execVpopc (_u : VecUnit) (a b : BitVec 6) (m : BitVec 3) (s : State) : Host.Outcome State Fault Refusal :=
  s.countForm a b m popCount

/-! ### Comparison, selection, conversion (R161-R164) -/

/-- A floating comparison (R161): only `ne` and `un` hold of a NaN. -/
def compareNum (cc : BitVec 4) (x y : Num) : Bool :=
  let n := x.isNan || y.isNan
  match cc.toNat with
  | 0 => !n && !x.lt y && !y.lt x
  | 1 => n || x.lt y || y.lt x
  | 2 => !n && x.lt y
  | 3 => !n && !y.lt x
  | 4 => !n && y.lt x
  | 5 => !n && !x.lt y
  | _ => n

/-- An integer comparison (R161). -/
def compareInt (cc : BitVec 4) (x y : Int) : Bool :=
  match cc.toNat with
  | 0 => x == y
  | 1 => x != y
  | 2 => x < y
  | 3 => x ≤ y
  | 4 => y < x
  | 5 => y ≤ x
  | _ => false

/-- VCMP (R161). -/
def execVcmp (_u : VecUnit) (a b c : BitVec 6) (k : BitVec 4) (s : State) : Host.Outcome State Fault Refusal :=
  s.settle do
    let x ← s.readV 0 b
    let y ← s.readV 1 c
    if sameFloat [x.tag, y.tag] then .ok (s.writeQ a (predOf fun i => compareNum k (x.num i) (y.num i)) 2)
    else if sameInt [x.tag, y.tag] then .ok (s.writeQ a (predOf fun i => compareInt k (x.int i) (y.int i)) 2)
    else trapWith .format

/-- VSEL (R162): the mask is one of q0-q15. -/
def execVsel (_u : VecUnit) (a b c : BitVec 6) (m : BitVec 4) (s : State) : Host.Outcome State Fault Refusal :=
  s.settle do
    let x ← s.readV 0 b
    let y ← s.readV 1 c
    check (x.tag == y.tag) .format
    let q := s.qreg 6 m.toNat
    s.wholeForm a x.tag 2 fun i => if q.getLsbD i then x.bits i else y.bits i

/-- VCVT and TCVT: every lane of a whole-code register converted into the tag of a code (R163). -/
def State.convert (s : State) (x : VReg) (a c : BitVec 6) (keep sat : Bool) (mode : BitVec 2) (latency : Nat) :
    Except Stop State := do
  check (codeWhole (tagCode x.tag)) .format
  let old := s.vreg 2 a.toNat
  check (!keep || tagValid old.tag) .format
  let tag := mkTag c.toNat (if keep then tagScale old.tag else 0)
  s.wholeForm a tag latency fun i => enc tag (x.num i) (modeOf mode) sat

/-- VCVT (R163). -/
def execVcvt (_u : VecUnit) (a b c : BitVec 6) (k t : BitVec 1) (mode : BitVec 2) (s : State) :
    Host.Outcome State Fault Refusal :=
  s.settle do
    let x ← s.readV 0 b
    s.convert x a c (k = 1) (t = 1) mode 4

/-- W' of R164: the packed codes count as 32 bits, `acw` as its 64. -/
def retagWidth (c : Nat) : Nat := if c = 0x0F then 64 else laneWidth c

/-- VRETAG (R164): the tag alone changes. -/
def execVretag (_u : VecUnit) (a : BitVec 6) (i : BitVec 16) (s : State) : Host.Outcome State Fault Refusal :=
  s.settle do
    let x ← s.readV 2 a
    check (tagValid i && retagWidth (tagCode x.tag) == retagWidth (tagCode i)) .format
    s.writeV a i x.lanes allLanes 2

/-! ### Transcendental forms (R165) -/

def State.transcend (s : State) (a b : BitVec 6) (m : BitVec 3) (f : Num → Num) : Host.Outcome State Fault Refusal :=
  s.settle do
    let x ← s.readV 0 b
    check (tagCode x.tag < 3) .format
    let tag := mkTag (tagCode x.tag) 0
    s.elemForm a m tag 10 fun i => enc tag (f (x.num i)) .rne false

/-- 2^x and its special cases. -/
def exp2Of (z : Bool) : Num → Num
  | .nan => if z then .fin false 0 0 else .nan
  | .inf neg => if neg then .fin false 0 0 else .inf false
  | .fin neg m e => exp2Fin neg m e

/-- log2 x and its special cases. -/
def log2Of (z : Bool) : Num → Num
  | .nan => if z then .fin false 0 0 else .nan
  | .inf neg => if neg then .nan else .inf false
  | .fin neg m e => if m = 0 then .inf true else if neg then .nan else log2Fin m e

/-- 1/x and its special cases. -/
def recipOf (z : Bool) (x : Num) : Num :=
  if x.isZero && z then .fin false 0 0 else (Num.fin false 1 0).div x

/-- 1/sqrt x and its special cases. -/
def rsqrtOf (z : Bool) : Num → Num
  | .nan => .nan
  | .inf neg => if neg then .nan else .fin false 0 0
  | .fin neg m e =>
    if m = 0 then (if z then .fin false 0 0 else .inf neg) else if neg then .nan else recipSqrt m e

/-- VEXP2 (R165). -/
def execVexp2 (a b : BitVec 6) (z : BitVec 1) (m : BitVec 3) (s : State) : Host.Outcome State Fault Refusal :=
  s.transcend a b m (exp2Of (z = 1))

/-- VLOG2 (R165). -/
def execVlog2 (a b : BitVec 6) (z : BitVec 1) (m : BitVec 3) (s : State) : Host.Outcome State Fault Refusal :=
  s.transcend a b m (log2Of (z = 1))

/-- VRCP (R165). -/
def execVrcp (a b : BitVec 6) (z : BitVec 1) (m : BitVec 3) (s : State) : Host.Outcome State Fault Refusal :=
  s.transcend a b m (recipOf (z = 1))

/-- VRSQ (R165). -/
def execVrsq (a b : BitVec 6) (z : BitVec 1) (m : BitVec 3) (s : State) : Host.Outcome State Fault Refusal :=
  s.transcend a b m (rsqrtOf (z = 1))

/-! ### Reductions and scans (R166, R167) -/

/-- Lanes of a group (R157). -/
def groupSize (g : BitVec 2) : Nat :=
  match g.toNat with
  | 0 => 8
  | 1 => 16
  | _ => 64

/-- The lanes of lane i's group. -/
def groupOf (g : BitVec 2) (i : Fin 64) : List (Fin 64) :=
  (List.finRange 64).filter fun j => j.val / groupSize g == i.val / groupSize g

/-- The exact sum of a list of values: -0 only where every term is. -/
def sumNum : List Num → Num
  | [] => .fin false 0 0
  | x :: xs => xs.foldl Num.add x

/-- The form of a reduction or scan over the lanes that `which` gives. -/
def State.reduce (s : State) (a b : BitVec 6) (sat : Bool) (which : Fin 64 → List (Fin 64)) (ff : List Num → Num)
    (fi : List Int → Int) : Host.Outcome State Fault Refusal :=
  s.settle do
    let x ← s.readV 0 b
    if codeFloat (tagCode x.tag) then
      s.wholeForm a x.tag 6 fun i => enc x.tag (ff ((which i).map x.num)) .rne sat
    else if codeInt (tagCode x.tag) then
      s.wholeForm a x.tag 6 fun i => intResult (tagCode x.tag) sat (fi ((which i).map x.int))
    else trapWith .format

/-- Folds a choice over a list that is not empty. -/
def foldFirst (f : α → α → α) (z : α) : List α → α
  | [] => z
  | x :: xs => xs.foldl f x

/-- VREDSUM (R166). -/
def execVredsum (_u : VecUnit) (a b : BitVec 6) (t : BitVec 1) (g : BitVec 2) (s : State) :
    Host.Outcome State Fault Refusal :=
  s.reduce a b (t = 1) (groupOf g) sumNum List.sum

/-- VREDMAX (R166). -/
def execVredmax (_u : VecUnit) (a b : BitVec 6) (g : BitVec 2) (s : State) : Host.Outcome State Fault Refusal :=
  s.reduce a b false (groupOf g) (foldFirst Num.greatest .nan) (foldFirst max 0)

/-- VREDMIN (R166). -/
def execVredmin (_u : VecUnit) (a b : BitVec 6) (g : BitVec 2) (s : State) : Host.Outcome State Fault Refusal :=
  s.reduce a b false (groupOf g) (foldFirst Num.least .nan) (foldFirst min 0)

/-- VSCAN (R167): the prefix up to the lane, or before it with `.excl`. -/
def execVscan (_u : VecUnit) (a b : BitVec 6) (t e : BitVec 1) (g : BitVec 2) (s : State) :
    Host.Outcome State Fault Refusal :=
  s.reduce a b (t = 1) (fun i => (groupOf g i).filter fun j => if e = 1 then j.val < i.val else j.val ≤ i.val) sumNum
    List.sum

/-! ### Lane moves and constants (R168-R170) -/

/-- VBCST (R168). -/
def execVbcst (_u : VecUnit) (a b k : BitVec 6) (s : State) : Host.Outcome State Fault Refusal :=
  s.settle do
    let x ← s.readV 0 b
    s.wholeForm a x.tag 2 fun _ => x.bits (Fin.ofNat 64 k.toNat)

/-- VPERM (R168). -/
def execVperm (_u : VecUnit) (a b c : BitVec 6) (s : State) : Host.Outcome State Fault Refusal :=
  s.settle do
    let x ← s.readV 0 b
    let y ← s.readV 1 c
    amounts y
    s.wholeForm a x.tag 2 fun i => x.bits (Fin.ofNat 64 (y.bits i))

/-- VSLIDE (R168): lanes of vB, then of the old vA, or the other way round. -/
def execVslide (_u : VecUnit) (a b c : BitVec 6) (d : BitVec 1) (s : State) : Host.Outcome State Fault Refusal :=
  let (k, t) := s.readS 1 c
  let n := k.toNat % 64
  s.settle do
    let x ← s.readV 0 b
    let y ← s.readV 2 a
    check (retagWidth (tagCode x.tag) == retagWidth (tagCode y.tag)) .format
    t.wholeForm a x.tag 2 fun i =>
      if d = 0 then (if i.val + n ≤ 63 then x.bits (Fin.ofNat 64 (i + n)) else y.bits (Fin.ofNat 64 (i + n - 64)))
      else (if n ≤ i.val then x.bits (Fin.ofNat 64 (i - n)) else y.bits (Fin.ofNat 64 (i + 64 - n)))

/-- VEXTS (R168). -/
def execVexts (_u : VecUnit) (a b c : BitVec 6) (e : BitVec 1) (s : State) : Host.Outcome State Fault Refusal :=
  let (k, t) := s.readS 1 c
  s.settle do
    let x ← s.readV 0 b
    let w := laneWidth (tagCode x.tag)
    let v := x.bits (Fin.ofNat 64 k.toNat)
    t.writeS a (if e = 1 then BitVec.ofInt 64 (toSigned w v) else BitVec.ofNat 64 v) 2

/-- VINSS (R168): one lane of the old vA. -/
def execVinss (_u : VecUnit) (a b c : BitVec 6) (s : State) : Host.Outcome State Fault Refusal :=
  let (v, s1) := s.readS 0 b
  let (k, s2) := s1.readS 1 c
  s.settle do
    let y ← s.readV 2 a
    let w := laneWidth (tagCode y.tag)
    s2.writeV a y.tag
      (Vector.ofFn fun i => laneOf w (if i.val = k.toNat % 64 then v.toNat else (y.lanes.get i).toNat)) allLanes 2

/-- VMOV (R168): a register under a mask, or a circular-buffer head on one side. A producer head that traps PERM does so
before a tag that is not the ring's traps FORMAT: the model's choice (log entry 84). -/
def execVmov (_u : VecUnit) (a b : BitVec 6) (m : BitVec 3) (s : State) : Host.Outcome State Fault Refusal :=
  s.settle do
    if 32 ≤ b.toNat then do
      let (as, tag, t) ← s.headRead (b.toNat - 32)
      check (tagValid tag) .format
      .ok (t.issueLoad as (as.map (s.keyOf s.cur.core s.cur.ctx)) (.vector a.toNat tag) 0 5 5)
    else do
      let x ← s.readV 0 b
      if 32 ≤ a.toNat then do
        let (as, tag, t) ← s.headWrite (a.toNat - 32)
        check (x.tag == tag) .format
        .ok (t.issueStore as (as.map (s.keyOf s.cur.core s.cur.ctx)) x.image 1 0)
      else s.elemForm a m x.tag 2 x.bits

/-- VLI (R169). -/
def execVli (_u : VecUnit) (a : BitVec 6) (i : BitVec 16) (s : State) : Host.Outcome State Fault Refusal :=
  s.settle (s.wholeForm a (mkTag 0 0) 2 fun _ => i.toNat * 2 ^ 16)

/-- VNFC (R170): the counters as before the bundle. -/
def execVnfc (_u : VecUnit) (a : BitVec 6) (s : State) : Host.Outcome State Fault Refusal :=
  s.settle (s.wholeForm a (mkTag 0x0A 0) 2 fun i => ((s.cur.nfc[i.val]?).getD 0).toNat)

end Sys2Proof.Machine
end

