-- ==== Sys2Proof/Machine/Matrix.lean ====
section
/-! DEFINITION. Operand slots, latches, beats and accumulator tiles: the matrix forms of the X unit (R43-R47,
R171-R186). -/

namespace Sys2Proof.Machine

open Sys2Proof.Config

/-! ### What a tile holds -/

/-- The words and row exponents of a tile (R43). -/
structure TileView where
  word : Nat → Nat → Dword
  exp : Nat → Half

/-- Bits [63:59] read zero (R5, R43). -/
def State.accWord (s : State) (k : Fin 64) (t i j : Nat) : Dword :=
  BitVec.ofNat 64 (s.value (accKey k t i j) 8 % 2 ^ 59)
def State.accExp (s : State) (k : Fin 64) (t i : Nat) : Half := BitVec.ofNat 16 (s.value (expKey k t i) 2)
def State.tileView (s : State) (k : Fin 64) (t : Nat) : TileView := ⟨s.accWord k t, s.accExp k t⟩

/-- Stores a tile. An uncorrectable error in it stays: that writing a byte ends its error the manual does not say, and the
model's choice is that it does not (log entry 85). -/
def State.putTile (s : State) (k : Fin 64) (t : Nat) (v : TileView) : State :=
  let words := (List.range tileRows).flatMap fun i => (List.range tileCols).flatMap fun j => leBytes 8 (v.word i j).toNat
  let exps := (List.range tileRows).flatMap fun i => leBytes 2 (v.exp i).toNat
  (s.put (accKey k t 0 0) words).put (expKey k t 0) exps

/-- The same word with another mantissa, the sticky IX set where something was lost. -/
def accWith (w : Dword) (m : Int) (lost : Bool) : Dword :=
  mkAcc (w.getLsbD 58) (w.getLsbD 57) (w.getLsbD 56 || lost) m

/-! ### A beat (R44) -/

/-- Reduction depth of a pair of latch codes, none for a pair that XACC does not accept (R182). -/
def beatDepth (ca cb : Nat) : Option Nat :=
  let b8 (c : Nat) : Bool := codeAssigned c && 0x20 ≤ c
  let i8 (c : Nat) : Bool := c == 0x04 || c == 0x08
  if (b8 ca && b8 cb) || (i8 ca && i8 cb) then some 8 else if ca = 0x01 && cb = 0x01 then some 2 else none

/-- Element n of a latch. -/
def Latch.value (l : Latch) (n : Nat) : Num := val l.tag (imageElem (widthOf (tagCode l.tag) / 8) l.data n)

/-- An element as a beat uses it: gradient mode takes zero for what is not finite (R48). -/
def beatInput (g : Bool) (x : Num) : Num := if g && !x.isFinite then .fin false 0 0 else x

/-- `Beat` on one word: the products are rounded one by one to the row's unit and summed exactly. -/
def beatWord (w : Dword) (e : Half) (pairs : List (Num × Num)) : Dword :=
  if w.getLsbD 58 then w
  else if pairs.any fun p => !p.1.isFinite || !p.2.isFinite then w ||| (1#64 <<< 58)
  else
    let qs := pairs.map fun p =>
      match p.1.mul p.2 with
      | .fin neg m x => rneInt (signedSig neg m) (x - e.toInt)
      | _ => (0, true)
    let t := accMant w + (qs.map (·.1)).sum
    let ov : Bool := t < -(2 ^ 55) || 2 ^ 55 - 1 < t
    mkAcc false (w.getLsbD 57 || ov) (w.getLsbD 56 || qs.any (!·.2)) (clampInt t (-(2 ^ 55)) (2 ^ 55 - 1))

/-- The pairs of word (i, j) of a beat of depth d. -/
def beatPairs (a b : Latch) (g : Bool) (d i j : Nat) : List (Num × Num) :=
  (List.range d).map fun k => (beatInput g (a.value (i * d + k)), beatInput g (b.value (k * tileCols + j)))

/-- Latched elements that gradient mode replaces (R182). -/
def beatReplaced (a b : Latch) (d : Nat) : Nat :=
  ((List.range (tileRows * d)).filter fun n => !(a.value n).isFinite).length +
  ((List.range (tileCols * d)).filter fun n => !(b.value n).isFinite).length

/-! ### Normalisation (R46) -/

def rowMax (ws : List Dword) : Nat := (ws.filter (!·.getLsbD 58)).foldl (fun m w => max m (accMant w).natAbs) 0

/-- `Norm`: how far a row of greatest magnitude mx is shifted, to the left where negative. -/
def normShift (mx : Nat) (e : Int) : Int :=
  if mx = 0 then 0
  else if mx < 2 ^ 46 then -(min ((46 - mx.log2 : Nat) : Int) (e + 32768))
  else if mx < 2 ^ 47 then 0
  else
    let k : Nat := mx.log2 - 46
    let k : Nat := if (rneInt mx (-(k : Int))).1 < 2 ^ 47 then k else k + 1
    min (k : Int) (32767 - e)

/-- A word of a row shifted by `Norm`. -/
def normWord (w : Dword) (sh : Int) : Dword :=
  if w.getLsbD 58 then w
  else
    let (m, exact) := rneInt (accMant w) (-sh)
    accWith w m (!exact)

/-! ### Results bound for a tile -/

/-- The tile a result is bound for. -/
def Landing.tile : Landing → Option Nat
  | .beat t _ _ _ => some t
  | .clearTile t _ => some t
  | .setExp t _ _ => some t
  | .norm t => some t
  | _ => none

/-- What a result makes of the tile it is bound for. -/
def Landing.onTile (w : Landing) (v : TileView) : TileView :=
  match w with
  | .beat _ a b g =>
    match beatDepth (tagCode a.tag) (tagCode b.tag) with
    | some d => { v with word := fun i j => beatWord (v.word i j) (v.exp i) (beatPairs a b g d i j) }
    | none => v
  | .clearTile _ e => ⟨fun _ _ => 0, fun _ => e⟩
  | .setExp _ row e =>
    { v with exp := fun i =>
      match row with
      | some r => if i = r then e else v.exp i
      | none => e }
  | .norm _ =>
    let sh (i : Nat) : Int := normShift (rowMax ((List.range tileCols).map (v.word i))) (v.exp i).toInt
    ⟨fun i j => normWord (v.word i j) (sh i), fun i => BitVec.ofInt 16 ((v.exp i).toInt + sh i)⟩
  | _ => v

def touchesWord (ts : List Touch) (j : Nat) : Bool := ts.any fun t => t == .tile || t == .column j

def touchesExp (ts : List Touch) (i : Nat) : Bool :=
  ts.any fun t => t == .tile || t == .exponent none || t == .exponent (some i)

/-- The words and exponents that forms in breach touch old or new, as free coins say; the others new (R175). -/
def State.mixTile (s : State) (salt : Nat) (ts : List Touch) (old new : TileView) : TileView where
  word := fun i j =>
    if touchesWord ts j && !s.coin (salt * 8192 + i * tileCols + j) then old.word i j else new.word i j
  exp := fun i => if touchesExp ts i && !s.coin (salt * 8192 + 8000 + i) then old.exp i else new.exp i

/-- Results in flight of a context, those that the trap entry holds in the engines included. -/
def Context.engineResults (cx : Context) : List Flight := cx.flight ++ cx.held

def State.tileGen (s : State) (t : Nat) : Nat := (s.myCore.tileGen[t]?).getD 0

/-- A result on its way to a tile as it is held now; one of an earlier holder goes nowhere. -/
def State.boundFor (s : State) (t : Nat) (f : Flight) : Bool := f.what.tile == some t && f.gen == s.tileGen t

/-- Results on their way to a tile. -/
def State.tilePending (s : State) (t : Nat) : List Flight :=
  allCtxs.flatMap fun c => (s.ctx s.cur.core c).engineResults.filter (s.boundFor t)

/-- The tile as a form that reads it at issue finds it. -/
def State.tileSeen (s : State) (t : Nat) : TileView :=
  (s.tilePending t).foldl (fun v f => s.mixTile f.id [.tile] v (f.what.onTile v)) (s.tileView s.cur.core t)

/-- Marks the writes of a tile that are in flight with what a form in breach touches of it. -/
def State.breachTile (s : State) (t : Nat) (ts : List Touch) : State :=
  let mark (f : Flight) : Flight := if s.boundFor t f then { f with breach := f.breach ++ ts } else f
  allCtxs.foldl (fun s c => s.modCtx s.cur.core c fun cx =>
    { cx with flight := cx.flight.map mark, held := cx.held.map mark }) s

/-- Issues a write of a tile. A form that issues before an earlier write has landed leaves what it touches old or new:
the writes in flight and its own are marked (R175). -/
def State.landTile (s : State) (t : Nat) (w : Landing) (latency : Nat) (breach : Bool) (ts : List Touch := [.tile]) :
    State :=
  let s := s.landGen (s.tileGen t) w latency
  if breach then s.breachTile t ts else s

/-- A read of a tile in breach of R175 marks the writes in flight. -/
def State.touchTile (s : State) (t : Nat) (ts : List Touch) : State :=
  if (s.tilePending t).isEmpty then s else s.breachTile t ts

/-- The issuing task holds the tile, else PERM (R172). -/
def State.holdsTile (s : State) (t : Nat) : Bool :=
  match (s.myCore.tiles[t]?), s.me.task with
  | some (.held u), some m => u == m
  | _, _ => false

/-- A byte of a run of keys has an uncorrectable error. -/
def State.poisoned (s : State) (key n : Nat) : Bool := s.poison.any fun p => key ≤ p && p < key + n

/-- The words of a tile, of one of its columns, and its row exponents, as runs of keys. -/
def wordRuns (k : Fin 64) (t : Nat) : List (Nat × Nat) := [(accKey k t 0 0, 49152)]
def columnRuns (k : Fin 64) (t j : Nat) : List (Nat × Nat) := (List.range tileRows).map fun i => (accKey k t i j, 8)
def expRuns (k : Fin 64) (t : Nat) : List (Nat × Nat) := [(expKey k t 0, 2 * tileRows)]

/-- An error in what a form meets of the accumulator store traps POISON, the tile number in TADDR (R176). -/
def State.tileSound (s : State) (t : Nat) (runs : List (Nat × Nat)) : Except Stop Unit :=
  checkAt (!runs.any fun r => s.poisoned r.1 r.2) .poison (BitVec.ofNat 64 t)

/-- For a form that meets the whole tile. -/
def State.wholeSound (s : State) (t : Nat) : Except Stop Unit :=
  s.tileSound t (wordRuns s.cur.core t ++ expRuns s.cur.core t)

/-! ### Operand slots (R178-R180) -/

def State.slot (s : State) (n : Nat) : Slot := (s.myCore.slots[n]?).getD Slot.reset

def State.holdsSlot (s : State) (n : Nat) : Bool :=
  (s.slot n).state != .free && some (s.slot n).holder == s.me.task

def State.modSlot (s : State) (n : Nat) (f : Slot → Slot) : State :=
  s.modMyCore fun co => { co with slots := co.slots.setIfInBounds n (f ((co.slots[n]?).getD Slot.reset)) }

/-- Tags a slot may bear (R179). -/
def slotTag (t : Half) : Bool :=
  tagValid t && (tagCode t == 0x01 || tagCode t == 0x04 || tagCode t == 0x08 || 0x20 ≤ tagCode t)

/-- OCLAIM finds the slot HELD by another task: the context waits, and the bundle issues later (R100). -/
def State.slotTaken (s : State) (n : Nat) : Bool :=
  (s.slot n).state == .held && some (s.slot n).holder != s.me.task

/-- OCLAIM (R179): side and tag at issue; the contents are unpredictable. -/
def execOclaim (e : BitVec 1) (a : BitVec 5) (t : BitVec 16) (s : State) : Host.Outcome State Fault Refusal :=
  s.settle do
    check (slotTag t) .format
    check (!s.holdsSlot a.toNat) .illegal
    if s.slotTaken a.toNat then
      .ok (State.modMe { s with cur := { s.cur with stopped := true } } fun cx =>
        { cx with state := .waiting, wait := some (.oclaim a.toNat) })
    else
      match s.me.task with
      | none => trapWith .perm
      | some m =>
        let mem := s.mem.release (slotKey s.cur.core a.toNat 0 / tileBytes) 12 s.newGen
        .ok (State.modSlot { s with mem := mem } a.toNat fun sl =>
          ⟨.held, m, e = 1, t, sl.gen + 1⟩)

/-- ORELS (R179). -/
def execOrels (a : BitVec 6) (s : State) : Host.Outcome State Fault Refusal :=
  s.settle do
    check (s.holdsSlot a.toNat) .perm
    .ok (s.releaseSlot s.cur.core (Fin.ofNat 32 a.toNat))

/-- OLOAD (R180): the image lands in the slot at the end of c + 1. -/
def execOload (a b c : BitVec 6) (s : State) : Host.Outcome State Fault Refusal :=
  let (o, t) := s.readS 2 c
  let v := s.vreg 0 a.toNat
  s.settle do
    check (s.holdsSlot b.toNat) .perm
    check (tagValid v.tag && v.tag == (s.slot b.toNat).tag) .format
    let img := imageSize v.tag
    check (64 * o.toNat % img = 0 && 64 * o.toNat + img ≤ slotBytes) .illegal
    .ok (t.landGen (s.slot b.toNat).gen (.slotBytes b.toNat (64 * o.toNat) v.image) 2)

/-! ### Latches (R181) -/

/-- Elements of one slice of a slot (R178). -/
def sliceElems (sideB : Bool) (tag : Half) : Nat :=
  (if sideB then tileCols else tileRows) * (if tagCode tag = 0x01 then 2 else 8)

/-- Bytes of one slice. -/
def sliceBytes (sideB : Bool) (tag : Half) : Nat := sliceElems sideB tag * (widthOf (tagCode tag) / 8)

/-- A byte of a slot as it stands at issue (R174): an OLOAD in flight has not come. -/
def State.slotByte (s : State) (n off : Nat) : Byte := s.byte (slotKey s.cur.core n off)

/-- XPUSH and XSHFT: slice k into the B or the A latch. -/
def State.latchSlice (s : State) (sideB : Bool) (a : BitVec 6) (k : BitVec 8) : Host.Outcome State Fault Refusal :=
  let n := a.toNat
  let sl := s.slot n
  let len := sliceBytes sl.sideB sl.tag
  s.settle do
    check (s.holdsSlot n) .perm
    check (sl.sideB == sideB) .illegal
    check (tagValid sl.tag) .format
    check (k.toNat < slotBytes / len) .illegal
    let off := k.toNat * len
    let data := (List.range len).map fun i => s.slotByte n (off + i)
    .ok (s.land (.latch sideB ⟨sl.tag, data, s.poisoned (slotKey s.cur.core n off) len⟩) 1)

/-- XPUSH (R181). -/
def execXpush (a : BitVec 6) (k : BitVec 8) (s : State) : Host.Outcome State Fault Refusal := s.latchSlice true a k

/-- XSHFT (R181). -/
def execXshft (a : BitVec 6) (k : BitVec 8) (s : State) : Host.Outcome State Fault Refusal := s.latchSlice false a k

/-! ### Beats and tiles (R182-R186) -/

/-- XACC (R182). With `.g` the count of replaced elements is visible from c + 7 (R49). -/
def execXacc (a : BitVec 6) (g : BitVec 1) (n : BitVec 4) (s : State) : Host.Outcome State Fault Refusal :=
  let la := s.me.latchA
  let lb := s.me.latchB
  let t := a.toNat
  s.settle do
    match beatDepth (tagCode la.tag) (tagCode lb.tag) with
    | none => trapWith .format
    | some d =>
      check (tagValid la.tag && tagValid lb.tag) .format
      check (s.holdsTile t) .perm
      checkAt (!la.poison && !lb.poison) .poison (BitVec.ofNat 64 t)
      s.wholeSound t
      let breach := (s.tilePending t).any fun f =>
        match f.what with
        | .beat .. => false
        | _ => true
      let s := s.landTile t (.beat t la lb (g = 1)) 6 breach
      .ok (if g = 1 then s.land (.nfc n.toNat (beatReplaced la lb d)) 7 else s)

/-- XCLR (R172, R183): claims a FREE tile or clears one the task holds. -/
def execXclr (a : BitVec 6) (e : BitVec 16) (s : State) : Host.Outcome State Fault Refusal :=
  let t := a.toNat
  s.settle do
    match s.me.task with
    | none => trapWith .perm
    | some m =>
      check (s.holdsTile t || s.myCore.tiles[t]? == some .free) .perm
      let breach := !(s.tilePending t).isEmpty
      let s := s.modMyCore fun co => { co with tiles := co.tiles.setIfInBounds t (.held m) }
      .ok (s.landTile t (.clearTile t e) 2 breach)

/-- XNORM (R184). -/
def execXnorm (a : BitVec 6) (s : State) : Host.Outcome State Fault Refusal :=
  let t := a.toNat
  s.settle do
    check (s.holdsTile t) .perm
    s.wholeSound t
    .ok (s.landTile t (.norm t) 12 (!(s.tilePending t).isEmpty))

/-- XSEXP (R185): one row, or every row with `.all`. -/
def execXsexp (a b c : BitVec 6) (l : BitVec 1) (s : State) : Host.Outcome State Fault Refusal :=
  let t := a.toNat
  let (e, s1) := s.readS 1 b
  let (r, s2) := if l = 1 then (0, s1) else s1.readS 2 c
  s.settle do
    check (s.holdsTile t) .perm
    let row := if l = 1 then none else some (r.toNat % 64)
    .ok (s2.landTile t (.setExp t row (e.truncate 16)) 2 (!(s.tilePending t).isEmpty) [.exponent row])

/-- XGEXP (R185). -/
def execXgexp (a b : BitVec 6) (s : State) : Host.Outcome State Fault Refusal :=
  let t := b.toNat
  s.settle do
    check (s.holdsTile t) .perm
    s.tileSound t (expRuns s.cur.core t)
    let v := s.tileSeen t
    (s.touchTile t [.exponent none]).writeV a (mkTag 0x06 0) (Vector.ofFn fun i => (v.exp i).signExtend 32) allLanes 8

/-- XDRN (R186): column j under the destination's own tag. -/
def execXdrn (a : BitVec 5) (sat : BitVec 1) (m : BitVec 2) (j : BitVec 7) (t : BitVec 6) (s : State) :
    Host.Outcome State Fault Refusal :=
  s.settle do
    check (s.holdsTile t.toNat) .perm
    check (j.toNat ≤ 95) .illegal
    let old := s.vreg 2 a.toNat
    check (tagValid old.tag && codeWhole (tagCode old.tag)) .format
    s.tileSound t.toNat (columnRuns s.cur.core t.toNat j.toNat ++ expRuns s.cur.core t.toNat)
    let v := s.tileSeen t.toNat
    (s.touchTile t.toNat [.column j.toNat, .exponent none]).writeV (a.zeroExtend 6) old.tag
      (Vector.ofFn fun i => laneOf (laneWidth (tagCode old.tag))
        (enc old.tag (drainValue (v.word i j.toNat) (v.exp i)) (modeOf m) (sat = 1))) allLanes 8

/-- XDRN.raw (R186): the words of column j in a register pair, both tagged `acw`. -/
def execXdrnRaw (a : BitVec 4) (j : BitVec 7) (t : BitVec 6) (s : State) : Host.Outcome State Fault Refusal :=
  s.settle do
    check (s.holdsTile t.toNat) .perm
    check (j.toNat ≤ 95) .illegal
    s.tileSound t.toNat (columnRuns s.cur.core t.toNat j.toNat)
    let v := s.tileSeen t.toNat
    let col (off : Nat) : Lanes := Vector.ofFn fun i => (v.word i j.toNat).extractLsb' off 32
    let s ← (s.touchTile t.toNat [.column j.toNat]).writeV (a.zeroExtend 6 <<< 1) (mkTag 0x0F 0) (col 0) allLanes 8
    s.writeV ((a.zeroExtend 6 <<< 1) + 1) (mkTag 0x0F 0) (col 32) allLanes 8

end Sys2Proof.Machine
end

