-- ==== Sys2Proof/Machine/Sketch.lean ====
section
/-! DEFINITION. Sketch accumulators: descriptors, folds, bucks, accords, reads and writes (R194-R218). -/

namespace Sys2Proof.Machine

open Sys2Proof.Config

/-! ### The definition value (R194, R195) -/

def Sketch.m (d : Sketch) : Nat := bits d.definition 9 0 + 1
def Sketch.n (d : Sketch) : Nat := bits d.definition 19 10 + 1
/-- Rank limit r. -/
def Sketch.rank (d : Sketch) : Nat := bits d.definition 25 20 + 1
/-- Capacity C. -/
def Sketch.cap (d : Sketch) : Nat := d.rank + 1 + bits d.definition 31 26
/-- BF16 storage. -/
def Sketch.bf16 (d : Sketch) : Bool := d.definition.getLsbD 32
/-- TENS. -/
def Sketch.tens (d : Sketch) : Nat := bits d.definition 43 40
/-- BASE. -/
def Sketch.base (d : Sketch) : Nat := bits d.definition 53 48

/-- NT of R195. -/
def Sketch.nt (d : Sketch) : Nat :=
  ceilDiv ((d.m + d.n) * d.cap * (if d.bf16 then 2 else 4)) 49152 +
  ceilDiv (((d.m + d.n) * d.cap + 2 * d.cap * d.cap) * 4) 49152

def Sketch.tiles (d : Sketch) : List Nat := (List.range d.nt).map (d.base + ·)

/-- D(m, n, c) of R208. -/
def buckCycles (m n c : Nat) : Nat :=
  let g := ceilDiv m 64 + ceilDiv n 64
  let gc := ceilDiv c 64
  40 + 2 * c * (c + 8) * g + c * (c + 4) * gc + 5 * c * (c - 1) * (6 + 2 * gc) + 4 * c

/-- Columns a buck of c columns leaves (R204). -/
def Sketch.kept (d : Sketch) (c : Nat) : Nat := min d.rank (min d.n c)

def Sketch.factor (d : Sketch) (right : Bool) : Matrix := if right then d.right else d.left
def Sketch.height (d : Sketch) (right : Bool) : Nat := if right then d.n else d.m

/-! ### Results bound for a descriptor -/

/-- The descriptor a result is bound for. -/
def Landing.sketch : Landing → Option Nat
  | .skColumns n _ _ _ => some n
  | .skWrite n _ _ _ _ => some n
  | .skClear n _ => some n
  | .skSil n _ _ => some n
  | .skPoison n _ => some n
  | _ => none

/-- Puts columns at a position, columns of zeros standing where there are none yet. -/
def putColumns (x : Matrix) (h pos : Nat) (cols : Matrix) : Matrix :=
  (x ++ List.replicate (pos - x.length) (List.replicate h 0)).take pos ++ cols ++ x.drop (pos + cols.length)

/-- A block of 64 rows of a column from lanes; rows beyond the column are dropped. -/
def putBlock (col : List Word) (block : Nat) (lanes : Lanes) : List Word :=
  (List.range col.length).map fun i =>
    if i / 64 = block then lanes.get (Fin.ofNat 64 i) else col.getD i 0

def Sketch.clear (d : Sketch) (cols : Nat) : Sketch :=
  { d with
    defined := true, pois := false, silE := 0, silN := 0, silK := 0
    left := List.replicate cols (List.replicate d.m 0), right := List.replicate cols (List.replicate d.n 0) }

def Sketch.setSil (d : Sketch) (field : Nat) (v : Dword) : Sketch :=
  match field with
  | 0 => { d with silE := v }
  | 1 => { d with silN := v }
  | _ => { d with silK := v.truncate 32 }

def Sketch.sil (d : Sketch) (field : Nat) : Dword :=
  match field with
  | 0 => d.silE
  | 1 => d.silN
  | _ => d.silK.zeroExtend 64

/-- What a result makes of its descriptor. A poisoned one takes no columns (R205). -/
def Landing.onSketch (w : Landing) (d : Sketch) : Sketch :=
  match w with
  | .skColumns _ col l r =>
    if d.pois then d else { d with left := putColumns d.left d.m col l, right := putColumns d.right d.n col r }
  | .skWrite _ right col block lanes =>
    let old := ((d.factor right)[col]?).getD (List.replicate (d.height right) 0)
    let new := [putBlock old block lanes]
    if right then { d with right := putColumns d.right d.n col new } else { d with left := putColumns d.left d.m col new }
  | .skClear _ cols => d.clear cols
  | .skSil _ field v => d.setSil field v
  | .skPoison .. => { d with pois := true }
  | _ => d

def State.sketch (s : State) (n : Nat) : Sketch := (s.myCore.sketches[n]?).getD Sketch.reset

def State.modSketch (s : State) (n : Nat) (f : Sketch → Sketch) : State :=
  s.modMyCore fun co => { co with sketches := co.sketches.setIfInBounds n (f ((co.sketches[n]?).getD Sketch.reset)) }

/-- Inserts a result by its order of issue. -/
def insertById (f : Flight) : List Flight → List Flight
  | [] => [f]
  | g :: gs => if f.id < g.id then f :: g :: gs else g :: insertById f gs

def sortById (l : List Flight) : List Flight := l.foldr insertById []

/-- Results on their way to a descriptor, in order of issue. -/
def State.sketchPending (s : State) (n : Nat) : List Flight :=
  sortById (allCtxs.flatMap fun c => (s.ctx s.cur.core c).engineResults.filter fun f =>
    f.what.sketch == some n && f.gen == (s.sketch n).gen)

/-- Part of a descriptor as a form that reads it at issue finds it: each write in flight has come or not (R197), but what
`sure` names has. -/
def State.sketchWith (s : State) (sure : Landing → Bool) (n salt : Nat) (part : Sketch → α) : α :=
  ((s.sketchPending n).foldl (fun (v : α × Sketch) f =>
    let d := f.what.onSketch v.2
    (if sure f.what || s.coin (f.id * 2 ^ 20 + salt) then part d else v.1, d)) (part (s.sketch n), s.sketch n)).1

/-- Part of a descriptor as a form finds it while writes are in flight (R197). An element of a column that was not there
before a write counts as +0 before it: the model's choice (log entry 88). -/
def State.sketchSeen (s : State) (n salt : Nat) (part : Sketch → α) : α := s.sketchWith (fun _ => false) n salt part

/-- Salts of the parts of a descriptor, so that each is old or new by a choice of its own. -/
def poisSalt : Nat := 0
def silSalt (field : Nat) : Nat := 1 + field
def elemSalt (right : Bool) (i j : Nat) : Nat := 8 + (if right then 1 else 0) + 2 * (i + 1024 * j)

/-- POIS as a form finds it. -/
def State.poisSeen (s : State) (n : Nat) : Bool := s.sketchSeen n poisSalt Sketch.pois

/-- POIS as a fold that starts no buck finds it: such folds follow one another at any distance, in the order in which they
issue (R196, R198). -/
def State.poisFolded (s : State) (n : Nat) : Bool :=
  s.sketchWith (fun w => w == .skPoison n true) n poisSalt Sketch.pois

/-- Issues a write of a descriptor. -/
def State.landSketch (s : State) (n : Nat) (w : Landing) (latency : Nat) : State :=
  s.landGen (s.sketch n).gen w latency

/-! ### The checks of R196 -/

/-- FREE traps ILLEGAL, another task's PERM. -/
def State.sketchHeld (s : State) (n : Nat) : Except Stop Unit :=
  match (s.sketch n).holder with
  | none => trapWith .illegal
  | some t => check (some t == s.me.task) .perm

/-- The factors of a descriptor as they are seen at issue. -/
def State.factorsSeen (s : State) (n : Nat) (right : Bool) : Matrix :=
  let d := s.sketch n
  (List.range d.cols).map fun j => (List.range (d.height right)).map fun i =>
    s.sketchSeen n (elemSalt right i j) fun x => elemAt (x.factor right) i j

/-- What a form that works on a descriptor reads of it before earlier writes have landed; none where all have (R197). -/
def State.readEarly (s : State) (n : Nat) : Option Factors :=
  if (s.sketchPending n).isEmpty then none
  else some ⟨s.poisSeen n, s.sketchSeen n (silSalt 0) Sketch.silE, s.sketchSeen n (silSalt 1) Sketch.silN,
    s.sketchSeen n (silSalt 2) Sketch.silK, s.factorsSeen n false, s.factorsSeen n true⟩

/-- Defined and not busy. -/
def State.sketchReady (s : State) (n : Nat) : Except Stop Unit :=
  check ((s.sketch n).defined && (s.sketch n).busy.isNone) .illegal

/-- A tile of the descriptor with an uncorrectable error (R205). The arrangement in the tiles is not visible (R195): a form
that works on the descriptor meets an error in any of them, the ones for a buck's working values among them: the model's
choice (log entry 89). -/
def State.sketchError (s : State) (k : Fin 64) (d : Sketch) : Option Nat :=
  d.tiles.find? fun t => s.poisoned (accKey k t 0 0) 49152

/-! ### Folds (R198-R200) -/

/-- One column element: its tag and bits. -/
abbrev Element := Half × Nat

/-- The element as it is stored; none if it poisons the descriptor. -/
def foldElem (bf16 g : Bool) (x : Element) : Option Word :=
  if isNonFinite x.1 x.2 then (if g then some 0 else none) else storeElem bf16 (val x.1 x.2)

/-- Columns as they are stored; none if an element poisons. -/
def foldColumns (bf16 g : Bool) (cols : List (List Element)) : Option Matrix := cols.mapM (·.mapM (foldElem bf16 g))

/-- Elements that gradient mode replaces. -/
def replacedIn (cols : List (List Element)) : Nat := (cols.map fun c => (c.filter fun x => isNonFinite x.1 x.2).length).sum

/-- A fold of k columns (R198), which bucks first where they do not fit. -/
def State.fold (s : State) (n : Nat) (g : Bool) (k latency : Nat) (left right : List (List Element)) : State :=
  let d := s.sketch n
  let bucks : Bool := d.cap < d.cols + k
  let dead := if bucks then s.poisSeen n else s.poisFolded n
  let data := (foldColumns d.bf16 g left).bind fun l => (foldColumns d.bf16 g right).map fun r => (l, r)
  let wait := if bucks then buckCycles d.m d.n d.cols else 0
  let pos := if bucks then d.kept d.cols else d.cols
  let early := s.readEarly n
  let counted := if g && !dead then some s.nextId else none
  let s := if g && !dead then s.land (.nfc d.tens (replacedIn left + replacedIn right)) (wait + latency + 1) else s
  let (l, r) := data.getD ([], [])
  let s := if dead || data.isNone then s else s.modSketch n fun d => { d with cols := pos + k }
  if bucks then
    s.modSketch n fun x =>
      { x with busy := some ⟨s.cur.ctx, wait + latency, d.cols, early, .fold l r (!dead && data.isNone), counted⟩ }
  else if dead then s
  else if data.isNone then s.landSketch n (.skPoison n true) latency
  else s.landSketch n (.skColumns n pos l r) latency

/-- Codes a fold accepts (R198). -/
def foldTag (t : Half) : Bool := tagValid t && codeFloat (tagCode t)

/-- The registers from `first` on that hold h elements. -/
def groupRegs (first : BitVec 6) (h : Nat) : List Nat := (List.range (ceilDiv h 64)).map (first.toNat + ·)

/-- Elements of a column from a group of registers. -/
def State.groupElems (s : State) (first : BitVec 6) (h : Nat) : List Element :=
  ((groupRegs first h).flatMap fun r =>
    let v := s.vreg 0 r
    v.lanes.toList.map fun l => (v.tag, l.toNat)).take h

/-- A fold on this descriptor reads nothing: it is poisoned (R198). -/
def State.foldsNothing (s : State) (n k : Nat) : Bool :=
  if (s.sketch n).cap < (s.sketch n).cols + k then s.poisSeen n else s.poisFolded n

/-- SKFOLD (R199). FORMAT stands before the check of the holder (R196), so that of another task's descriptor the registers
that its m and n name are tested, and of a FREE one, which has neither, none: the model's choice (log entry 90). -/
def execSkfold (g : BitVec 1) (a : BitVec 4) (b c : BitVec 6) (s : State) : Host.Outcome State Fault Refusal :=
  let n := a.toNat
  let d := s.sketch n
  let regs := groupRegs b d.m ++ groupRegs c d.n
  s.settle do
    check (d.holder.isNone || s.foldsNothing n 1 || (regs.filter (· < 32)).all fun r => foldTag (s.vreg 0 r).tag) .format
    s.sketchHeld n
    s.sketchReady n
    check (regs.all (· < 32)) .illegal
    .ok (s.fold n (g = 1) 1 4 [s.groupElems b d.m] [s.groupElems c d.n])

/-- Column t of an operand slot read as a column-major matrix of h rows (R200). -/
def State.slotColumn (s : State) (n h t : Nat) : List Element :=
  let w := widthOf (tagCode (s.slot n).tag) / 8
  (List.range h).map fun i =>
    ((s.slot n).tag, leValue ((List.range w).map fun j => s.slotByte n ((t * h + i) * w + j)))

/-- SKFOLDO (R200). A poisoned descriptor makes it read nothing, so neither the slots' tags nor their errors stop it
(R198). -/
def execSkfoldo (g : BitVec 1) (a : BitVec 4) (n : BitVec 6) (r l : BitVec 5) (s : State) :
    Host.Outcome State Fault Refusal :=
  let sk := a.toNat
  let d := s.sketch sk
  let b := n.toNat + 1
  let bytes (slot h : Nat) : Nat := b * h * (widthOf (tagCode (s.slot slot).tag) / 8)
  let dead := s.foldsNothing sk b
  s.settle do
    s.sketchHeld sk
    check (s.holdsSlot l.toNat && s.holdsSlot r.toNat) .perm
    check (dead || (foldTag (s.slot l.toNat).tag && foldTag (s.slot r.toNat).tag)) .format
    s.sketchReady sk
    check (b ≤ d.cap - d.rank && bytes l.toNat d.m ≤ slotBytes && bytes r.toNat d.n ≤ slotBytes) .illegal
    check (dead || (!s.poisoned (slotKey s.cur.core l.toNat 0) (bytes l.toNat d.m) &&
      !s.poisoned (slotKey s.cur.core r.toNat 0) (bytes r.toNat d.n))) .poison
    .ok (s.fold sk (g = 1) b (4 + b * (ceilDiv d.m 64 + ceilDiv d.n 64))
      ((List.range b).map (s.slotColumn l.toNat d.m)) ((List.range b).map (s.slotColumn r.toNat d.n)))

/-! ### Bucks and accords (R208-R211) -/

/-- SKSHR (R210). On a poisoned descriptor it changes nothing (R205). The column count moves at issue, and stays where a
value that is not finite then sets POIS: the model's choice (log entry 75). -/
def execSkshr (a : BitVec 6) (s : State) : Host.Outcome State Fault Refusal :=
  let n := a.toNat
  let d := s.sketch n
  s.settle do
    s.sketchHeld n
    s.sketchReady n
    let dead := s.poisSeen n
    .ok (s.modSketch n fun x =>
      { x with
        cols := if dead then x.cols else x.kept x.cols
        busy := some ⟨s.cur.ctx, buckCycles d.m d.n d.cols, d.cols, s.readEarly n, .buck, none⟩ })

/-- SKACC (R211). COLS of a destination that is, was or will be poisoned is what it would be without the poison (log entry
75). -/
def execSkacc (a b : BitVec 6) (s : State) : Host.Outcome State Fault Refusal :=
  let x := s.sketch a.toNat
  let y := s.sketch b.toNat
  s.settle do
    check (a ≠ b) .illegal
    check (x.holder.isSome && y.holder.isSome) .illegal
    s.sketchHeld a.toNat
    s.sketchHeld b.toNat
    s.sketchReady a.toNat
    s.sketchReady b.toNat
    check (x.m = y.m && x.n = y.n && y.cols ≤ x.cap - x.rank) .illegal
    let p := if x.cap < x.cols + y.cols then buckCycles x.m x.n x.cols else 0
    let mid := (if x.cap < x.cols + y.cols then x.kept x.cols else x.cols) + y.cols
    let q := if x.rank < mid then buckCycles x.m x.n mid else 0
    let total := p + 8 + y.cols * (ceilDiv x.m 64 + ceilDiv x.n 64) + q
    let op := BusyOp.accord y.bf16 (s.poisSeen b.toNat) (s.factorsSeen b.toNat false) (s.factorsSeen b.toNat true)
      (s.sketchSeen b.toNat (silSalt 0) Sketch.silE) (s.sketchSeen b.toNat (silSalt 1) Sketch.silN)
      (s.sketchSeen b.toNat (silSalt 2) Sketch.silK) b.toNat
    let early := s.readEarly a.toNat
    let s := s.modSketch a.toNat fun x =>
      { x with
        cols := if x.rank < mid then x.kept mid else mid
        busy := some ⟨s.cur.ctx, total, x.cols, early, op, none⟩ }
    .ok (s.modSketch b.toNat fun y => { y with busy := some ⟨s.cur.ctx, total, y.cols, none, .source, none⟩ })

/-- Factors that nothing constrains. -/
def State.freeFactor (s : State) (salt : Nat) (bf16 : Bool) (h c : Nat) : Matrix :=
  (List.range c).map fun j => (List.range h).map fun i =>
    BitVec.ofNat 32 ((s.free (salt + 2 * (i + 1024 * j))).toNat % 2 ^ (if bf16 then 16 else 32))

/-- The descriptor with unpredictable factors of c columns. -/
def State.freeFactors (s : State) (d : Sketch) (c : Nat) : Sketch :=
  { d with left := s.freeFactor 0 d.bf16 d.m c, right := s.freeFactor 1 d.bf16 d.n c }

/-- FP64 sum on bit patterns; the sillage adds whatever stands there (R207). -/
def Sketch.addSil (d : Sketch) (e n : Dword) (k : Nat) : Sketch :=
  { d with silE := add64 d.silE e, silN := add64 d.silN n, silK := BitVec.ofNat 32 (satAdd32 d.silK.toNat k) }

/-- `Buck` on a descriptor of c columns: nothing on a poisoned one; where a value is not finite, POIS is set, the
sillage stands and the factors are unpredictable (R205). -/
def State.runBuck (s : State) (d : Sketch) (c : Nat) : Sketch :=
  if d.pois then d
  else
    match buck d.bf16 d.m d.n d.rank (putColumns d.left d.m c [] |>.take c) (putColumns d.right d.n c [] |>.take c) with
    | none => { s.freeFactors d (d.kept c) with pois := true }
    | some b => { d with left := b.left, right := b.right }.addSil b.energy (toF64 (f64 b.energy).sqrt) 1

/-- Elements of the source of an accord in the destination's storage; none if one poisons. -/
def accordColumns (src dst : Bool) (cols : Matrix) : Option Matrix :=
  cols.mapM (·.mapM fun w => storeElem dst (val (storageTag src) w.toNat))

/-- The descriptor as the form that made it busy has read it. -/
def Busy.seen (b : Busy) (d : Sketch) : Sketch :=
  match b.early with
  | none => d
  | some f => { d with pois := f.pois, silE := f.silE, silN := f.silN, silK := f.silK, left := f.left, right := f.right }

/-- What a buck or accord leaves of its descriptor (R198, R204, R211). One that has issued before earlier writes landed
works on what it read, old or new (R197); the factors that its bucks leave are unpredictable (R198, R208), and POIS stands
where such a write has set it. -/
def State.endBusy (s : State) (d : Sketch) (b : Busy) : Sketch :=
  let x := b.seen d
  let runs (x : Sketch) (c : Nat) : Sketch :=
    let y := s.runBuck x c
    if b.early.isSome && !y.pois then s.freeFactors y (d.kept c) else y
  let stands (y : Sketch) : Sketch := { y with pois := y.pois || d.pois }
  match b.op with
  | .source => d
  | .buck => if x.pois then d else stands (runs x b.cols)
  | .fold l r poisons =>
    if x.pois then d
    else if poisons then { d with pois := true }
    else
      let y := runs x b.cols
      if y.pois then { y with cols := b.cols }
      else
        let pos := d.kept b.cols
        stands { y with left := putColumns y.left y.m pos l, right := putColumns y.right y.n pos r }
  | .accord bf16 pois l r e n k _ =>
    let first : Bool := d.cap < b.cols + l.length
    let y := if first then runs x b.cols else x
    let pos := if first then d.kept b.cols else b.cols
    let y :=
      match accordColumns bf16 d.bf16 l, accordColumns bf16 d.bf16 r with
      | some l, some r => { y with left := putColumns y.left y.m pos l, right := putColumns y.right y.n pos r }
      | _, _ => { y with pois := true }
    let y := y.addSil e n k.toNat
    let y := if d.rank < pos + l.length then runs y (pos + l.length) else y
    { y with pois := y.pois || d.pois || x.pois || pois }

/-- The descriptor whose tiles a completing form finds an error in, its own or an accord's source. One that is poisoned is
not read: its bucks change nothing (R205). -/
def State.busyError (s : State) (core : Fin 64) (d : Sketch) (b : Busy) : Option Nat :=
  let own := if (b.seen d).pois then none else s.sketchError core d
  match b.op with
  | .fold _ _ true => none
  | .accord _ pois _ _ _ _ _ src =>
    own.or (if pois then none else s.sketchError core (((s.core core).sketches[src]?).getD Sketch.reset))
  | _ => own

/-- COLS of a descriptor that an error in its tiles poisons: a fold leaves it as it was (R198); SKSHR and SKACC leave what
they set at issue, the model's choice (log entry 34). -/
def Busy.colsKept (b : Busy) (d : Sketch) : Nat :=
  match b.op with
  | .fold .. => b.cols
  | _ => d.cols

/-- A fold that an error ends counts no replaced element (R49, R270). -/
def Busy.uncount (b : Busy) (cx : Context) : Context :=
  let other (f : Flight) : Bool := some f.id != b.nfc
  { cx with flight := cx.flight.filter other, snapshot := cx.snapshot.filter other, held := cx.held.filter other }

/-- SKETCH_BUSY_END (R208): a buck or accord completes. An uncorrectable error in the tiles of a descriptor it works on
poisons that descriptor, and the destination of an accord, and traps POISON in the context that issued the form (R205):
before its next bundle once the window is over, as of a fault of earlier work (R334), the model's choice (log entry 89). -/
def execSketchBusyEnd (core : Fin 64) (sk : Fin 16) (s : State) : Host.Outcome State Fault Refusal :=
  let d := (s.core core).sketches.get sk
  match d.busy with
  | none => .next s
  | some b =>
    if 1 < b.left then .next s
    else
      let set (s : State) (d : Sketch) : State := s.modCore core fun co => { co with sketches := co.sketches.set sk d }
      match s.busyError core d b with
      | some t =>
        let bad := { d with pois := true, cols := b.colsKept d, busy := none }
        if b.op = .source then .next (set s bad)
        else .next ((set s.countError bad).modCtx core b.ctx fun cx =>
          (b.uncount cx).latch .poison (BitVec.ofNat 64 t) 0)
      | none => .next (set s { s.endBusy d b with busy := none })

/-! ### Moving factors and state (R215-R218) -/

/-- Column and row block of a position; other bits trap ILLEGAL. -/
def position (x : Dword) : Except Stop (Nat × Nat) :=
  (check (x &&& ~~~(0xF7F#64) = 0) .illegal).map fun _ => (bits x 6 0, bits x 11 8)

/-- SKRDL and SKRDR. -/
def State.readFactor (s : State) (a b c : BitVec 6) (right : Bool) : Host.Outcome State Fault Refusal :=
  let n := b.toNat
  let (x, t) := s.readS 2 c
  let d := s.sketch n
  let pre : Except Stop (Nat × Nat) := do
    let (j, blk) ← position x
    s.sketchHeld n
    s.sketchReady n
    check (j < d.cols && 64 * blk < d.height right) .illegal
    .ok (j, blk)
  match pre with
  | .error e => s.settle (.error e)
  | .ok (j, blk) =>
    let dead := s.poisSeen n
    match if dead then none else s.sketchError s.cur.core d with
    | some tile => (s.modSketch n fun d => { d with pois := true }).settle (trapAt .poison (BitVec.ofNat 64 tile))
    | none =>
      let nan : Word := if d.bf16 then 0x7FC0 else 0x7FC00000
      s.settle (t.writeV a (storageTag d.bf16) (Vector.ofFn fun i =>
        if d.height right ≤ 64 * blk + i then 0
        else if dead then nan
        else s.sketchSeen n (elemSalt right (64 * blk + i) j) fun d =>
          elemAt (d.factor right) (64 * blk + i) j) allLanes 5)

/-- SKRDL (R215). -/
def execSkrdl (a b c : BitVec 6) (s : State) : Host.Outcome State Fault Refusal := s.readFactor a b c false

/-- SKRDR (R215). -/
def execSkrdr (a b c : BitVec 6) (s : State) : Host.Outcome State Fault Refusal := s.readFactor a b c true

/-- SKWRL and SKWRR. A non-finite element of a row that exists sets POIS. -/
def State.writeFactor (s : State) (a b c : BitVec 6) (right : Bool) : Host.Outcome State Fault Refusal :=
  let n := a.toNat
  let (x, t) := s.readS 2 c
  let d := s.sketch n
  s.settle do
    let v ← s.readV 1 b
    let (j, blk) ← position x
    s.sketchHeld n
    check (v.tag == storageTag d.bf16) .format
    s.sketchReady n
    check (j < d.cols && 64 * blk < d.height right) .illegal
    let bad := (List.finRange 64).any fun i =>
      64 * blk + i.val < d.height right && isNonFinite v.tag (v.lanes.get i).toNat
    let t := t.landSketch n (.skWrite n right j blk (Vector.ofFn fun i => laneOf (laneWidth (tagCode v.tag)) (v.lanes.get i).toNat)) 2
    .ok (if bad then t.landSketch n (.skPoison n false) 2 else t)

/-- SKWRL (R215). -/
def execSkwrl (a b c : BitVec 6) (s : State) : Host.Outcome State Fault Refusal := s.writeFactor a b c false

/-- SKWRR (R215). -/
def execSkwrr (a b c : BitVec 6) (s : State) : Host.Outcome State Fault Refusal := s.writeFactor a b c true

/-- SKSIL (R216): reads or writes E, N or K. -/
def execSksil (a b : BitVec 6) (w : BitVec 1) (f : BitVec 2) (s : State) : Host.Outcome State Fault Refusal :=
  let n := b.toNat
  if w = 1 then
    let (v, t) := s.readS 2 a
    s.settle do
      s.sketchHeld n
      s.sketchReady n
      .ok (t.landSketch n (.skSil n f.toNat v) 2)
  else
    s.settle do
      s.sketchHeld n
      s.sketchReady n
      s.writeS a (s.sketchSeen n (silSalt f.toNat) fun d => d.sil f.toNat) 2

/-- SKCLR (R195, R217): clears to a column count, or frees the descriptor at issue. -/
def execSkclr (a b : BitVec 6) (f : BitVec 1) (s : State) : Host.Outcome State Fault Refusal :=
  let n := a.toNat
  if f = 1 then
    s.settle do
      s.sketchHeld n
      s.sketchReady n
      .ok (s.releaseSketch s.cur.core (Fin.ofNat 16 n))
  else
    let (v, t) := s.readS 1 b
    s.settle do
      s.sketchHeld n
      s.sketchReady n
      check (v.toNat ≤ (s.sketch n).cap) .illegal
      .ok ((t.modSketch n fun d => { d with cols := v.toNat }).landSketch n (.skClear n v.toNat) 2)

/-- Fields of a definition value that must be zero (R194). -/
def definitionReserved : Dword := 0xFFC0F0FE00000000

/-- SKDEF (R218): the holder and the tiles at issue; defined once it lands. -/
def execSkdef (a : BitVec 4) (b : BitVec 6) (s : State) : Host.Outcome State Fault Refusal :=
  let n := a.toNat
  let (v, t) := s.readS 1 b
  let new : Sketch := { Sketch.reset with definition := v }
  s.settle do
    match s.me.task with
    | none => trapWith .perm
    | some m =>
      check ((s.sketch n).holder != some m && v &&& definitionReserved == 0 && new.base + new.nt ≤ 64) .illegal
      check ((s.sketch n).holder.isNone && new.tiles.all fun i =>
        s.myCore.tiles[i]? == some .free || s.myCore.tiles[i]? == some (.held m)) .perm
      let t := t.modMyCore fun co =>
        { co with
          tiles := new.tiles.foldl (fun ts i => ts.setIfInBounds i (.sketch n)) co.tiles
          tileGen := new.tiles.foldl (fun g i => g.setIfInBounds i ((g[i]?).getD 0 + 1)) co.tileGen }
      let t := t.modSketch n fun d => { new with holder := some m, gen := d.gen + 1 }
      .ok (t.landSketch n (.skClear n 0) 2)

/-- SKSTAT (R218): COLS as of issue. -/
def execSkstat (a b : BitVec 6) (s : State) : Host.Outcome State Fault Refusal :=
  let n := b.toNat
  let d := s.sketch n
  s.settle do
    s.sketchHeld n
    s.sketchReady n
    s.writeS a (BitVec.ofNat 64 (d.cap * 2 ^ 40 + d.rank * 2 ^ 32 + d.nt * 2 ^ 16 + d.base * 2 ^ 10 +
      bit (s.poisSeen n) * 2 ^ 9 + 2 ^ 8 + d.cols)) 2

end Sys2Proof.Machine
end

