-- ==== Sys2Proof/Machine/Landing.lean ====
section
/-! DEFINITION. Results and accesses reaching their places: what lands at the end of a cycle, the accesses of local
memory and the landing, and the asynchronous accesses of main memory (R58, R59, R131, R132, R229). -/

namespace Sys2Proof.Machine

open Sys2Proof.Config

/-! ### Registers -/

def Context.setScalar (cx : Context) (r : Nat) (v : Dword) : Context :=
  if r = 0 then cx else { cx with sregs := cx.sregs.setIfInBounds r v }

def Context.setPred (cx : Context) (q : Nat) (v : Dword) : Context := { cx with preds := cx.preds.setIfInBounds q v }

def Context.setVec (cx : Context) (r : Nat) (tag : Half) (lanes : Lanes) (which : Dword) : Context :=
  let old := (cx.vregs[r]?).getD VReg.zero
  { cx with vregs := cx.vregs.setIfInBounds r ⟨tag, mergeLanes old.lanes lanes which⟩ }

/-- A result bound for the context's own state. -/
def Landing.onContext (w : Landing) (cx : Context) : Context :=
  match w with
  | .scalar r v => cx.setScalar r v
  | .vector r tag lanes which => cx.setVec r tag lanes which
  | .pred q v => cx.setPred q v
  | .link v => cx.setScalar 31 v
  | .record vs =>
    let d (i : Nat) : Dword := (vs[i]?).getD 0
    ((((cx.setScalar 28 (d 0)).setScalar 29 (d 1)).setScalar 30 (d 2)).setScalar 31 (d 3)).setPred 23 (d 4)
  | .nfc n amount =>
    { cx with nfc := cx.nfc.setIfInBounds n (BitVec.ofNat 32 (satAdd32 ((cx.nfc[n]?).getD 0).toNat amount)) }
  | .latch sideB l => if sideB then { cx with latchB := l } else { cx with latchA := l }
  | _ => cx

/-! ### Fabric FIFOs (R300, R301) -/

/-- Entries of an fi and those on their way to it. -/
def State.fifoUse (s : State) (k : Fin 64) (c f : Fin 4) : Nat :=
  ((s.ctx k c).fi.get f).length + (s.fifoq.filter fun e => e.1 == k && e.2.1 == c && e.2.2.1 == f).length

/-- A push leaves the context; none while the receiving fi has no free entry. Of another device's fi the entries reserved to this
register are not known here: a free choice of each cycle says whether there is one (R301; log entry 95). -/
def State.pushFo (s : State) (k : Fin 64) (c : Fin 4) (f : Nat) (v : Dword) : Option State :=
  let b := s.binding k c f
  let k' : Fin 64 := Fin.ofNat 64 (bits b 13 8)
  let c' : Fin 4 := Fin.ofNat 4 (bits b 3 2)
  let f' : Fin 4 := Fin.ofNat 4 (bits b 1 0)
  let rank : BitVec 7 := BitVec.ofNat 7 (bits b 22 16)
  if rank = s.rank then
    if s.fifoUse k' c' f' < fifoDepth then
      some { s with fifoq := s.fifoq ++ [(k', c', f', v, (k.val * 4 + c.val) * 4 + f)] }
    else none
  else
    let ch := bits b 35 32
    let link := s.linkTo rank
    if 0 < s.credit link ch && farEntry s.sclk.toNat b.toNat then some ((s.sendFlit link ch).emit (.fifoOut rank k' c' f' v)) else none

/-- A push of the core waits at its landing cycle (R60). -/
def State.pushWaits (s : State) (k : Fin 64) : Bool :=
  allCtxs.any fun c => (s.ctx k c).flight.any fun f =>
    match f.what with
    | .push n v => f.left ≤ 1 && (s.pushFo k c n v).isNone
    | _ => false

/-! ### Results landing (R58) -/

/-- Sketch results issued earlier than one that lands are applied before it (R196); what reads between the two landings then
finds them, where R197 leaves old or new: the model's choice (log entry 86). -/
def State.sketchEarlier (s : State) (k : Fin 64) (n id : Nat) : State :=
  let mine (f : Flight) : Bool := f.what.sketch == some n && f.id < id
  let due := sortById (allCtxs.flatMap fun c => (s.ctx k c).engineResults.filter mine)
  let s := due.foldl (fun s f => s.modCore k fun co =>
    let d := (co.sketches[n]?).getD Sketch.reset
    { co with sketches := co.sketches.setIfInBounds n (if f.gen = d.gen then f.what.onSketch d else d) }) s
  allCtxs.foldl (fun s c => s.modCtx k c fun cx =>
    { cx with flight := cx.flight.filter (!mine ·), held := cx.held.filter (!mine ·) }) s

/-- A result reaches its destination; one that a later write has passed leaves the register either way (R59). -/
def State.applyFlight (s : State) (k : Fin 64) (c : Fin 4) (f : Flight) : State :=
  let co := s.core k
  match f.what with
  | .push n v => (s.pushFo k c n v).getD s
  | .slotBytes n off data =>
    if ((co.slots[n]?).getD Slot.reset).gen = f.gen then s.put (slotKey k n off) data else s
  | .table n entries scale =>
    let t := (co.tables[n]?).getD Table.reset
    if t.gen = f.gen then
      s.modCore k fun co => { co with tables := co.tables.setIfInBounds n { t with entries := entries, scale := scale } }
    else s
  | .beat t .. | .clearTile t _ | .setExp t _ _ | .norm t =>
    if (co.tileGen[t]?).getD 0 = f.gen then
      let old := s.tileView k t
      let new := f.what.onTile old
      s.putTile k t (s.mixTile f.id f.breach old new)
    else s
  | .skColumns n .. | .skWrite n .. | .skClear n _ | .skSil n .. | .skPoison n _ =>
    let s := s.sketchEarlier k n f.id
    s.modCore k fun co =>
      let d := (co.sketches[n]?).getD Sketch.reset
      { co with sketches := co.sketches.setIfInBounds n (if f.gen = d.gen then f.what.onSketch d else d) }
  | w => if f.overtaken && !s.coin (choice f.id 7) then s else s.modCtx k c w.onContext

/-- The value of a pending result is known: it replaces the promise of it, in flight or in the snapshot. -/
def Context.fill (cx : Context) (id : Nat) (ws : List Landing) : Context :=
  let waits (f : Flight) : Bool :=
    f.id == id &&
    match f.what with
    | .load _ | .await _ => true
    | _ => false
  let put (f : Flight) : List Flight := if waits f then ws.map fun w => { f with what := w } else [f]
  { cx with flight := cx.flight.flatMap put, snapshot := cx.snapshot.flatMap put }

/-- Source bytes of messages that are written before the charge is off: but of those that are spared the payload may still
have what they held (R107). -/
def State.stain (s : State) (spared : Message → Bool) (keys : List Nat) : State :=
  { s with messages := s.messages.map fun m =>
      if spared m || !m.data.isEmpty then m
      else { m with stale := m.stale ++ (keys.filter m.src.contains).map fun x => (x, s.byte x) } }

/-- Source bytes of accepted commands that a store issued later writes before the command's charges are off: what is
copied from them is unpredictable (R146), and so of messages (R107). -/
def State.soil (s : State) (id : Nat) (keys : List Nat) : State :=
  let s := s.stain (id < ·.id) keys
  if keys.isEmpty || !allCores.any fun k => allCtxs.any fun c => !((s.core k).channels.get c).isEmpty then s
  else
    s.foldCores fun s k => s.modCore k fun co =>
      { co with channels := co.channels.map fun l => l.map fun cmd =>
          if id < cmd.id then cmd else { cmd with dirty := cmd.dirty ++ keys } }

/-! ### Main memory (R132, R229) -/

/-- Own stores that stand before an access in program order and have not been performed. -/
def Context.storesBefore (cx : Context) (id : Nat) : List (Nat × Byte) :=
  (cx.async.takeWhile (·.id != id)).flatMap fun a =>
    match a.act with
    | .write cells => cells
    | _ => []

/-- A byte as a load of the context finds it (R229). -/
def State.byteFor (s : State) (own : List (Nat × Byte)) (k : Nat) : Byte :=
  own.foldl (fun b c => if c.1 = k then c.2 else b) (s.byte k)

/-- The channel of a contribution to a window (R303). -/
def State.windowChannel (s : State) (w : Nat) : Nat := bits (s.rdWindow w).dword1 43 40
def State.windowHome (s : State) (w : Nat) : BitVec 7 := BitVec.ofNat 7 (bits (s.rdWindow w).dword1 22 16)

/-- Credits for a flit to each of these devices on channel 0 (R299). -/
def State.creditsFor (s : State) (ranks : List (BitVec 7)) : Bool :=
  ranks.all fun r => (ranks.filter fun q => s.linkTo q == s.linkTo r).length ≤ s.credit (s.linkTo r) 0

/-- The virtual channels that an access of other devices takes have the credits (R299). -/
def State.ringOpen (s : State) (act : MemAct) : Bool :=
  match act with
  | .contribute w _ _ _ _ =>
    s.windowHome w == s.rank || 0 < s.credit (s.linkTo (s.windowHome w)) (s.windowChannel w)
  | _ => s.creditsFor (peersOf act.keys)

/-- The access reaches another device: a word or a window that a peer holds. -/
def State.goesFar (s : State) (a : Async) : Bool :=
  a.act.keys.any (peerBase ≤ ·) ||
  match a.act with
  | .contribute w _ _ _ _ => s.windowHome w != s.rank
  | _ => false

/-- So does an access of main memory that has not been made. -/
def State.farDue (s : State) (id : Nat) : Bool :=
  allCores.any fun k => allCtxs.any fun c => (s.ctx k c).async.any fun a => a.id == id && s.goesFar a

/-- What is preserved before the access may still be passed: it stands before it for the agents of some scope alone. No
claim, and no access of local memory or the landing, whose cycles are fixed, is passed; nor one before or after another
device's memory, where that device's agents, whose accesses of their own memory are not known here, lie in the scope. -/
def State.unbarred (s : State) (a : Async) : Bool :=
  a.within.all fun p => !s.outstanding p.1 || (s.unmade p.1 && (p.2 < 4 || !(s.goesFar a || s.farDue p.1)))

/-- No access that R22 or R224 puts before this one is still to make one of these bytes. -/
def State.clearFor (s : State) (a : Async) (keys : List Nat) : Bool := !(s.bytesDue a.after).any keys.contains

/-- The access may be performed now, all of it. -/
def State.mayPerform (s : State) (a : Async) : Bool :=
  !a.fresh && !a.suspended && s.unbarred a && !s.ahead a && s.clearFor a a.act.keys &&
    !s.blockedOnSectors s.nextId a.act.keys

/-- The access may begin to be performed: in its order, or by a free choice ahead of accesses that stand before it for
the agents of some scope alone (log entry 8). Each of its events must then be one that R229 allows. -/
def State.mayStart (s : State) (a : Async) : Bool :=
  !a.fresh && !a.suspended && s.unbarred a && (!s.ahead a || s.coin (choice a.id 6))

/-- Some of a list, by free choices, and one at least; of blocks, which go in ascending order (R279), some first ones. -/
def State.someOf (s : State) (inOrder : Bool) (l : List α) : List α :=
  match l with
  | [] => []
  | [x] => [x]
  | x :: xs =>
    if inOrder then x :: ((xs.zipIdx.map fun p => (p.1, s.coin (2 ^ 32 + p.2))).takeWhile (·.2)).map (·.1)
    else
      match (l.zipIdx.filter fun p => s.coin (2 ^ 32 + p.2)).map (·.1) with
      | [] => (l[(s.free (2 ^ 34)).toNat % l.length]?).toList
      | chosen => chosen

/-- The access, or the part, has been performed: its charge is taken off. -/
def State.performed (s : State) (k : Fin 64) (c : Fin 4) (a : Async) : State :=
  let s := s.modCtx k c fun cx => { cx with async := cx.async.filter (·.id != a.id), pbmem := cx.pbmem - a.charge }
  { s with waitingWrites := s.waitingWrites.filter (·.writer != .context k c a.id) }

/-- Every part of the access that a part belongs to is done with. -/
def State.wholePerformed (s : State) (k : Fin 64) (c : Fin 4) (a : Async) : State :=
  ((s.ctx k c).partsOf a.whole).foldl (fun s p => s.performed k c p) s

def State.modAsync (s : State) (k : Fin 64) (c : Fin 4) (id : Nat) (f : Async → Async) : State :=
  s.modCtx k c fun cx => { cx with async := cx.async.map fun a => if a.id = id then f a else a }

/-- Values of an asynchronous access arrive in registers. Results of earlier forms that are still in flight to one of
them have been passed (R59). -/
def State.arrive (s : State) (k : Fin 64) (c : Fin 4) (a : Async) (ws : List Landing) : State :=
  let regs := a.act.regs
  let s := s.modCtx k c fun cx =>
    { cx with flight := cx.flight.map fun f =>
        if f.id < a.id && meets f.what.regs regs then { f with overtaken := true } else f }
  if a.overtaken && !s.coin (choice a.id 7) then s
  else s.modCtx k c fun cx => ws.foldl (fun cx w => w.onContext cx) cx

def State.asyncOf (s : State) (k : Fin 64) (c : Fin 4) (id : Nat) : Option Async :=
  (s.ctx k c).async.find? (·.id == id)

/-- Keys of a group of an access. -/
def Async.keysOf (a : Async) (g : List Nat) : List Nat := g.filterMap fun i => a.act.keys[i]?

/-- Reads one group of a load, by place in the part, if the order of accesses and the credits allow it. After a claim that no
FENCE has followed it may find what stood there before (R235). -/
def State.readGroup (s : State) (k : Fin 64) (c : Fin 4) (a : Async) (g : List Nat) : State :=
  let keys := a.keysOf g
  let e : Async := { a with act := readOf keys }
  let t := (s.staleAt k c e).filter fun _ => s.coin (choice a.id 4)
  if !s.creditsFor (peersOf keys) || (t.isNone && !s.allows (.context k c) e) then s
  else
    let own := (s.ctx k c).storesBefore a.id
    let byte (x : Nat) : Byte := own.foldl (fun b p => if p.1 = x then p.2 else b) (s.byteBefore t x)
    let new := g.filterMap fun i =>
      match a.places[i]?, a.act.keys[i]? with
      | some p, some x => some (p, byte x)
      | _, _ => none
    let s := (peersOf keys).foldl (fun s r => s.askPeer r) s
    let s := (s.modAsync k c a.id fun a => { a with got := a.got ++ new }).noteAt (.context k c) e t
    match t with
    | some t => s.modCtx k c fun cx => { cx with view := t - 1 }
    | none => s

def State.readGroups (s : State) (k : Fin 64) (c : Fin 4) (a : Async) (gs : List (List Nat)) : State :=
  gs.foldl (fun s g => s.readGroup k c a g) s

/-- Bytes that go together may be accessed: no write holds them up, and no access stands before them. -/
def State.openFor (s : State) (a : Async) (keys : List Nat) : Bool :=
  !s.blockedOnSectors s.nextId keys && s.clearFor a keys

/-- Groups of a load that have not been read, and that nothing holds up. -/
def State.unread (s : State) (a : Async) : List (List Nat) :=
  a.groups.filter fun g => !(g.any fun i => (a.got.lookup ((a.places[i]?).getD 0)).isSome) && s.openFor a (a.keysOf g)

/-- What a load or an atomic has read lands once all its bytes have been read. -/
def State.landLoad (s : State) (k : Fin 64) (c : Fin 4) (a : Async) : State :=
  match (s.ctx k c).gathered a.whole with
  | some ws => (s.arrive k c { a with id := a.whole } ws).wholePerformed k c a
  | none => s

/-- An uncorrectable error ends an access (R133); of the reload of a trap record it is a nested fault (R261). -/
def State.endInError (s : State) (k : Fin 64) (c : Fin 4) (a : Async) : State :=
  let t := if a.act.shape == some .record then s.countError.recordFault k c .poison else s.latchPoison k c a.addr a.id
  t.wholePerformed k c a

/-- Performs some of a load, and lands it if that was the last of it. -/
def State.performLoad (s : State) (k : Fin 64) (c : Fin 4) (a : Async) : State :=
  let gs := s.someOf (a.act.keys.any compKey) (s.unread a)
  if s.poisonMet (readOf (a.keysOf gs.flatten)) then s.endInError k c a else (s.readGroups k c a gs).landLoad k c a

/-- What is left of a store once bytes of it have been written. -/
def State.storeLeft (s : State) (k : Fin 64) (c : Fin 4) (a : Async) (cells done : List (Nat × Byte)) : State :=
  let left := cells.filter fun x => !done.any (·.1 == x.1)
  if left.isEmpty then s.performed k c a else s.modAsync k c a.id fun a => { a with act := .write left }

/-- The core is told that a write waits (R285). -/
def State.reportWait (s : State) (k : Fin 64) (c : Fin 4) (id : Nat) (rest : List (Nat × Byte)) : State :=
  if rest.isEmpty then s
  else
    (s.modAsync k c id fun a => { a with waiting := some (a.waiting.getD s.sclk.toNat) }).enqueueAll (.context k c id)
      (some s.sclk.toNat) rest

/-- Bytes of a store of the context have been written. -/
def State.wrote (s : State) (k : Fin 64) (c : Fin 4) (a : Async) (cells done : List (Nat × Byte)) : State :=
  let t := s.storeLeft k c a cells done
  if done.isEmpty then t else t.note (.context k c) { a with act := .write done }

/-- Writes one group of a store, if the order of accesses allows it; what finds no sectors waits. -/
def State.storeGroup (s : State) (k : Fin 64) (c : Fin 4) (id : Nat) (g : List (Nat × Byte)) : State :=
  match s.asyncOf k c id with
  | none => s
  | some a =>
    match a.act with
    | .write cells =>
      if !s.creditsFor (peersOf (g.map (·.1))) || !s.allows (.context k c) { a with act := .write g } then s
      else
        let (t, rest) := (s.soil id (g.map (·.1))).plainStore s.nextId g
        (t.wrote k c a cells (g.filter fun x => !rest.any (·.1 == x.1))).reportWait k c id rest
    | _ => s

/-- Performs some of a store. Of blocks that hold an uncorrectable error nothing is written, and POISON is latched once for
those of this step (R133, R293); the rest of the store goes on. -/
def State.performWrite (s : State) (k : Fin 64) (c : Fin 4) (a : Async) (cells : List (Nat × Byte)) : State :=
  let of (g : List Nat) : List (Nat × Byte) := g.filterMap fun i => cells[i]?
  let open_ := (a.groups.map of).filter fun g => s.openFor a (g.map (·.1))
  let now := s.someOf (a.act.keys.any compKey) open_
  let bad := now.filter fun g => s.poisonMet (.write g)
  let s := if bad.isEmpty then s else (s.latchPoison k c a.addr a.id).storeLeft k c a cells bad.flatten
  (now.filter (!bad.contains ·)).foldl (fun s g => s.storeGroup k c a.id g) s

/-- An atomic has read its old word: it has been performed, and its result is still to land. -/
def State.atomicDone (s : State) (k : Fin 64) (c : Fin 4) (a : Async) (old : List Byte) : State :=
  (s.modAsync k c a.id fun a => { a with got := (List.range old.length).zip old, waiting := none }).note (.context k c) a

/-- The word of an atomic, read and written at once (R286): `id` names the write in the queue of those that wait. A word
that a peer holds is that device's to read and write: the request leaves on channel 0 (R224, R234). -/
def State.atomicNow (s : State) (k : Fin 64) (c : Fin 4) (a : Async) (id : Nat) (keys : List Nat) (op : AtomOp)
    (v : Dword) : State × List (Nat × Byte) :=
  let old := keys.map s.byte
  match peersOf keys with
  | r :: _ =>
    let t := (s.askPeer r).emit
      (.atomicOut r (((keys.head?.getD 0) - peerBase) % 2 ^ 65) op v keys.length)
    (t.atomicDone k c a old, [])
  | [] =>
    match (s.soil a.id keys).storeCells id (s.atomicCells keys op v) with
    | (t, []) => (t.atomicDone k c a old, [])
    | (_, rest) => (s, rest)

/-- An atomic may be performed, as a whole. -/
def State.atomicOpen (s : State) (k : Fin 64) (c : Fin 4) (a : Async) (keys : List Nat) : Bool :=
  s.openFor a keys && s.creditsFor (peersOf keys) && s.allows (.context k c) a

/-- A contribution is accepted by its station, or leaves for it. -/
def State.contributeNow (s : State) (k : Fin 64) (c : Fin 4) (a : Async) (w addr : Nat) (op : BitVec 2) (round : Word)
    (value : Dword) : State :=
  let t := (s.performed k c a).note (.context k c) a
  if s.windowHome w = t.rank then t.contribute w addr op round t.rank value [a.id]
  else
    (t.sendFlit (t.linkTo (s.windowHome w)) (s.windowChannel w)).emit
      (.contributionOut (s.windowHome w) (windowName addr) op round value)

/-- Performs an access, or some of it, if it may be. -/
def State.perform (s : State) (k : Fin 64) (c : Fin 4) (a : Async) : State :=
  if !s.mayStart a then s
  else
    match a.act with
    | .read .. => s.performLoad k c a
    | .write cells => s.performWrite k c a cells
    | .atomic keys op v _ =>
      if a.wholeRead then s.landLoad k c a
      else if !s.atomicOpen k c a keys then s
      else if s.poisonMet a.act then (s.latchPoison k c a.addr a.id).performed k c a
      else
        match s.atomicNow k c a s.nextId keys op v with
        | (t, []) => t.landLoad k c a
        | (_, rest) => s.reportWait k c a.id rest
    | .contribute w addr op round value =>
      if !s.ringOpen a.act || !s.allows (.context k c) a then s else s.contributeNow k c a w addr op round value

/-! ### Events whose moment is fixed (R229, R333) -/

/-- One event of an access of main memory is made, if nothing holds it up. -/
def State.makeEvent (s : State) (e : Event) : State :=
  match e.agent with
  | .context k c =>
    match s.asyncOf k c e.acc.id with
    | none => s
    | some a =>
      if a.suspended || !s.openFor a e.acc.act.keys then s
      else
        match a.act with
        | .read keys _ =>
          if s.poisonMet (readOf e.acc.act.keys) then s.endInError k c a
          else
            s.readGroup k c a ((List.range keys.length).filter fun i =>
              (keys[i]?).any e.acc.act.keys.contains && ((a.places[i]?).bind fun p => a.got.lookup p).isNone)
        | .write cells =>
          let g := cells.filter fun x => e.acc.act.keys.contains x.1
          if s.poisonMet (.write g) then (s.latchPoison k c a.addr a.id).storeLeft k c a cells g
          else s.storeGroup k c a.id g
        | .atomic keys op v _ =>
          if s.poisonMet a.act || !s.creditsFor (peersOf keys) then s
          else
            match s.atomicNow k c a s.nextId keys op v with
            | (t, []) => t
            | (_, rest) => s.reportWait k c a.id rest
        | .contribute w addr op round value =>
          if s.ringOpen a.act then s.contributeNow k c a w addr op round value else s
  | _ => s

/-- Makes way for an event whose moment is fixed: where it would leave no way on, what others have been performed ahead of comes
first, in an order that closes no cycle. -/
def State.makeWay (s : State) (g : Agent) (a : Async) : State :=
  let open_ := s.awaited
  if s.log.isEmpty || finishes s.rank (s.log ++ [⟨g, a, s.draw⟩]) open_ then s
  else ((wayOn s.rank open_.length s.log open_).getD []).foldl State.makeEvent s

/-- An owner-bit flip stands between the accesses of both sides to its tiles (R230): in the log it counts as a write of
them. -/
def State.noteFlip (s : State) (g : Agent) (keys : List Nat) : State :=
  let a := plainAccess s.nextId (writeOf keys) []
  if s.log.isEmpty then s else (s.makeWay g a).note g a

/-! ### Reads in the shadow of a load (R59, R132) -/

/-- A load of main memory may have been read, and an atomic performed, by a free choice, before it lands: then the bundle
that issues finds its new value to choose (log entry 63). -/
def State.readAhead (s : State) (k : Fin 64) (c : Fin 4) : State :=
  ((s.ctx k c).async.filter fun a => a.act.isLoad && !a.fresh && !a.wholeRead).foldl (fun s a =>
    if !s.mayStart a || !s.coin (choice a.id 5) then s
    else
      match a.act with
      | .atomic keys op v _ =>
        if !s.atomicOpen k c a keys || s.poisonMet a.act || a.waiting.isSome then s
        else (s.atomicNow k c a s.nextId keys op v).1
      | _ =>
        if s.poisonMet (readOf (a.keysOf (s.unread a).flatten)) then s else s.readGroups k c a (s.unread a)) s

/-! ### Local memory and the landing (R131) -/

/-- A write or an atomic that is due at the end of this cycle. -/
def State.doStore (s : State) (k : Fin 64) (m : MemOp) : State :=
  let s := if m.act.isStore then s.makeWay (.context k m.ctx) m.access else s
  let s := if m.act.isStore then (s.unpack m.act.keys).soil m.id m.act.keys else s
  match m.act with
  | .write cells => State.note { s with mem := s.mem.writeCells cells } (.context k m.ctx) m.access
  | .atomic keys op v r =>
    if s.poisonMet m.act then (s.latchPoison k m.ctx m.addr m.id).modCtx k m.ctx (·.fill m.id [])
    else
      let old := BitVec.ofNat 64 (leValue (keys.map s.byte))
      let new := atomResult op keys.length old v
      (State.modCtx { s with mem := s.mem.writeCells (keys.zip (leBytes keys.length new.toNat)) } k m.ctx
        (·.fill m.id [.scalar r old])).note (.context k m.ctx) m.access
  | _ => s

/-- A read that is due, after this cycle's writes. One that meets an uncorrectable error writes none of its registers, and
latches one POISON (R133); a head's form has taken its bytes already. -/
def State.doRead (s : State) (k : Fin 64) (m : MemOp) : State :=
  let give (s : State) (rs : List (Nat × List Landing)) : State :=
    rs.foldl (fun s r => s.modCtx k m.ctx (·.fill r.1 r.2)) s
  match m.act with
  | .read keys sh =>
    if s.poisonMet m.act && sh != .head then
      if sh == .record then s.countError.recordFault k m.ctx .poison
      else give (s.latchPoison k m.ctx m.addr m.id) ((m.results []).map fun r => (r.1, []))
    else
      let s := s.makeWay (.context k m.ctx) m.access
      (give s (m.results (keys.map s.byte))).note (.context k m.ctx) m.access
  | _ => s

/-- The writes and atomics of a core that are due, in ascending context order (R90); none while the core holds, whose
pipelines stand still (R58). -/
def State.storesDue (s : State) (k : Fin 64) : State :=
  if (s.core k).held then s
  else
    let due := allCtxs.flatMap fun c => (s.core k).memq.filter fun m => m.ctx == c && m.left ≤ 1 && m.act.isStore
    let s := s.modCore k fun co => { co with memq := co.memq.filter fun m => !(m.left ≤ 1 && m.act.isStore) }
    due.foldl (fun s m => s.doStore k m) s

/-- The reads of a core that are due; the others come one cycle nearer. -/
def State.readsDue (s : State) (k : Fin 64) : State :=
  let due := (s.core k).memq.filter (·.left ≤ 1)
  let s := s.modCore k fun co =>
    { co with memq := (co.memq.filter (1 < ·.left)).map fun m => { m with left := m.left - 1 } }
  due.foldl (fun s m => s.doRead k m) s

/-- Results of a context whose time has come. Those of a STOPPED context stand still. -/
def Context.due (cx : Context) : List Flight :=
  if cx.state = .stopped then [] else sortById (cx.flight.filter (·.left ≤ 1))

/-- The flights of a context one cycle on: those that have landed are gone; a push that found no room stays. -/
def Context.age (cx : Context) (waiting : List Nat) : Context :=
  if cx.state = .stopped then cx else
  { cx with
    flight := (cx.flight.filter fun f => 1 < f.left || waiting.contains f.id).map fun f =>
      { f with left := max 1 (f.left - 1) } }

/-- Inserts before the first element whose key is not smaller. -/
def insertOn (key : α → Nat) (x : α) : List α → List α
  | [] => [x]
  | y :: ys => if key y < key x then y :: insertOn key x ys else x :: y :: ys

/-- Sorts by a key; elements of one key keep their order. -/
def sortOn (key : α → Nat) (l : List α) : List α := l.foldr (insertOn key) []

/-- A push onto an output FIFO. -/
def Landing.isPush : Landing → Bool
  | .push .. => true
  | _ => false

/-- The results of a core that are due, each with its context: in order of issue (R59, R61), and the pushes in ascending
unit class (R54). -/
def State.resultsDue (s : State) (k : Fin 64) : List (Fin 4 × Flight) :=
  let due := sortOn (·.2.id) (allCtxs.flatMap fun c => (s.ctx k c).due.map fun f => (c, f))
  due.filter (!·.2.what.isPush) ++ sortOn (·.2.unit) (due.filter (·.2.what.isPush))

/-- The bytes of a write are others. -/
def MemAct.rewrite (act : MemAct) (places : List Nat) (bs : List Byte) : MemAct :=
  match act with
  | .write cells => .write ((cells.zip places).map fun x => (x.1.1, (bs[x.2]?).getD x.1.2))
  | a => a

/-- Results that land in the cycle of a TRAP come before the freeze (R257): the latches set aside and the trap record, whose
store has not been made, hold them. -/
def State.amendEntry (s : State) (k : Fin 64) (c : Fin 4) : State :=
  let cx := s.ctx k c
  let mine (m : MemOp) : Bool := m.ctx == c && m.id + 1 == cx.tmFrom
  let s := s.modCore k fun co =>
    { co with memq := co.memq.map fun m => if mine m then { m with act := m.act.rewrite (List.range 64) cx.record } else m }
  s.modCtx k c fun cx =>
    { cx with
      shadow := { cx.shadow with latchA := cx.latchA, latchB := cx.latchB }
      async := cx.async.map fun a =>
        if cx.blockedOn.contains a.id then { a with act := a.act.rewrite a.places cx.record } else a }

/-- A context has just taken a TRAP, and results of its bundle land in this cycle. -/
def Context.justTrapped (cx : Context) : Bool := cx.tm && cx.due.any fun f => f.id < cx.tmFrom

/-- RESULT_LAND (R58): the reads of the core that are due, then every result whose cycle this is. A core that holds
reads and lands nothing (R60). -/
def execResultLand (core : Fin 64) (s : State) : Host.Outcome State Fault Refusal :=
  if (s.core core).held then .next s
  else
    let s := s.readsDue core
    let trapped := allCtxs.filter fun c => (s.ctx core c).justTrapped
    let (s, waiting) := (s.resultsDue core).foldl (fun (p : State × List Nat) d =>
      match d.2.what with
      | .push n v =>
        match p.1.pushFo core d.1 n v with
        | some t => (t, p.2)
        | none => (p.1, d.2.id :: p.2)
      | _ => (p.1.applyFlight core d.1 d.2, p.2)) (s, [])
    let s := trapped.foldl (fun s c => s.amendEntry core c) s
    .next (allCtxs.foldl (fun s c => s.modCtx core c (·.age waiting)) s)

/-! ### The events -/

/-- ASYNC_LOAD_LAND (R132): an asynchronous load lands, and PBMEM is decremented. -/
def execAsyncLoadLand (core : Fin 64) (ctx : Fin 4) (id : Nat) (s : State) : Host.Outcome State Fault Refusal :=
  match s.asyncOf core ctx id with
  | some a => .next (if a.act.isLoad && !a.act.isStore then s.perform core ctx a else s)
  | none => .next s

/-- STORE_ORDERING_POINT (R132): a store, an atomic or a contribution reaches its ordering point. -/
def execStoreOrderingPoint (core : Fin 64) (ctx : Fin 4) (id : Nat) (s : State) : Host.Outcome State Fault Refusal :=
  match s.asyncOf core ctx id with
  | some a => .next (if a.act.isStore then s.perform core ctx a else s)
  | none => .next s

/-- The entry on its way to an fi that arrives next: the oldest of one output register, of which one, where several are
bound to the fi, by a free choice (R300). -/
def State.nextEntry (s : State) (k : Fin 64) (c f : Fin 4) : Option (Fin 64 × Fin 4 × Fin 4 × Dword × Nat) :=
  let mine := s.fifoq.filter fun e => e.1 == k && e.2.1 == c && e.2.2.1 == f
  match mine with
  | [] => none
  | e :: es =>
    let first := (es.foldl (fun seen x => if seen.any (·.2.2.2.2 == x.2.2.2.2) then seen else seen ++ [x]) [e]).tail
    some (first.foldl (fun y x => if s.coin (2 ^ 32 + x.2.2.2.2) then x else y) e)

/-- FIFO_ENTRY_ARRIVE (R301): an entry on its way to an fi arrives; or one from another device, by one of the two ring links of
this device's own ports, which the event does not name. Its sender has reserved an entry for it; one that finds none waits. -/
def execFifoEntryArrive (core : Fin 64) (ctx fi : Fin 4) (far : Option Dword) (s : State) :
    Host.Outcome State Fault Refusal :=
  let put (s : State) (v : Dword) : State :=
    s.modCtx core ctx fun cx => { cx with fi := cx.fi.set fi (cx.fi.get fi ++ [v]) }
  match far with
  | some v =>
    let p := s.rank.toNat % 8
    if s.fifoUse core ctx fi < fifoDepth then .next (put (s.takeFlit (if s.coin 8 then 2 + p else 2 + (p + 7) % 8)) v)
    else .next { s with late := s.late ++ [.fifoEntryArrive core ctx fi far] }
  | none =>
    match s.nextEntry core ctx fi with
    | some e => .next (put { s with fifoq := s.fifoq.erase e } e.2.2.2.1)
    | none => .next s

end Sys2Proof.Machine
end

