-- ==== Sys2Proof/Machine/Copy.lean ====
section
/-! DEFINITION. The copy engine: where a block of a command lies on either side, how a block moves, faults, circuits to
other landings, and the steps of the engine (R92-R106, R193). -/

namespace Sys2Proof.Machine

open Sys2Proof.Config

/-! ### Blocks (R104) -/

def CopyRegs.bound (r : CopyRegs) : Bool := r.ecfg.getLsbD 3
def CopyRegs.handle (r : CopyRegs) : Nat := bits r.ecfg 7 4
def CopyRegs.sizeClass (r : CopyRegs) : Nat := bits r.ecfg 15 12
def CopyRegs.policy (r : CopyRegs) : Nat := bits r.ecfg 1 0
def CopyRegs.total (r : CopyRegs) : Nat := r.rows * r.rowb
/-- Blocks of a row, and of a command. -/
def CopyRegs.perRow (r : CopyRegs) : Nat := ceilDiv r.rowb 256
def CopyRegs.blocks (r : CopyRegs) : Nat := r.rows * r.perRow

/-- Row, offset in the row and length of block n. -/
def CopyRegs.piece (r : CopyRegs) (n : Nat) : Nat × Nat × Nat :=
  let off := n % r.perRow * 256
  (n / r.perRow, off, min 256 (r.rowb - off))

/-- Cycles for a block (R104). -/
def Command.pace (c : Command) : Nat := if c.xform = 0 then 4 else max (ceilDiv c.regs.sizeClass 2) 2

/-- Bytes of a landing slot of the command (R103). -/
def Command.slotSize (c : Command) : Nat := c.regs.sizeClass * 32

/-- A side takes encoded blocks in landing slots: the destination of CMP, the source of EXP; class 8 is raw (R103). -/
def Command.packs (c : Command) (write : Bool) : Bool :=
  (if write then c.xform == 1 else c.xform == 2) && c.regs.sizeClass != 8

/-- Blocks are encoded or decoded on their way. -/
def Command.transforms (c : Command) : Bool := c.packs true || c.packs false

def Side.isMain : Side → Bool
  | .main _ => true
  | _ => false

/-- The side reads or writes local memory. -/
def Side.isLocal : Side → Bool
  | .localMem _ | .ringBuf _ => true
  | _ => false

/-- The cluster of a landing address, if it is not the core's own. -/
def remoteOf (k : Fin 64) (a : Nat) : Option Nat :=
  if rangeOf k a = .remote then some ((a - lbase) / landingBytes) else none

/-! ### Where a block lies

A block is a piece of a row of 256 bytes (R104); where the row starts in a remote landing without slots, it is what the
row has in one aligned 256-byte range of that landing (R94). -/

/-- The address of row r on a side. -/
def rowAt (base : Nat) (stride : Dword) (r : Nat) : Nat := (BitVec.ofNat 64 base + BitVec.ofNat 64 r * stride).toNat

def Side.isLanding : Side → Bool
  | .landing _ => true
  | _ => false

/-- Starts of row r in remote landings, whose ranges cut it. -/
def Command.cutStarts (c : Command) (k : Fin 64) (r : Nat) : List Nat :=
  let of (side : Side) (stride : Dword) (slots : Bool) : List Nat :=
    match side with
    | .landing a => if slots || (remoteOf k (rowAt a stride r)).isNone then [] else [rowAt a stride r]
    | _ => []
  of c.src c.regs.ests (c.xform == 2) ++ of c.dst c.regs.estd (c.xform == 1)

/-- No row is cut by the ranges of a remote landing. -/
def Command.uncut (c : Command) (k : Fin 64) : Bool :=
  !(c.src.isLanding || c.dst.isLanding) || (List.range c.regs.rows).all fun r => (c.cutStarts k r).isEmpty

/-- Offset and length of the pieces of a row that starts at these addresses. -/
def cutRow (rowb : Nat) (starts : List Nat) : List (Nat × Nat) :=
  let cuts (a : Nat) : List Nat := (List.range (rowb / 256 + 1)).map fun i => 256 - a % 256 + 256 * i
  let offs := ((starts.flatMap cuts).filter (· < rowb)).foldl (fun l o => insertOnce o l) [0]
  (offs.zip (offs.tail ++ [rowb])).map fun p => (p.1, p.2 - p.1)

/-- The blocks of a command with rows that remote landings cut. -/
def Command.cutPieces (c : Command) (k : Fin 64) : List (Nat × Nat × Nat) :=
  (List.range c.regs.rows).flatMap fun r =>
    let row : List (Nat × Nat) :=
      match c.cutStarts k r with
      | [] => (List.range c.regs.perRow).map fun i => (256 * i, min 256 (c.regs.rowb - 256 * i))
      | starts => cutRow c.regs.rowb starts
    row.map fun q => (r, q.1, q.2)

/-- Blocks of a command. -/
def Command.blocks (c : Command) (k : Fin 64) : Nat := if c.uncut k then c.regs.blocks else (c.cutPieces k).length

/-- Row, offset in the row and length of block n. -/
def Command.piece (c : Command) (k : Fin 64) (n : Nat) : Nat × Nat × Nat :=
  if c.uncut k then c.regs.piece n else ((c.cutPieces k)[n]?).getD (0, 0, 0)

/-- Position of block n in the stream of bytes of a command, as a ring takes them. -/
def Command.stream (c : Command) (k : Fin 64) (n : Nat) : Nat := (c.piece k n).1 * c.regs.rowb + (c.piece k n).2.1

/-- The address of block n on a side with a row stride; a landing side of CMP or EXP takes slots instead. -/
def Command.addressAt (c : Command) (k : Fin 64) (base : Nat) (stride : Dword) (slots : Bool) (n : Nat) : Nat :=
  let p := c.piece k n
  if slots then (base + n * c.slotSize) % 2 ^ 64
  else (BitVec.ofNat 64 base + BitVec.ofNat 64 p.1 * stride + BitVec.ofNat 64 p.2.1).toNat

/-- The cluster of block n on one side, if that lies in a landing that is not the core's own. -/
def Command.remoteAt (c : Command) (k : Fin 64) (write : Bool) (n : Nat) : Option Nat :=
  match if write then c.dst else c.src with
  | .landing a =>
    remoteOf k (c.addressAt k a (if write then c.regs.estd else c.regs.ests) (if write then c.xform == 1 else c.xform == 2) n)
  | _ => none

/-- Block n goes through a circuit: the cluster it is for, or that it is read from. -/
def Command.awayAt (c : Command) (k : Fin 64) (n : Nat) : Option Nat := (c.remoteAt k false n).or (c.remoteAt k true n)

/-- Some block goes through a circuit. -/
def Command.away (c : Command) (k : Fin 64) : Bool :=
  (c.src.isLanding || c.dst.isLanding) && (List.range (c.blocks k)).any fun n => (c.awayAt k n).isSome

/-- The command has a fixed duration (R104). -/
def Command.fixed (c : Command) (k : Fin 64) : Bool := !c.src.isMain && !c.dst.isMain && !c.away k

/-- The tiles of the contexts of the command's task. -/
def State.taskTile (s : State) (k : Fin 64) (c : Fin 4) (t : Nat) : Bool :=
  t < 512 && (s.myCtxs k c).any fun d => d.val == t / 128

/-- Local address of byte x of a ring's stream: the tiles from the engine's pointer on. -/
def Ring.streamAddress (r : Ring) (finished x : Nat) : Nat :=
  locbase + r.tile ((if r.role then r.cp else r.pp) + x / tileBytes - finished) * tileBytes + x % tileBytes

def State.ringOf (s : State) (k : Fin 64) (h : Nat) : Ring := ((s.core k).rings[h]?).getD Ring.reset

/-- The addresses of block n on one side: its bytes, or the bytes of a landing slot. -/
def State.blockAddrs (s : State) (k : Fin 64) (c : Command) (write : Bool) (n : Nat) : List Nat :=
  let side := if write then c.dst else c.src
  let stride := if write then c.regs.estd else c.regs.ests
  let p := c.piece k n
  let slots := (write && c.xform == 1) || (!write && c.xform == 2)
  match side with
  | .localMem a => addrRun (c.addressAt k a stride false n) p.2.2
  | .landing a => addrRun (c.addressAt k a stride slots n) (if slots then c.slotSize else p.2.2)
  | .main a => addrRun (c.addressAt k a.toNat stride false n) p.2.2
  | .slot _ off =>
    addrRun ((BitVec.ofNat 64 (64 * off) + BitVec.ofNat 64 p.1 * stride + BitVec.ofNat 64 p.2.1).toNat) p.2.2
  | .ringBuf h => (List.range p.2.2).map fun i => (s.ringOf k h).streamAddress c.finished (c.stream k n + i)

/-- The ring tiles that block n needs are at ENGINE (R99); other sides need none. -/
def State.ringReady (s : State) (k : Fin 64) (c : Command) (n : Nat) : Bool :=
  let need (side : Side) (write : Bool) : Bool :=
    match side with
    | .ringBuf _ => (s.blockAddrs k c write n).all fun a => (s.core k).engineTiles.contains ((a - locbase) / tileBytes)
    | _ => true
  need c.src false && need c.dst true

/-- A cluster lies in the partition of a core's own (R85, R326). -/
def State.samePartition (s : State) (k : Fin 64) (cl : Nat) : Bool :=
  cl = clusterOf k || s.regs.pcfg.toList.any fun p => p.getLsbD (56 + clusterOf k) && p.getLsbD (56 + cl)

/-- Bytes of block n on a side. -/
def Command.size (c : Command) (k : Fin 64) (write : Bool) (n : Nat) : Nat :=
  if c.packs write then c.slotSize else (c.piece k n).2.2

/-- What has been read of block n, for each byte of the destination. -/
def Command.gotten (c : Command) (k : Fin 64) (n : Nat) : List (Option Byte) :=
  (c.got.lookup n).getD (List.replicate (c.size k true n) none)

/-- The byte at a place of block n has been read, or written. A block that is transformed is read as a whole. -/
def Command.moved (c : Command) (write : Bool) (n p : Nat) : Bool :=
  if write then c.ahead.contains (n, p)
  else ((c.got.lookup n).bind fun l => (l[if c.transforms then 0 else p]?).join).isSome

/-- All of block n has been read, or written. -/
def Command.complete (c : Command) (k : Fin 64) (write : Bool) (n : Nat) : Bool :=
  (List.range (c.size k write n)).all (c.moved write n)

/-- The address of the first byte of block n that has not been transferred on a side (R106). On an operand-slot side it is
the slot word of the CPY, its offset that of the first 64-byte unit not written. -/
def State.firstLeft (s : State) (k : Fin 64) (c : Command) (write : Bool) (n : Nat) : Dword :=
  let as := s.blockAddrs k c write n
  let p := ((List.range as.length).find? (!c.moved write n ·)).getD 0
  let a := (as[p]?).getD 0
  match if write then c.dst else c.src with
  | .slot m _ => BitVec.ofNat 64 (a / 64 * 2 ^ 16 + m)
  | _ => BitVec.ofNat 64 a

/-- The keys of block n on one side, or the address that a fault names (R106). An operand-slot side ends at 48 KiB, and an
offset beyond it, as R146 allows none, is such a fault (log entry 69). -/
def State.blockKeys (s : State) (k : Fin 64) (ctx : Fin 4) (c : Command) (write : Bool) (n : Nat) :
    Except Dword (List Nat) :=
  let as := s.blockAddrs k c write n
  let first := s.firstLeft k c write n
  match if write then c.dst else c.src with
  | .localMem _ =>
    if as.all fun a => rangeOf k a = .loc && s.taskTile k ctx ((a - locbase) / tileBytes) &&
        (s.core k).engineTiles.contains ((a - locbase) / tileBytes) then
      .ok (as.map fun a => localKey k (a - locbase))
    else .error first
  | .ringBuf _ => .ok (as.map fun a => localKey k (a - locbase))
  | .landing _ =>
    let cl (a : Nat) : Nat := (a - lbase) / landingBytes
    if as.all fun a =>
        lbase ≤ a && a < lbase + landingRange && cl a == cl ((as[0]?).getD 0) && s.samePartition k (cl a) then
      .ok (as.map fun a => landingKey (a - lbase) c.key)
    else .error first
  | .slot m _ =>
    if as.all (· < slotBytes) then .ok (as.map (slotKey k m)) else .error first
  | .main _ =>
    if as.all fun a => rangeOf k a = .main && (s.byteFault k ctx (if write then .write else .read) a).isNone then
      let ks := as.map (s.keyOf k ctx)
      if ks.any keyAbsent then .error first else .ok ks
    else .error first

/-! ### Counters (R105) -/

/-- Takes bytes of one side off its counter. -/
def Context.discount (cx : Context) (side : Side) (write : Bool) (n : Nat) : Context :=
  match side with
  | .main _ => { cx with pbmem := cx.pbmem - n }
  | _ => if write then { cx with pbsw := cx.pbsw - n } else { cx with pbsr := cx.pbsr - n }

/-- Charges both sides of a command. -/
def Context.chargeCopy (cx : Context) (src dst : Side) (n : Nat) : Context :=
  let cx : Context := match src with
    | .main _ => { cx with pbmem := cx.pbmem + n }
    | _ => { cx with pbsr := cx.pbsr + n }
  match dst with
  | .main _ => { cx with pbmem := cx.pbmem + n }
  | _ => { cx with pbsw := cx.pbsw + n }

/-! ### Commands of a channel -/

def State.channel (s : State) (k : Fin 64) (c : Fin 4) : List Command := (s.core k).channels.get c
def State.modChannel (s : State) (k : Fin 64) (c : Fin 4) (f : List Command → List Command) : State :=
  s.modCore k fun co => { co with channels := co.channels.set c (f (co.channels.get c)) }
def State.head (s : State) (k : Fin 64) (c : Fin 4) : Option Command := (s.channel k c).head?
def State.modHead (s : State) (k : Fin 64) (c : Fin 4) (f : Command → Command) : State :=
  s.modChannel k c fun l => l.modifyHead f

/-- A command writes this operand slot and has not ended. -/
def Command.fills (c : Command) (n : Nat) : Bool :=
  match c.dst with
  | .slot m _ => m == n
  | _ => false

/-- An operand slot leaves FILLING with the last command that writes it (R100). -/
def State.unfill (s : State) (k : Fin 64) (dst : Side) : State :=
  match dst with
  | .slot n _ =>
    if allCtxs.any fun c => (s.channel k c).any (·.fills n) then s
    else s.modCore k fun co =>
      let sl := (co.slots[n]?).getD Slot.reset
      { co with slots := co.slots.setIfInBounds n (if sl.state = .filling then { sl with state := .held } else sl) }
  | _ => s

/-- The core whose engine makes its steps, its own writes of the cycle having been made (R90). -/
def State.portCore (s : State) : Option (Fin 64) :=
  match s.phase with
  | .port k => some k
  | _ => none

/-- The core through whose circuit port blocks arrive, after the steps of its engine (R90). -/
def State.circuitCore (s : State) : Option (Fin 64) :=
  match s.phase with
  | .store k => if k.val = 0 then none else some (Fin.ofNat 64 (k.val - 1))
  | .units => some 63
  | _ => none

/-- A step of a core's engine is made after the core's own writes of a cycle (R90): one that comes at another moment waits
for them, and a flip that it makes serves a bundle of the next cycle (R97). -/
def State.atPort (s : State) (k : Fin 64) (i : Instr) (step : State → State) : Host.Outcome State Fault Refusal :=
  if s.portCore = some k then .next (step s) else .next { s with late := s.late ++ [i] }

/-- Starts the head command of a channel, if it has not started. -/
def State.startHead (s : State) (k : Fin 64) (c : Fin 4) : State :=
  s.modHead k c fun cmd => if cmd.started.isNone then { cmd with started := some s.sclk.toNat } else cmd

/-- Takes bytes of one side of the head command off its counter, as many as it still holds (R105). -/
def State.countOff (s : State) (k : Fin 64) (c : Fin 4) (write : Bool) (n : Nat) : State :=
  match s.head k c with
  | none => s
  | some cmd =>
    let n := min n (if write then cmd.unwritten else cmd.unread)
    (s.modHead k c fun cmd =>
      if write then { cmd with unwritten := cmd.unwritten - n } else { cmd with unread := cmd.unread - n }).modCtx k c
        (·.discount (if write then cmd.dst else cmd.src) write n)

/-- The head command leaves its channel, its slot leaves FILLING, its counters hold nothing more of it, and the next command
starts (R104). -/
def State.dropHead (s : State) (k : Fin 64) (c : Fin 4) : State :=
  match s.head k c with
  | none => s
  | some cmd =>
    let t := (s.countOff k c false cmd.unread).countOff k c true cmd.unwritten
    ((t.modChannel k c List.tail).unfill k cmd.dst).startHead k c

/-- Blocks under way through circuits. -/
def Command.onWay (c : Command) : List Nat := c.circuit.map (·.2.2.1) ++ c.legs.map (·.2)

/-- Blocks of which a side has bytes to move: those under way, and those that have not begun. -/
def Command.toCome (c : Command) (k : Fin 64) (write : Bool) : List Nat :=
  (c.onWay ++ (List.range (c.blocks k)).drop c.done).filter (!c.complete k write ·)

/-- Bytes that blocks under way have still to move on a side. -/
def Command.flying (c : Command) (k : Fin 64) (write : Bool) : Nat :=
  ((c.onWay.filter (!c.complete k write ·)).map fun n => (c.piece k n).2.2).sum

/-- A write of the channel's command waits for sectors. -/
def State.channelWaits (s : State) (k : Fin 64) (c : Fin 4) : Bool := s.waitingWrites.any (·.writer == .copy k c)

/-- The command at the head of a channel has nothing under way and nothing to move. -/
def State.headDone (s : State) (k : Fin 64) (c : Fin 4) (cmd : Command) : Bool :=
  cmd.message.isNone && (cmd.bad || cmd.blocks k ≤ cmd.done) && cmd.circuit.isEmpty && cmd.legs.isEmpty &&
    !s.channelWaits k c

/-- The head command leaves once it has nothing under way. -/
def State.endHead (s : State) (k : Fin 64) (c : Fin 4) : State :=
  match s.head k c with
  | some cmd => if s.headDone k c cmd then s.dropHead k c else s
  | none => s

/-- A copy fault of the head command (R106): it moves nothing more, its remaining bytes are taken off the counters, writes that
wait among them, and COPYFLT is latched for the next bundle. Blocks on their way through a circuit still arrive. -/
def State.copyFault (s : State) (k : Fin 64) (c : Fin 4) (a : Dword) : State :=
  match s.head k c with
  | none => s
  | some cmd =>
    let t := State.settleSkidder { s with waitingWrites := s.waitingWrites.filter (·.writer != .copy k c) }
    let t := (t.countOff k c false (cmd.unread - cmd.flying k false)).countOff k c true (cmd.unwritten - cmd.flying k true)
    let t := if cmd.bad then t else t.modCtx k c fun cx => cx.latch .copyflt a cmd.id
    (t.modHead k c fun cmd => { cmd with bad := true }).endHead k c

/-! ### Moving a block -/

/-- What is stored on the destination side for the bytes read: an encoding for CMP, a decoded block for EXP (R103). The
bytes of a landing slot beyond the encoding, and what a slot that no CMP has written decodes to, are free. None where the
encoding does not fit. -/
def State.transformed (s : State) (c : Command) (src : List Nat) (bs : List Byte) : Option (List Byte) :=
  if c.xform = 0 || c.regs.sizeClass = 8 then some bs
  else if c.xform = 1 then
    let e := encodeBlock bs
    if e.length ≤ c.slotSize then
      some (e ++ (List.range (c.slotSize - e.length)).map fun i => ((s.free i).truncate 8))
    else none
  else if s.packed.contains src then some (decodeBlock bs)
  else some ((List.range 256).map fun i => (s.free i).truncate 8)

/-- Two sides of one kind, which may meet. -/
def Side.mayMeet : Side → Side → Bool
  | .localMem _, .localMem _ | .landing _, .landing _ | .main _, .main _ => true
  | _, _ => false

/-- Source and destination of a command overlap (R146). -/
def State.overlaps (s : State) (k : Fin 64) (ctx : Fin 4) (c : Command) : Bool :=
  let keys (write : Bool) (n : Nat) : List Nat :=
    match s.blockKeys k ctx c write n with
    | .ok ks => ks
    | .error _ => []
  c.src.mayMeet c.dst &&
    let all := List.range (c.blocks k)
    let from_ := all.flatMap (keys false)
    all.any fun n => (keys true n).any from_.contains

/-- The bytes that a block takes from its source: free where a program has written them too soon. -/
def State.sourceBytes (s : State) (c : Command) (src : List Nat) : List Byte :=
  src.map fun x => if c.dirty.contains x then (s.free (2 ^ 20 + x)).truncate 8 else s.byte x

/-- The engine finishes a ring tile (R99): it goes to CTX and the engine's pointer steps. -/
def State.finishTile (s : State) (k : Fin 64) (h : Nat) : State :=
  let r := s.ringOf k h
  let p := if r.role then r.cp else r.pp
  let r' := if r.role then { r with cp := r.step p 1 } else { r with pp := r.step p 1 }
  s.modCore k fun co =>
    { co with engineTiles := co.engineTiles.filter (· != r.tile p), rings := co.rings.setIfInBounds h r' }

/-- Keys of the bytes of local tiles of a core. -/
def tileKeys (k : Fin 64) (tiles : List Nat) : List Nat :=
  tiles.flatMap fun t => (List.range tileBytes).map fun i => localKey k (t * tileBytes + i)

/-- Local tiles that blocks of a list touch on an unbound local side. -/
def State.tilesOn (s : State) (k : Fin 64) (c : Command) (write : Bool) (ns : List Nat) : List Nat :=
  match if write then c.dst else c.src with
  | .localMem _ => ((ns.flatMap (s.blockAddrs k c write)).map fun a => (a - locbase) / tileBytes).eraseDups
  | _ => []

/-- Local tiles that a command touches on unbound local sides. -/
def State.localTiles (s : State) (k : Fin 64) (c : Command) : List Nat :=
  let all := List.range (c.blocks k)
  (s.tilesOn k c false all ++ s.tilesOn k c true all).eraseDups

/-- A side lies in a ring, whose tiles the engine finishes. -/
def Side.isRing : Side → Bool
  | .ringBuf _ => true
  | _ => false

/-- The byte at a place of a block is the last of its ring tile: it is counted off as the tile is finished (R105). -/
def Command.closes (c : Command) (k : Fin 64) (write : Bool) (n p : Nat) : Bool :=
  (if write then c.dst else c.src).isRing && (c.stream k n + p + 1) % tileBytes == 0

/-- Ring tiles that no block to come touches, from the first unfinished one on, are finished (R99), and their last bytes
counted off (R105). A command of fixed duration finishes a tile with the last byte that it writes of it (R193). -/
def State.finishTiles (s : State) (k : Fin 64) (ctx : Fin 4) (h : Nat) : Nat → State
  | 0 => s
  | fuel + 1 =>
    match s.head k ctx with
    | none => s
    | some c =>
      if (c.toCome k (c.dst.isRing || c.fixed k)).all fun b => (c.finished + 1) * tileBytes ≤ c.stream k b then
        let r := s.ringOf k h
        let t := s.noteFlip (.channel k ctx) (tileKeys k [r.tile (if r.role then r.cp else r.pp)])
        (((t.finishTile k h).modHead k ctx fun c => { c with finished := c.finished + 1 }).countOff k ctx c.dst.isRing
          1).finishTiles k ctx h fuel
      else s

/-- Flips that follow what has moved of block n of the head command (R97, R99, R102): the ring tiles that are complete with
it, or the local tiles that no block to come touches under POL 1. -/
def State.flipsAfter (s : State) (k : Fin 64) (ctx : Fin 4) (n : Nat) : State :=
  match s.head k ctx with
  | none => s
  | some c =>
    match c.src, c.dst with
    | .ringBuf h, _ | _, .ringBuf h => s.finishTiles k ctx h (c.regs.total / tileBytes - c.finished)
    | _, _ =>
      if c.regs.policy = 1 then
        let later := s.tilesOn k c false (c.toCome k false) ++ s.tilesOn k c true (c.toCome k true)
        let gone := ((s.tilesOn k c false [n] ++ s.tilesOn k c true [n]).eraseDups).filter fun t =>
          !later.contains t && (s.core k).engineTiles.contains t
        (s.noteFlip (.channel k ctx) (tileKeys k gone)).modCore k fun co =>
          { co with engineTiles := co.engineTiles.filter (!gone.contains ·) }
      else s

/-- The pages that a block touches count it, once each (R271). -/
def State.countBlock (s : State) (k : Fin 64) (ctx : Fin 4) (c : Command) (n : Nat) : State :=
  let of (write : Bool) (side : Side) : List Nat := if side.isMain then s.blockAddrs k c write n else []
  s.countAccess k ctx (of false c.src ++ of true c.dst)

/-- Accesses of a command's channel, as events: its reads bear its name, its writes the next. -/
def Command.reads (c : Command) (keys : List Nat) : Async :=
  { plainAccess c.id (readOf keys) [] with within := c.before.map (·, 5) ++ c.edges }
def Command.writes (c : Command) (keys : List Nat) : Async :=
  { plainAccess (c.id + 1) (writeOf keys) [] with within := c.before.map (·, 5) ++ c.edges }

/-- Nothing in the order of accesses stands against bytes of a command (R229), and there are the credits for them (R299). A
command without a side in main memory keeps its cycles. -/
def State.mayCopy (s : State) (k : Fin 64) (ctx : Fin 4) (c : Command) (write : Bool) (keys : List Nat) : Bool :=
  ((!c.src.isMain && !c.dst.isMain) || s.allows (.channel k ctx) (if write then c.writes keys else c.reads keys)) && s.creditsFor (peersOf keys)

/-- Keys of block n that have still to be read, or written. -/
def Command.leftOf (c : Command) (write : Bool) (n : Nat) (keys : List Nat) : List Nat :=
  (keys.zipIdx.filter fun x => !c.moved write n x.2).map (·.1)

/-- What block n carries: its bytes for the destination (R103, R146); none where the encoding does not fit. -/
def State.carries (s : State) (c : Command) (src : List Nat) : Option (List Byte) := s.transformed c src (s.sourceBytes c src)

/-- The fault of block n, and whether an uncorrectable error raises it: one of a side's addresses (R146), an error in what is
still to be read, or in a block of the exposed space still to be written (R293), or an encoding that does not fit its slot,
at the local address of the block (R103). -/
def State.blockFault (s : State) (k : Fin 64) (ctx : Fin 4) (c : Command) (n : Nat) : Option (Dword × Bool) :=
  match s.blockKeys k ctx c false n, s.blockKeys k ctx c true n with
  | .error a, _ | .ok _, .error a => some (a, false)
  | .ok src, .ok dst =>
    if s.poisonMet (readOf (c.leftOf false n src)) then some (s.firstLeft k c false n, true)
    else if s.poisonMet (writeOf (c.leftOf true n dst)) then some (s.firstLeft k c true n, true)
    else if c.packs true && !c.complete k false n && (s.carries c src).isNone then
      some (BitVec.ofNat 64 (((s.blockAddrs k c c.dst.isLocal n)[0]?).getD 0), false)
    else none

/-- The command stops at a block. -/
def State.stopAt (s : State) (k : Fin 64) (ctx : Fin 4) (f : Dword × Bool) : State :=
  (if f.2 then s.countError else s).copyFault k ctx f.1

/-- Reads the bytes of block n at some places, if they have not been read, and counts them off: the uncompressed count (R105).
With its first byte a block is counted in its pages. -/
def State.fetchPlaces (s : State) (k : Fin 64) (ctx : Fin 4) (c : Command) (n : Nat) (src : List Nat) (now : Nat → Bool) :
    State :=
  let read := if c.transforms then (if c.moved false n 0 then [] else List.range src.length)
    else (List.range src.length).filter fun p => !c.moved false n p && now p
  let keys := read.filterMap fun p => src[p]?
  let s := if read.isEmpty then s else s.makeWay (.channel k ctx) (c.reads keys)
  let old := c.gotten k n
  let whole : Option (List (Option Byte)) :=
    if c.moved false n 0 then none else (s.carries c src).map fun l => l.map some
  let new : List (Option Byte) :=
    if c.transforms then whole.getD old
    else ((src.zip (s.sourceBytes c src)).zip old).zipIdx.map fun x =>
      if x.1.2.isNone && now x.2 then some x.1.1.2 else x.1.2
  if read.isEmpty then s
  else
    let s := if old.all (·.isNone) then s.countBlock k ctx c n else s
    let s := (peersOf keys).foldl (fun s r => s.askPeer r) s
    let s := (s.modHead k ctx fun c => { c with got := (n, new) :: c.got.filter (·.1 != n) }).note (.channel k ctx)
      (c.reads keys)
    s.countOff k ctx false
      (if c.packs false then (c.piece k n).2.2 else (read.filter (!c.closes k false n ·)).length)

/-- Stores bytes that a copy command writes: what reads them too soon, of a message or of another channel's command, finds old
bytes or new ones (R107). What finds no sectors waits, and the channel with it (R285). -/
def State.storeCopied (s : State) (k : Fin 64) (ctx : Fin 4) (c : Command) (id : Nat) (cells : List (Nat × Byte)) :
    State × List (Nat × Byte) :=
  let s := s.makeWay (.channel k ctx) (c.writes (cells.map (·.1)))
  let s := s.stain (fun m => c.id < m.id && m.core == k && m.ctx == ctx) (cells.map (·.1))
  let (t, rest) := s.plainStore id cells
  let done := (cells.map (·.1)).filter fun x => !rest.any (·.1 == x)
  (if done.isEmpty then t else t.note (.channel k ctx) (c.writes done), rest)

/-- Writes the bytes of block n at some places, if they have been read and not been written, and counts them off. A slot of
CMP counts as a whole, once it is complete. -/
def State.storePlaces (s : State) (k : Fin 64) (ctx : Fin 4) (c : Command) (n : Nat) (src dst : List Nat)
    (now : Nat → Bool) : State :=
  let mixed := s.overlaps k ctx c
  let value (x p : Nat) (b : Byte) : Byte :=
    if mixed then (s.free (2 ^ 21 + x)).truncate 8
    else if !c.transforms && !c.dirty.isEmpty && (src[p]?).any c.dirty.contains then (s.free (2 ^ 20 + x)).truncate 8
    else b
  let writes := (dst.zip (c.gotten k n)).zipIdx.filterMap fun x =>
    match x.1.2 with
    | some b => if now x.2 && !c.moved true n x.2 then some (x.2, x.1.1, value x.1.1 x.2 b) else none
    | none => none
  if writes.isEmpty then s
  else
    let ahead := c.ahead ++ writes.map fun w => (n, w.1)
    let s := s.modHead k ctx fun c => { c with ahead := ahead }
    let (s, rest) := s.storeCopied k ctx c s.nextId (writes.map (·.2))
    let off :=
      if c.packs true then (if (ahead.filter (·.1 == n)).length = c.slotSize then (c.piece k n).2.2 else 0)
      else (writes.filter fun w => !c.closes k true n w.1).length - rest.length
    (s.countOff k ctx true off).enqueueAll (.copy k ctx) (some s.sclk.toNat) rest

/-- A block has moved as a whole. A slot that holds what CMP has written into it can be decoded (R103). -/
def State.closeBlock (s : State) (k : Fin 64) (ctx : Fin 4) (n : Nat) (dst : List Nat) : State :=
  let t := s.modHead k ctx fun c => { c with got := c.got.filter (·.1 != n), ahead := c.ahead.filter (·.1 != n) }
  let packed : Bool := match s.head k ctx with
    | some c => c.packs true && ((c.gotten k n).zip (dst.map s.byte)).all fun x => x.1 == some x.2
    | none => false
  if packed then { t with packed := dst :: t.packed } else t

/-- Reads what is left of block n of the head command and writes it; tiles flip in the same step, before anything can see the
last decrement (R105). -/
def State.moveBlock (s : State) (k : Fin 64) (ctx : Fin 4) (n : Nat) : State :=
  match s.head k ctx with
  | none => s
  | some c =>
    match s.blockFault k ctx c n, s.blockKeys k ctx c false n, s.blockKeys k ctx c true n with
    | none, .ok src, .ok dst =>
      let t := s.fetchPlaces k ctx c n src fun _ => true
      let t := t.storePlaces k ctx ((t.head k ctx).getD c) n src dst fun _ => true
      ((t.modHead k ctx fun c => { c with done := max c.done (n + 1) }).closeBlock k ctx n dst).flipsAfter k ctx n
    | some f, _, _ => s.stopAt k ctx f
    | _, _, _ => s

/-- The engine may work on block n of a command: it has started, the stores that it follows have been made, its ring tiles are
there, and its channel waits for no sectors. -/
def State.mayBegin (s : State) (k : Fin 64) (ctx : Fin 4) (c : Command) (n : Nat) : Bool :=
  c.started.isSome && !c.bad && s.allPerformed c.before && s.ringReady k c n && !s.channelWaits k ctx

/-- Nothing stands before what is left of block n of a command on these sides. A block that meets a fault goes on to it. -/
def State.mayMove (s : State) (k : Fin 64) (ctx : Fin 4) (c : Command) (n : Nat) (sides : List Bool) : Bool :=
  s.mayBegin k ctx c n && sides.all fun write =>
    match s.blockKeys k ctx c write n with
    | .ok keys =>
      let keys := c.leftOf write n keys
      s.mayCopy k ctx c write keys && !s.blockedOnSectors s.nextId keys
    | .error _ => true

/-- The cycle in which block n of a command of fixed duration is written at the latest. -/
def Command.dueAt (c : Command) (n : Nat) : Nat := (c.started.getD 0) + 16 + c.pace * (n + 1) + c.waited

/-- A bound command of fixed duration has come to a block whose ring tile is not there: the cycle lengthens it (R104).
Each block takes the command's pace from the cycle in which it could begin. -/
def State.ringLate (s : State) (k : Fin 64) (c : Command) : Bool :=
  c.fixed k && c.started.isSome && !c.bad && c.done < c.blocks k && !s.ringReady k c c.done &&
    c.dueAt c.done ≤ s.sclk.toNat + c.pace

/-- Moves up to `fuel` blocks of the head command, one after another. The last block of a command of fixed duration
waits for its cycle (R104). -/
def State.moveBlocks (s : State) (k : Fin 64) (ctx : Fin 4) : Nat → State
  | 0 => s
  | fuel + 1 =>
    match s.head k ctx with
    | none => s
    | some c =>
      let early : Bool := c.fixed k && c.done + 1 = c.blocks k && s.sclk.toNat < c.dueAt c.done
      if c.message.isSome || c.blocks k ≤ c.done || early || (c.awayAt k c.done).isSome ||
          !s.mayMove k ctx c c.done [false, true] then s
      else (s.moveBlock k ctx c.done).moveBlocks k ctx fuel

/-- A place that is written with its block alone: the last byte of a command of fixed duration, which has its cycle (R104),
and of a fill, which ends with it (R100); and the last byte of a ring tile that such a command finishes in that cycle
(R193). -/
def Command.waitsForBlock (c : Command) (k : Fin 64) (n p : Nat) : Bool :=
  let slot : Bool := match c.dst with
    | .slot .. => true
    | _ => false
  ((c.fixed k || slot) && n + 1 == c.blocks k && p + 1 == c.size k true n) ||
    (c.fixed k && (c.closes k true n p || (c.src.isRing && (c.stream k n + p + 1) % tileBytes == 0)))

/-- A place of a block drawn to move ahead: nothing stands before it. Of the exposed space whole blocks go (R279). -/
def State.drawn (s : State) (i key p : Nat) : Bool :=
  !s.blockedOnSectors s.nextId [key] && s.coin (2 ^ i + if isExposed key then 256 + exposedBlock key else p)

/-- Reads some bytes of block n ahead, by a free choice: each of them once, those without an error. -/
def State.fetchSome (s : State) (k : Fin 64) (ctx : Fin 4) (n : Nat) : State :=
  match s.head k ctx with
  | none => s
  | some c =>
    match s.blockKeys k ctx c false n, s.blockKeys k ctx c true n with
    | .ok src, .ok _ =>
      let ps := (src.zipIdx.filter fun x =>
        !c.moved false n x.2 && !s.poisonMet (readOf [x.1]) && s.drawn 33 x.1 (if c.transforms then 0 else x.2)).map (·.2)
      let keys := ps.filterMap fun p => src[p]?
      if (c.transforms && (ps.length != src.length || (s.carries c src).isNone)) || !s.mayCopy k ctx c false keys then s
      else s.fetchPlaces k ctx c n src ps.contains
    | _, _ => s

/-- Writes some bytes of block n ahead, by a free choice: none that an earlier block has still to write (R146). -/
def State.storeSome (s : State) (k : Fin 64) (ctx : Fin 4) (n : Nat) : State :=
  match s.head k ctx with
  | none => s
  | some c =>
    match s.blockKeys k ctx c false n, s.blockKeys k ctx c true n with
    | .ok src, .ok dst =>
      let before := ((List.range n).drop c.done).flatMap (s.blockAddrs k c true)
      let ps := ((dst.zip (s.blockAddrs k c true n)).zipIdx.filter fun x =>
        !c.moved true n x.2 && c.moved false n x.2 && !c.waitsForBlock k n x.2 && !before.contains x.1.2 &&
          !s.poisonMet (writeOf [x.1.1]) && s.drawn 35 x.1.1 x.2).map (·.2)
      if !s.mayCopy k ctx c true (ps.filterMap fun p => dst[p]?) then s else s.storePlaces k ctx c n src dst ps.contains
    | _, _ => s

/-- Bytes of a block yet to come may be read, and be seen at their destination, before the rest of it and before the blocks
ahead of it (R223, R230): a free choice moves some of them. Tiles that are complete with them flip. -/
def State.moveAhead (s : State) (k : Fin 64) (ctx : Fin 4) : State :=
  match s.head k ctx with
  | none => s
  | some c =>
    let n := c.done + (s.free (2 ^ 34)).toNat % max 1 (c.blocks k - c.done)
    if c.message.isSome || c.blocks k ≤ n || (c.awayAt k n).isSome || !s.mayBegin k ctx c n then s
    else ((s.fetchSome k ctx n).storeSome k ctx n).flipsAfter k ctx n

/-- On-chip stores that a command of fixed duration follows have their cycles too: where the core holds, and its pipelines
stand still, they are written when the command's block is due (R104; log entry 28). -/
def State.storesAhead (s : State) (k : Fin 64) (ctx : Fin 4) : State :=
  match s.head k ctx with
  | none => s
  | some c =>
    if (s.core k).held && c.fixed k && c.dueAt c.done ≤ s.sclk.toNat then
      let due := (s.core k).memq.filter fun m => c.before.contains m.id && m.act.isStore
      let s := s.modCore k fun co => { co with memq := co.memq.filter fun m => !(c.before.contains m.id && m.act.isStore) }
      due.foldl (fun s m => s.doStore k m) s
    else s

/-! ### Circuits (R92-R94) -/

/-- Transit cycles between the landings' cores: 32 on one die, 56 otherwise. -/
def transit (a b : Nat) : Nat := if a / 32 = b / 32 then 32 else 56

abbrev SlotTable := Nat × List (Nat × Nat × Nat)

/-- The core in a cluster to which an entry of a core is open in a cycle: the lowest. -/
def openTo (table : SlotTable) (a cl t : Nat) : Option (Fin 64) :=
  (minimum ((table.2.filter fun e => e.1 == t % table.1 && e.2.1 == a && e.2.2 / 8 == cl).map (·.2.2))).map (Fin.ofNat 64)

/-- The first cycle from t on with an entry from core b to core a. -/
def nextBack (table : SlotTable) (b a t : Nat) : Option Nat :=
  (List.range table.1).findSome? fun d =>
    if table.2.contains ((t + d) % table.1, b, a) then some (t + d) else none

/-- The slot table that serves a context: the one its launch names. A launch that names none uses no circuit (log entry
59). -/
def State.slotTableOf (s : State) (k : Fin 64) (c : Fin 4) : Option SlotTable :=
  match (s.launchOf k c).bind s.launch with
  | some la => if la.stab = 0 then none else (s.slotTables[la.part]?).getD none
  | none => none

def State.modMessage (s : State) (id : Nat) (f : Message → Message) : State :=
  { s with messages := s.messages.map fun m => if m.id = id then f m else m }

/-- What departs through a circuit: the next block of a channel's command, a block of it that came from another landing,
or the next block of a message's payload. -/
inductive Traffic where
  | block (ctx : Fin 4)
  | leg (ctx : Fin 4) (n : Nat)
  | payload (id : Nat)
  deriving DecidableEq, Repr

/-- The cluster that a place of a payload goes to. -/
def Message.clusterAt (m : Message) (i : Nat) : Nat := (m.dst.toNat + i - lbase) / landingBytes

/-- Pieces of a payload, cut at the ranges of the landings: those that go through circuits, or those that stay. -/
def Message.pieces (m : Message) (away : Bool := true) : List (Nat × Nat) :=
  (cutRow m.src.length [m.dst.toNat]).filter fun p => (m.clusterAt p.1 != clusterOf m.core) == away

/-- Bytes of a message's payload go to another cluster. -/
def Message.remote (m : Message) : Bool :=
  m.far.isNone && (m.clusterAt 0 != clusterOf m.core || m.clusterAt (m.src.length - 1) != clusterOf m.core)

/-- Blocks of a core that are ready to depart: cycle of readiness, order of acceptance, cluster and table. -/
def State.ready (s : State) (k : Fin 64) : List (Nat × Nat × Nat × Option SlotTable × Traffic) :=
  (allCtxs.flatMap fun c =>
    match s.head k c with
    | none => []
    | some cmd =>
      let table := s.slotTableOf k c
      (cmd.legs.filterMap fun l => (cmd.remoteAt k true l.2).map fun cl => (l.1, cmd.id, cl, table, .leg c l.2)) ++
      match if cmd.bad || cmd.blocks k ≤ cmd.done then none else cmd.readyAt, cmd.awayAt k cmd.done with
      | some t, some cl => [(t, cmd.id, cl, table, .block c)]
      | _, _ => []) ++
  (s.messages.filter fun m => m.core == k && m.accepted && m.remote && !m.data.isEmpty && m.sent < m.pieces.length).map
    fun m => (m.due, m.id, m.clusterAt ((m.pieces[m.sent]?).getD (0, 0)).1, s.slotTableOf m.core m.ctx, .payload m.id)

/-- The block that departs in this cycle (R94): those bound for one cluster go in the order they became ready, and one
goes in a cycle. -/
def State.departing (s : State) (k : Fin 64) : Option (Traffic × Nat × Fin 64) :=
  let all := sortOn (·.1) (sortOn (·.2.1) (s.ready k))
  let gone : Bool :=
    (allCtxs.any fun c => (s.channel k c).any fun cmd => cmd.circuit.any (·.1 == s.sclk.toNat)) ||
    s.messages.any fun m => m.core == k && m.circuit.any (·.1 == s.sclk.toNat)
  if gone then none
  else
    (List.range 8).findSome? fun cl =>
      match all.find? (·.2.2.1 == cl) with
      | some (_, _, _, some table, x) => (openTo table k cl s.sclk.toNat).map fun b => (x, cl, b)
      | _ => none

/-- The next block of a channel's command that goes through a circuit becomes ready, if nothing stands before it: one from main
memory once it has been read. -/
def State.makeReady (s : State) (k : Fin 64) (c : Fin 4) : State :=
  match s.head k c with
  | some cmd =>
    if cmd.message.isNone && cmd.readyAt.isNone && cmd.done < cmd.blocks k && (cmd.awayAt k cmd.done).isSome &&
        s.mayMove k c cmd cmd.done [false] then
      match s.blockKeys k c cmd false cmd.done, s.blockKeys k c cmd true cmd.done with
      | .ok src, .ok _ =>
        let ready (s : State) : State := s.modHead k c fun cmd => { cmd with readyAt := some s.sclk.toNat }
        if !cmd.src.isMain then ready s
        else
          match s.blockFault k c cmd cmd.done with
          | some f => s.stopAt k c f
          | none => ready (s.fetchPlaces k c cmd cmd.done src fun _ => true)
      | _, _ => s
    else s
  | none => s

/-- A block of a command departs: with its data, which are read now unless main memory held them; or the request for it. Of an
unbound command every block is ready with the first: the model's choice (log entry 38). -/
def State.departBlock (s : State) (k : Fin 64) (c : Fin 4) (b : Fin 64) : State :=
  match s.head k c, s.slotTableOf k c with
  | some cmd, some table =>
    let now := s.sclk.toNat
    let n := cmd.done
    let leave (s : State) (t : Nat) : State :=
      s.modHead k c fun cmd =>
        { cmd with
          done := n + 1, circuit := cmd.circuit ++ [(now, t, n, b)]
          readyAt := if n + 1 < cmd.blocks k && !cmd.regs.bound && !cmd.src.isMain then cmd.readyAt else none }
    if (cmd.remoteAt k false n).isSome then
      match nextBack table b k (now + transit k b + 22) with
      | some t => leave s t
      | none => s
    else
      match s.blockFault k c cmd n, s.blockKeys k c cmd false n with
      | some f, _ => s.stopAt k c f
      | none, .ok src => (leave (s.fetchPlaces k c cmd n src fun _ => true) (now + transit k b)).flipsAfter k c n
      | none, .error _ => s
  | _, _ => s

/-- CIRCUIT_BLOCK_DEPART (R94): the block of a core whose turn and open entry it is departs; one that is read from main
memory is ready from this step on. -/
def execCircuitBlockDepart (core : Fin 64) (ctx : Fin 4) (s : State) : Host.Outcome State Fault Refusal :=
  s.atPort core (.circuitBlockDepart core ctx) fun s =>
    let s := s.makeReady core ctx
    let now := s.sclk.toNat
    match s.departing core with
    | some (.block c, _, b) => s.departBlock core c b
    | some (.leg c n, _, b) =>
      s.modHead core c fun cmd =>
        { cmd with
          legs := cmd.legs.filter (·.2 != n), circuit := cmd.circuit ++ [(now, now + transit core b, n, b)] }
    | some (.payload id, _, b) =>
      s.modMessage id fun m =>
        { m with sent := m.sent + 1, circuit := m.circuit ++ [(now, now + transit core b, m.sent, b)] }
    | none => s

/-- A block under way through a circuit is due at the core whose turn it is. -/
def State.arrived (s : State) (x : Nat × Nat × Nat × Fin 64) : Bool :=
  x.2.1 ≤ s.sclk.toNat && s.circuitCore == some x.2.2.2

/-- Writes block n of a command, which has come; with the last one the command ends. -/
def State.landBlock (s : State) (k : Fin 64) (c : Fin 4) (n : Nat) : State :=
  match s.head k c with
  | none => s
  | some cmd =>
    match s.blockKeys k c cmd true n with
    | .error a => s.copyFault k c a
    | .ok dst =>
      if s.poisonMet (writeOf (cmd.leftOf true n dst)) then s.stopAt k c (s.firstLeft k cmd true n, true)
      else
        let src := match s.blockKeys k c cmd false n with
          | .ok src => src
          | .error _ => []
        (((s.storePlaces k c cmd n src dst fun _ => true).closeBlock k c n dst).flipsAfter k c n).endHead k c

/-- The data of block n are read where they lie, as they leave the other core, and are on their way back. -/
def State.answerBlock (s : State) (k : Fin 64) (c : Fin 4) (x : Nat × Nat × Nat × Fin 64) : State :=
  match s.head k c with
  | none => s
  | some cmd =>
    match s.blockKeys k c cmd false x.2.2.1 with
    | .error a => s.copyFault k c a
    | .ok src =>
      if s.poisonMet (readOf src) then s.stopAt k c (s.firstLeft k cmd false x.2.2.1, true)
      else
        (s.fetchPlaces k c cmd x.2.2.1 src fun _ => true).modHead k c fun cmd =>
          { cmd with circuit := cmd.circuit ++ [(x.1, s.sclk.toNat + transit k x.2.2.2, x.2.2.1, k)] }

/-- CIRCUIT_BLOCK_ARRIVE (R94): a block of a channel's command is due at the core whose turn it is (R90). What it was sent for
leaves there, at the entry that is open; or it is written through the circuit port. One that has come from one landing for
another is ready to depart again, and one for main memory waits for the engine. -/
def execCircuitBlockArrive (core : Fin 64) (ctx : Fin 4) (s : State) : Host.Outcome State Fault Refusal :=
  match s.head core ctx with
  | none => .next s
  | some cmd =>
    match cmd.circuit.find? s.arrived with
    | none => .next s
    | some x =>
      let n := x.2.2.1
      let t := s.modHead core ctx fun cmd => { cmd with circuit := cmd.circuit.erase x }
      if (cmd.remoteAt core false n).isSome && !cmd.complete core false n then .next (t.answerBlock core ctx x)
      else if (cmd.remoteAt core false n).isSome && x.2.2.2 == core &&
          ((cmd.remoteAt core true n).isSome || cmd.dst.isMain) then
        .next (t.modHead core ctx fun c => { c with legs := c.legs ++ [(s.sclk.toNat, n)] })
      else .next (t.landBlock core ctx n)

/-- Blocks that have come from other landings for main memory are written as the order of accesses allows. -/
def State.writeLegs (s : State) (k : Fin 64) (c : Fin 4) : State :=
  match s.head k c with
  | none => s
  | some cmd =>
    (cmd.legs.filter fun l => cmd.dst.isMain && (cmd.remoteAt k true l.2).isNone).foldl (fun (s : State) l =>
      match s.head k c with
      | none => s
      | some cmd =>
        let may : Bool := match s.blockKeys k c cmd true l.2 with
          | .ok dst => s.mayCopy k c cmd true dst && !s.blockedOnSectors s.nextId dst
          | .error _ => true
        if s.channelWaits k c || !may then s
        else (s.modHead k c fun cmd => { cmd with legs := cmd.legs.erase l }).landBlock k c l.2) s

/-! ### The steps of the engine -/

/-- COPY_COMMAND_START (R104): the channel starts its next command. -/
def execCopyCommandStart (core : Fin 64) (ctx : Fin 4) (s : State) : Host.Outcome State Fault Refusal :=
  .next (s.startHead core ctx)

/-- The command of a message that has left for another device ends where that device's inbox does not accept it (R101). -/
def State.refusedFar (s : State) (k : Fin 64) (c : Fin 4) : Bool :=
  match s.head k c with
  | some cmd => s.messages.any fun m => some m.id == cmd.message && m.far.isSome && m.sent != 0
  | none => false

/-- COPY_COMMAND_END (R104): the engine moves blocks of the channel's command, or bytes ahead of them; with the last one
the command ends. -/
def execCopyCommandEnd (core : Fin 64) (ctx : Fin 4) (blocks : Nat) (s : State) : Host.Outcome State Fault Refusal :=
  s.atPort core (.copyCommandEnd core ctx blocks) fun s =>
    if blocks = 0 then (if s.refusedFar core ctx then s.dropHead core ctx else (s.moveAhead core ctx).endHead core ctx)
    else (((s.storesAhead core ctx).writeLegs core ctx).moveBlocks core ctx blocks).endHead core ctx

/-- ENGINE_TILE_FINISH (R99, R193): the engine moves what is left of the ring tile of the channel's command, flips it
and steps the pointer; with the last one the command ends. -/
def execEngineTileFinish (core : Fin 64) (ctx : Fin 4) (s : State) : Host.Outcome State Fault Refusal :=
  s.atPort core (.engineTileFinish core ctx) fun s =>
    match s.head core ctx with
    | none => s
    | some cmd =>
      let left := (List.range (cmd.blocks core)).filter fun n =>
        cmd.done ≤ n && cmd.stream core n < (cmd.finished + 1) * tileBytes
      if cmd.regs.bound then (s.moveBlocks core ctx left.length).endHead core ctx else s

/-- Block n has to leave for another landing, and the launch has named no slot table (R93; log entry 59). -/
def State.noTable (s : State) (k : Fin 64) (c : Fin 4) (cmd : Command) (n : Nat) : Bool :=
  (cmd.awayAt k n).isSome && (s.slotTableOf k c).isNone

/-- The fault that the next block of a started command meets: the address that R106 names. -/
def State.nextFault (s : State) (k : Fin 64) (c : Fin 4) (cmd : Command) : Option Dword :=
  if cmd.started.isNone || cmd.message.isSome || cmd.bad || cmd.blocks k ≤ cmd.done then none
  else
    match s.blockKeys k c cmd false cmd.done, s.blockKeys k c cmd true cmd.done with
    | .error a, _ | .ok _, .error a => some a
    | _, _ =>
      if s.noTable k c cmd cmd.done then
        some (s.firstLeft k cmd (cmd.remoteAt k true cmd.done).isSome cmd.done)
      else none

/-- The launch of a context reaches a remote landing without a table: it completes as one with an invalid header (R93;
log entry 59). -/
def State.unrouted (s : State) (k : Fin 64) (c : Fin 4) : State :=
  match s.launchOf k c with
  | some l => s.modLaunch l fun la => { la with unrouted := true }
  | none => s

/-- COPY_FAULT (R106): a command whose next block meets a fault stops. -/
def execCopyFault (core : Fin 64) (ctx : Fin 4) (s : State) : Host.Outcome State Fault Refusal :=
  s.atPort core (.copyFault core ctx) fun s =>
    match s.head core ctx with
    | none => s
    | some cmd =>
      match s.nextFault core ctx cmd with
      | some a => (if s.noTable core ctx cmd cmd.done then s.unrouted core ctx else s).copyFault core ctx a
      | none => s

end Sys2Proof.Machine
end

