-- ==== Sys2Proof/Machine/Streams.lean ====
section
/-! DEFINITION. The stream forms of the M unit: CPY, CPYSH, CBADV, CBWT, OWNF and SEND (R98-R107, R146-R150), and the
acceptance of messages of this device (R20, R21). -/

namespace Sys2Proof.Machine

open Sys2Proof.Config

/-! ### CPY (R102, R103, R105, R106, R146) -/

/-- The side an address names. -/
def sideOf (k : Fin 64) (a : Dword) : Side :=
  match rangeOf k a.toNat with
  | .loc => .localMem a.toNat
  | .own | .remote => .landing a.toNat
  | .main => .main a

/-- A setting that R102 or R103 does not allow: the command moves nothing. -/
def State.badSettings (s : State) (r : CopyRegs) (x : BitVec 2) (src dst : Side) : Bool :=
  let ring := s.ring r.handle
  let other := if ring.role then dst else src
  r.rows == 0 || r.rowb == 0 || r.egeoReserved != 0 || r.ecfg &&& ~~~(0xF0FB#64) != 0 ||
  r.sizeClass == 0 || 8 < r.sizeClass || 2 ≤ r.policy ||
  (r.bound && (!s.holdsRing r.handle || r.total % 4096 != 0 || other.isLocal)) ||
  (x != 0 && r.rowb % 256 != 0)

/-- The pairs of sides that CMP and EXP accept (R103). -/
def transformSides (x : BitVec 2) (src dst : Side) : Bool :=
  let landing : Side → Bool
    | .landing _ => true
    | _ => false
  match x.toNat with
  | 1 => src.isLocal && landing dst
  | 2 => landing src && dst.isLocal
  | _ => true

/-- Counters as a charge would leave them; none past 2^40 - 1 (R105). -/
def Context.canCharge (cx : Context) : Bool := cx.pbsr < 2 ^ 40 && cx.pbsw < 2 ^ 40 && cx.pbmem < 2 ^ 40

/-- Landing and local stores of the issuing context that have not been written, and those that the log keeps (R230). -/
def State.storesOnChip (s : State) : List Nat :=
  let k := s.cur.core
  let c := s.cur.ctx
  let logged := (s.logged (.context k c)).filter fun a => a.act.keys.any chipKey
  ((s.onChip k c ++ logged).filter (·.act.isStore)).map (·.id)

/-- The counter that a side is charged to, as WAITB numbers it (R105, R151). -/
def Side.counter (side : Side) (write : Bool) : Nat := if side.isMain then 2 else if write then 1 else 0

/-- Commands that a WAITB can still tell apart: from the first that is in the channel or that the log keeps. -/
def State.acceptedNow (s : State) : List Accepted :=
  s.me.accepted.dropWhile fun a =>
    !(s.channel s.cur.core s.cur.ctx).any (·.id == a.id) && !s.counts a.id && !s.counts (a.id + 1)

/-- Accepts a command on the issuer's channel; an idle channel starts it at once. It takes two names. -/
def State.accept (s : State) (cmd : Command) (read write bytes : Nat) : State :=
  let s := s.modMe fun cx => { cx with accepted := s.acceptedNow ++ [⟨cmd.id, read, write, bytes⟩] }
  let s := s.modChannel s.cur.core s.cur.ctx (· ++ [cmd])
  s.fresh.fresh.startHead s.cur.core s.cur.ctx

/-- CPY (R146). A fault at acceptance is latched at once, and the command charges and moves nothing (R102, R106). A slot
that the task holds may be named while an earlier command fills it (log entry 69). A ring of ROLE 0 takes the place of a
slot, which then does not fill (R102). -/
def execCpy (a b : BitVec 6) (e : BitVec 1) (x : BitVec 2) (s : State) : Host.Outcome State Fault Refusal :=
  let srcA := s.sreg 0 b.toNat
  let dstA := s.sreg 1 a.toNat
  let k := s.cur.core
  let c := s.cur.ctx
  let r := s.me.copy
  let n := bits dstA 4 0
  let ring := s.ring r.handle
  let src0 := sideOf k srcA
  let dst0 := if e = 1 then Side.slot n (bits dstA 31 16) else sideOf k dstA
  let src := if r.bound && ring.role then .ringBuf r.handle else src0
  let dst := if r.bound && !ring.role then .ringBuf r.handle else dst0
  s.settle do
    checkAt ((s.channel k c).length < channelDepth && (s.me.chargeCopy src dst r.total).canCharge) .copyflt srcA
    check (e = 0 || (dstA &&& 0xFFFFFFFF0000FFE0 = 0 && s.holdsSlot n)) .perm
    match s.me.task with
    | none => trapWith .perm
    | some t =>
      if s.badSettings r x src0 dst0 || !transformSides x src dst then
        .ok (s.modMe (·.latch .copyflt srcA s.nextId)).fresh
      else
        let s := s.modMe (·.chargeCopy src dst r.total)
        let s := match dst with
          | .slot m _ => s.modSlot m fun sl => { sl with state := .filling }
          | _ => s
        .ok (s.accept
          { id := s.nextId, task := t, src := src, dst := dst, srcAddr := srcA, regs := r, xform := x, key := s.me.bkey
            done := 0, started := none, waited := 0, finished := 0, bad := false, message := none, circuit := []
            readyAt := none, legs := [], before := s.storesOnChip, edges := s.preceding k c, dirty := [], got := [], ahead := []
            unread := r.total, unwritten := r.total } (src.counter false) (dst.counter true) r.total)

/-! ### Channel registers and rings (R98, R102, R147) -/

/-- CBD as a word. -/
def Ring.word (r : Ring) : Dword :=
  BitVec.ofBool r.holder.isSome ++ BitVec.ofBool r.role ++ 0#3 ++ BitVec.ofNat 9 r.base ++ BitVec.ofNat 6 (r.len - 1) ++
    BitVec.ofNat 7 r.pp ++ BitVec.ofNat 7 r.cp ++ BitVec.ofNat 6 r.poff ++ BitVec.ofNat 6 r.coff ++ 0#2 ++ r.tag

/-- A descriptor that a write with EN = 1 sets up. -/
def Ring.ofWord (task : Nat) (v : Dword) : Ring :=
  ⟨some task, v.getLsbD 62, bits v 58 50, bits v 49 44 + 1, 0, 0, 0, 0, v.truncate 16⟩

/-- Sets the owner bits of tiles. -/
def Core.setOwner (co : Core) (tiles : List Nat) (engine : Bool) : Core :=
  { co with
    engineTiles := co.engineTiles.filter (!tiles.contains ·) ++ if engine then tiles.eraseDups else [] }

/-- An accepted, unfinished command of the channel is bound to a handle. -/
def State.boundTo (s : State) (k : Fin 64) (c : Fin 4) (h : Nat) : Bool :=
  (s.channel k c).any fun cmd => cmd.message.isNone && cmd.regs.bound && cmd.regs.handle == h

/-- A write of CBD h (R98): claims the handle with EN = 1, gives it up with EN = 0; either way the RW fields take what is
written. -/
def State.writeRing (s : State) (h : Nat) (v : Dword) : Except Stop State :=
  let k := s.cur.core
  match s.me.task with
  | none => trapWith .perm
  | some t =>
    let new := Ring.ofWord t v
    let en := v.getLsbD 63
    do
      check (!en || (tagValid new.tag && tagCode new.tag != 0x0F)) .format
      check (!en || new.tiles.all fun i => new.base + new.len ≤ 512 && s.taskTile k s.cur.ctx i) .window
      check (((s.ring h).holder.isNone || (s.ring h).holder == some t) && !s.boundTo k s.cur.ctx h) .perm
      if en then
        .ok ((s.modRing h fun _ => new).modMyCore (·.setOwner new.tiles (!new.role)))
      else
        .ok (s.modRing h fun r =>
          { r with holder := none, role := new.role, base := new.base, len := new.len, tag := new.tag })

/-- CPYSH (R147). -/
def execCpysh (a n : BitVec 6) (s : State) : Host.Outcome State Fault Refusal :=
  let v := s.sreg 0 a.toNat
  let set (f : CopyRegs → CopyRegs) : Host.Outcome State Fault Refusal :=
    .next (s.modMe fun cx => { cx with copy := f cx.copy })
  match n.toNat with
  | 0 => set fun r => { r with rows := bits v 63 48, rowb := bits v 31 0, egeoReserved := v.extractLsb' 32 16 }
  | 1 => set fun r => { r with ests := v }
  | 2 => set fun r => { r with estd := v }
  | 3 => set fun r => { r with ecfg := v }
  | m => s.settle (s.writeRing (m - 16) v)

/-- Accesses of the issuing context to local tiles that have not been made (R97). -/
def State.accessesTo (s : State) (tiles : List Nat) : List Nat :=
  let k := s.cur.core
  ((s.onChip k s.cur.ctx).filter fun a => a.act.keys.any fun key =>
    localKey k 0 ≤ key && key < localKey k localBytes && tiles.contains ((key - localKey k 0) / tileBytes)).map (·.id)

/-- A flip that takes effect at the end of a cycle, once the accesses before it have been made (R97). -/
def State.flip (s : State) (tiles : List Nat) (engine : Bool) : State :=
  s.modMyCore fun co => { co with flips := co.flips ++ [⟨tiles, engine, if engine then s.accessesTo tiles else []⟩] }

/-- The flips of a core that take effect at the end of this cycle. -/
def State.flipsDue (s : State) (k : Fin 64) : State :=
  let due (f : Flip) : Bool := s.allPerformed f.after
  let t := (((s.core k).flips.filter due).foldl fun s f =>
    s.noteFlip (.context k (Fin.ofNat 4 (f.tiles.headD 0 / 128))) (tileKeys k f.tiles)) s
  t.modCore k fun co =>
    { (co.flips.filter due).foldl (fun co f => co.setOwner f.tiles f.engine) co with
      flips := co.flips.filter (!due ·) }

/-- CBWT and CBADV: the handle is the task's (R148), and the count is 1 to N (R99). -/
def State.ringCount (s : State) (h n : Nat) : Except Stop Unit := do
  check (s.holdsRing h) .perm
  check (n ≠ 0 && n ≤ (s.ring h).len) .copyflt

/-- Tiles that the context's end of a ring finds: filled for ROLE 0, free for ROLE 1. -/
def Ring.ready (r : Ring) : Nat := if r.role then r.free else r.filled

/-- CBADV (R99, R148). -/
def execCbadv (a : BitVec 6) (i : BitVec 16) (s : State) : Host.Outcome State Fault Refusal :=
  let h := a.toNat
  let n := i.toNat
  let r := s.ring h
  s.settle do
    s.ringCount h n
    check (n ≤ r.ready) .copyflt
    let tiles := (List.range n).map fun j => r.tile ((if r.role then r.pp else r.cp) + j)
    .ok ((s.flip tiles true).modRing h fun r =>
      if r.role then { r with pp := r.step r.pp n, poff := 0 } else { r with cp := r.step r.cp n, coff := 0 })

/-- CBWT (R99, R148) holds at issue until the buffer has its tiles; then it does nothing. -/
def execCbwt (a : BitVec 6) (i : BitVec 16) (s : State) : Host.Outcome State Fault Refusal :=
  s.settle ((s.ringCount a.toNat i.toNat).map fun _ => s)

/-- Local tiles that a command touches: a SEND its payload (R149). -/
def State.commandTiles (s : State) (k : Fin 64) (cmd : Command) : List Nat :=
  match cmd.message with
  | none => s.localTiles k cmd
  | some id =>
    match s.messages.find? (·.id == id) with
    | some m => (m.src.filter fun x => localKey k 0 ≤ x && x < localKey k localBytes).map fun x =>
        (x - localKey k 0) / tileBytes
    | none => []

/-- OWNF (R97, R149). -/
def execOwnf (b c : BitVec 6) (d : BitVec 1) (s : State) : Host.Outcome State Fault Refusal :=
  let first := (s.sreg 0 b.toNat).toNat
  let tiles := (List.range (c.toNat + 1)).map (first + ·)
  let k := s.cur.core
  let ctx := s.cur.ctx
  let inRing (t : Nat) : Bool := s.myCore.rings.toList.any fun r => r.holder.isSome && r.tiles.contains t
  let busy : List Nat := if d = 1 then (s.channel k ctx).flatMap (s.commandTiles k) else []
  s.settle do
    check (tiles.all (s.taskTile k ctx)) .window
    check (tiles.all fun t => !inRing t && !busy.contains t) .perm
    .ok (s.flip tiles (d = 0))

/-! ### SEND (R20-R22, R107, R150) -/

/-- Reserved bits of a SEND descriptor. -/
def sendReserved : Dword := 0xFFFFFF80F0F000C0

/-- SEND (R150). TADDR of PERM is sB, whichever tile of the payload is at ENGINE: the model's choice (log entry 83). -/
def execSend (a b c : BitVec 6) (s : State) : Host.Outcome State Fault Refusal :=
  let x := s.sreg 2 c.toNat
  let dst := s.sreg 1 a.toNat
  let srcA := s.sreg 0 b.toNat
  let k := s.cur.core
  let ctx := s.cur.ctx
  let n := bits x 19 8 + 1
  let rank : BitVec 7 := BitVec.ofNat 7 (bits x 38 32)
  let own : Bool := rank == s.rank
  let as := addrRun srcA.toNat n
  let inRange (a : Nat) : Bool :=
    lbase ≤ a && a < lbase + landingRange && (!own || s.samePartition k ((a - lbase) / landingBytes))
  s.settle do
    match s.me.task, s.launchOf k ctx with
    | some t, some l =>
      let handlers := ((s.launch l).map (·.handlers)).getD []
      check (x &&& sendReserved = 0 && bits x 27 24 < handlers.length) .illegal
      checkAt ((addrRun dst.toNat n).all inRange) .window dst
      checkAt (rangeOf k srcA.toNat = .loc || rangeOf k srcA.toNat = .own) .window srcA
      checkAt (as.all fun a => rangeOf k a = rangeOf k srcA.toNat && s.byteFault k ctx .read a != some .window) .window srcA
      checkAt (as.all fun a => (s.byteFault k ctx .read a).isNone) .perm srcA
      checkAt ((s.channel k ctx).length < channelDepth && s.me.pbmem + n < 2 ^ 40) .copyflt srcA
      let id := s.nextId
      let handler := if own then (handlers[bits x 27 24]?).getD 0 else BitVec.ofNat 64 (bits x 27 24)
      let msg : Message :=
        { id := id, core := k, ctx := ctx, target := Fin.ofNat 64 (bits x 5 0), launch := l, handler := handler, dst := dst
          src := as.map (s.keyOf k ctx), sender := BitVec.ofNat 8 (4 * k + ctx), wkid := s.me.wkid, charge := n
          before := s.pendingStores k ctx, far := if own then none else some rank, ready := false, accepted := false
          chip := s.storesOnChip, order := s.preceding k ctx, edges := s.passedOn k ctx, view := s.me.view, data := [], due := 0, key := s.me.bkey, sent := 0, circuit := [], stale := [], ahead := [] }
      let s := s.modMe fun cx => { cx with pbmem := cx.pbmem + n }
      let s : State := { s with messages := s.messages ++ [msg] }
      .ok (s.accept
        { id := id, task := t, src := sideOf k srcA, dst := sideOf k dst, srcAddr := srcA, regs := CopyRegs.reset, xform := 0
          key := s.me.bkey, done := 0, started := none, waited := 0, finished := 0, bad := false, message := some id
          circuit := [], readyAt := none, legs := [], before := s.storesOnChip, edges := s.preceding k ctx, dirty := []
          got := [], ahead := [], unread := 0, unwritten := 0 } 2 3 n)
    | _, _ => trapWith .perm

/-! ### Messages of this device (R20, R21, R107) -/

/-- A launch holds message contexts on a core. -/
def State.holdsMessages (s : State) (k : Fin 64) (l : Nat) : Bool :=
  allCtxs.any fun c => (s.ctx k c).reservedLaunch == some l

/-- Messages accepted for a core that have not been placed in its inbox. -/
def State.onTheWay (s : State) (k : Fin 64) : List Message :=
  s.messages.filter fun m => m.accepted && m.far.isNone && m.target == k && s.holdsMessages k m.launch

/-- The launches of the entries of an inbox and of the messages that have a place in it. -/
def State.inboxLaunches (s : State) (k : Fin 64) : List Nat :=
  (s.core k).inbox.map (·.launch) ++ (s.onTheWay k).map (·.launch)

/-- The inbox has room for a message of a launch: one entry, and one for every other launch that has none (R20). -/
def State.inboxRoom (s : State) (k : Fin 64) (l : Nat) : Bool :=
  let used := s.inboxLaunches k
  let others := (List.range s.launches.length).filter fun o => o != l && s.holdsMessages k o && !used.contains o
  used.length + others.length + 1 ≤ fifoDepth

/-- Messages from the same channel to the same core that were sent before and have not been accepted. -/
def State.behind (s : State) (m : Message) : Bool :=
  s.messages.any fun o =>
    o.id < m.id && !o.accepted && o.core == m.core && o.ctx == m.ctx && o.target == m.target && o.far == m.far

/-- The command that carries a message leaves its channel, and the next command starts (R101, R104). -/
def State.dropCarrier (s : State) (m : Message) : State :=
  (s.modChannel m.core m.ctx (·.filter (·.message != some m.id))).startHead m.core m.ctx

/-- A message's charge comes off the sender's PBMEM. -/
def State.uncharge (s : State) (m : Message) : State :=
  s.modCtx m.core m.ctx fun cx => { cx with pbmem := cx.pbmem - m.charge }

/-- The message's command stands at the head of its channel and has started, or the message waits outside. -/
def State.offered (s : State) (m : Message) : Bool :=
  m.ready ||
  match s.head m.core m.ctx with
  | some cmd => cmd.message == some m.id && cmd.started.isSome
  | none => false

/-- The landing and local stores that the SEND follows have been written (R22, R230). -/
def State.payloadReady (s : State) (m : Message) : Bool := s.allPerformed m.chip

/-- A byte of a payload as it is read. One that a program has written since, too soon, is old or new: a free choice
(R107). -/
def State.payloadByte (s : State) (m : Message) (place key : Nat) : Byte :=
  let old := (m.stale.filter (·.1 == key)).map (·.2)
  old.zipIdx.foldl (fun b p => if s.coin (2 ^ 36 + 4096 * p.2 + place) then p.1 else b) (s.byte key)

/-- Accesses of a message's payload, as events: its reads bear its name, its writes the next. -/
def Message.reads (m : Message) : Async :=
  { plainAccess m.id (readOf m.src) [] with within := m.chip.map (·, 5) ++ m.order }
def Message.writes (m : Message) (keys : List Nat) : Async :=
  { plainAccess (m.id + 1) (writeOf keys) [] with within := m.chip.map (·, 5) ++ m.order }

/-- A message is given up. -/
def State.dropMessage (s : State) (m : Message) : State :=
  (State.dropCarrier { s with messages := s.messages.filter (·.id != m.id) } m).uncharge m

/-- The payload of a message, read once the stores before it are written (R107, R230). A payload that holds an
uncorrectable error is given up (R270): its charge comes off, COPYFLT is latched with the SEND's source address (log entry
70), and no handler starts. -/
def State.readPayload (s : State) (m : Message) (srcAddr : Dword) : State :=
  let s := s.makeWay (.channel m.core m.ctx) m.reads
  if s.poisonMet (readOf m.src) then
    (s.countError.dropMessage m).modCtx m.core m.ctx fun cx => cx.latch .copyflt srcAddr m.id
  else
    let data := m.src.zipIdx.map fun p => s.payloadByte m p.2 p.1
    (s.modMessage m.id fun m => { m with data := data, stale := [] }).note (.channel m.core m.ctx) m.reads

/-- The source address of the SEND of a message. -/
def State.payloadSource (s : State) (m : Message) : Dword :=
  match (s.channel m.core m.ctx).find? (·.message == some m.id) with
  | some cmd => cmd.srcAddr
  | none => 0

/-- A message for another cluster, and its launch has named no slot table: it completes as one with an invalid header, and
the message is given up (R93; log entry 59). -/
def State.sendUnrouted (s : State) (m : Message) : State :=
  ((s.dropMessage m).modCtx m.core m.ctx fun cx => cx.latch .copyflt m.dst m.id).modLaunch m.launch fun la => { la with unrouted := true }

/-- Accepts a message (R20, R21, R150): its charge comes off unless it starts no handler, and its payload is read once
the stores before it are written. What lands in the own cluster is written as a copy of its blocks (R104), what goes to
another goes through circuits (R94). -/
def State.acceptMessage (s : State) (m : Message) : State :=
  let now := s.sclk.toNat
  if m.remote && (s.slotTableOf m.core m.ctx).isNone then s.sendUnrouted m
  else
    let s := if s.holdsMessages m.target m.launch then s.uncharge m else s
    let s := s.modMessage m.id fun m =>
      { m with
        accepted := true, due := if m.remote then now else now + 16 + 4 * ceilDiv m.src.length 256
        charge := if s.holdsMessages m.target m.launch then 0 else m.charge }
    if s.payloadReady m then s.readPayload m (s.payloadSource m) else s

/-- A message for another device leaves on channel 1, once the stores that its handler follows have been performed (R22,
R302). It stays charged until that device's inbox accepts it (R21). -/
def State.sendFar (s : State) (m : Message) (rank : BitVec 7) : State :=
  let link := s.linkTo rank
  if s.credit link 1 = 0 || !s.payloadReady m || !s.allPerformed m.before then s
  else if m.data.isEmpty then s.readPayload m (s.payloadSource m)
  else
    ((s.sendFlit link 1).emit
      (.messageOut rank (BitVec.ofNat 6 m.target) (m.handler.truncate 4) m.dst m.data m.sender m.wkid m.key)).modMessage
        m.id fun m => { m with sent := 1 }

/-- The inbox of another device has accepted a message (R21, R105): messages of one channel to one core in the order in
which they were sent (R107). -/
def State.acceptedFar (s : State) (m : Message) : State :=
  if s.behind m then s else s.dropMessage m

/-- Keys of the bytes of a payload at its destination. -/
def Message.keys (m : Message) : List Nat :=
  (List.range m.data.length).map fun i => landingKey (m.dst.toNat - lbase + i) m.key

/-- A message whose payload has landed is placed in the inbox (R107); where its launch holds no message context, it is
counted and starts no handler (R150). -/
def State.deliver (s : State) (m : Message) : State :=
  let s := State.dropCarrier { s with messages := s.messages.filter (·.id != m.id) } m
  if s.holdsMessages m.target m.launch then
    s.modCore m.target fun co =>
      { co with inbox := co.inbox ++
          [⟨m.launch, m.handler, m.dst, m.data.length, m.sender, s.rank, m.wkid, m.before, m.edges, m.view⟩] }
  else (s.uncharge m).modLaunch m.launch fun l => { l with undelivered := l.undelivered + 1 }

/-- Stores bytes of a payload by their places, each once, as an event of the sender's channel. -/
def State.storePayload (s : State) (m : Message) (now : Nat → Bool) : State :=
  let some_ := (m.keys.zip m.data).zipIdx.filter fun p => now p.2 && !m.ahead.contains p.2
  let cells := some_.map (·.1)
  if cells.isEmpty then s
  else
    let s := s.makeWay (.channel m.core m.ctx) (m.writes (cells.map (·.1)))
    let s := s.stain (fun q => m.id < q.id && q.core == m.core && q.ctx == m.ctx && !m.ready) (cells.map (·.1))
    (((s.plainStore s.nextId cells).1).note (.channel m.core m.ctx) (m.writes (cells.map (·.1)))).modMessage m.id fun m =>
      { m with ahead := m.ahead ++ some_.map (·.2) }

/-- A message is placed in the inbox once all its bytes have been written. -/
def State.deliverWhole (s : State) (id : Nat) : State :=
  match s.messages.find? (·.id == id) with
  | some m => if m.ahead.length = m.data.length then s.deliver m else s
  | none => s

/-- A block of a payload that is due arrives and is written (R94). -/
def State.payloadBlock (s : State) (m : Message) (x : Nat × Nat × Nat × Fin 64) : State :=
  let p := (m.pieces[x.2.2.1]?).getD (0, 0)
  ((s.storePayload m fun i => p.1 ≤ i && i < p.1 + p.2).modMessage m.id fun m =>
    { m with circuit := m.circuit.erase x }).deliverWhole m.id

/-- A place of a payload that lands in the own cluster. -/
def Message.atHome (m : Message) (i : Nat) : Bool := !m.remote || m.clusterAt i == clusterOf m.core

/-- Bytes that land in the own cluster are still to be written. -/
def Message.homeLeft (m : Message) : Bool := (List.range m.data.length).any fun i => m.atHome i && !m.ahead.contains i

/-- The cycle in which the last of those is written: they are copied as blocks of their own (R104). -/
def Message.homeDue (m : Message) : Nat :=
  if m.remote then m.due + 16 + 4 * ceilDiv ((List.range m.src.length).filter m.atHome).length 256 else m.due

/-- What of an accepted message, whose payload has been read, lands in the own cluster is written: some bytes ahead of their
last cycle by a free choice (R223), but never the last. -/
def State.payloadStep (s : State) (m : Message) : State :=
  let last := (((List.range m.data.length).filter m.atHome).getLast?).getD 0
  if s.sclk.toNat < m.homeDue then s.storePayload m fun i => m.atHome i && i != last && s.coin (2 ^ 33 + i)
  else (s.storePayload m m.atHome).deliverWhole m.id

/-- The next step of a message of this device or of one for another, at the turn of its core (R90). -/
def State.messageStep (s : State) (m : Message) : State :=
  match m.far with
  | some rank => if m.sent != 0 then s.acceptedFar m else if s.offered m then s.sendFar m rank else s
  | none =>
    if m.accepted && m.data.isEmpty then (if s.payloadReady m then s.readPayload m (s.payloadSource m) else s)
    else if m.accepted then s.payloadStep m
    else if !s.offered m then s
    else if !s.behind m && (!s.holdsMessages m.target m.launch || s.inboxRoom m.target m.launch) then s.acceptMessage m
    else (s.modMessage m.id fun m => { m with ready := true }).dropCarrier m

/-- INBOX_ACCEPT (R20): a message that its channel offers is accepted where its inbox has room and no earlier message to
its core waits, and otherwise leaves the channel and waits (R101, R107); an accepted one is written and, with its last
byte, placed in the inbox. Blocks that come through a circuit are written at the turn of the core that they come to. -/
def execInboxAccept (msg : Nat) (s : State) : Host.Outcome State Fault Refusal :=
  match s.messages.find? (·.id == msg) with
  | none => .next s
  | some m =>
    match m.circuit.find? s.arrived with
    | some x => .next (s.payloadBlock m x)
    | none => s.atPort m.core (.inboxAccept msg) fun s => s.messageStep m

end Sys2Proof.Machine
end

