-- ==== Sys2Proof/Machine/Images.lean ====
section
/-! DEFINITION. Context images and pre-emption frames: their layouts, CTXSV and CTXRS, and saving and restoring what a
task holds on its core (R264-R268). -/

namespace Sys2Proof.Machine

open Sys2Proof.Config

/-! ### Pieces of an image -/

def imageSizeBytes : Nat := 65536
def frameBytes : Nat := 2 ^ 23

/-- Bytes cut to n or filled with zeros. -/
def fit (n : Nat) (bs : List Byte) : List Byte := (bs ++ List.replicate (n - bs.length) 0).take n

def dwords (vs : List Dword) : List Byte := vs.flatMap fun v => leBytes 8 v.toNat
def dwordAt (bs : List Byte) (o : Nat) : Dword := BitVec.ofNat 64 (leValue ((bs.drop o).take 8))

/-- WAITREC (R265). A wait that has been released is not saved as one. -/
def Waiting.record : Waiting → Dword
  | .tbwait r n p _ => 1#2 ++ 0#8 ++ BitVec.ofNat 6 r ++ 0#12 ++ BitVec.ofNat 4 n ++ p
  | .blzwt r n q => 2#2 ++ 0#8 ++ BitVec.ofNat 6 r ++ 0#12 ++ BitVec.ofNat 4 n ++ q
  | .oclaim n => 3#2 ++ 0#30 ++ BitVec.ofNat 32 n
  | _ => 0

/-- The wait that a WAITREC names. -/
def waitOfRecord (v : Dword) : Option Waiting :=
  let r := bits v 53 48
  let n := bits v 35 32
  match bits v 63 62 with
  | 1 => some (.tbwait r n (v.truncate 32) false)
  | 2 => some (.blzwt r n (v.truncate 32))
  | 3 => some (.oclaim (bits v 31 0))
  | _ => none

def XferKind.num : XferKind → Nat
  | .br => 1
  | .brq => 2
  | .jr => 3
  | .call => 4
  | .callr => 5
  | .ret => 6
  | .loop => 7
  | .loopi => 8

def XferKind.ofNum : Nat → Option XferKind
  | 1 => some .br
  | 2 => some .brq
  | 3 => some .jr
  | 4 => some .call
  | 5 => some .callr
  | 6 => some .ret
  | 7 => some .loop
  | 8 => some .loopi
  | _ => none

/-- Target, kind, count and end of a pending transfer; the last two only for the loop forms. -/
def xferDwords (x : Option Xfer) : Dword × List Dword :=
  match x with
  | none => (0, [0, 0, 0])
  | some x =>
    let loop : Bool := 7 ≤ x.kind.num
    (x.target, [BitVec.ofNat 64 x.kind.num, if loop then x.count else 0, if loop then x.stop else 0])

def loopBytes (l : List LoopEntry) : List Byte :=
  let outer := l.reverse
  fit 96 (dwords (outer.flatMap fun e => [e.start, e.stop, e.count])) ++ dwords [BitVec.ofNat 64 (min 4 outer.length)]

def repBytes (b : RepBuf) : List Byte :=
  (b.toList.flatMap fun w => leBytes 4 ((w.map (·.toNat)).getD 0)) ++ dwords [BitVec.ofNat 64 b.mask]

def Latch.tagDword (l : Latch) : Dword := BitVec.ofBool l.poison ++ 0#47 ++ l.tag

/-- A snapshot entry (R265): 272 bytes. A vector entry gives the register as it stands once the entry has landed, the
entries before it having landed. k has eight bits: of a count that passes 255, as the NFC increment of a fold that bucks
can have, they hold the low eight, and CTXRS lands it so much earlier (log entry 71). -/
def snapEntry (kind reg left : Nat) (tag : Half) (value : List Byte) : List Byte :=
  leBytes 8 (kind * 2 ^ 56 + reg % 256 * 2 ^ 48 + left % 256 * 2 ^ 40 + tag.toNat * 2 ^ 24) ++ value

/-- Results in flight in the order in which they are replayed: by their cycle, in one cycle by issue, and last the pushes
by unit class (R54, R59, R259). -/
def replayOrder (l : List Flight) : List Flight :=
  let due := sortById l
  sortOn (·.left) (due.filter (!·.what.isPush) ++ sortOn (·.unit) (due.filter (·.what.isPush)))

def snapEntries (vregs : Vector VReg 32) : List Flight → List Byte
  | [] => []
  | f :: fs =>
    let dword (kind reg : Nat) (v : Dword) : List Byte := fit 272 (snapEntry kind reg f.left 0 (leBytes 8 v.toNat))
    match f.what with
    | .scalar r v => dword 0 r v ++ snapEntries vregs fs
    | .vector r tag lanes which =>
      let new := mergeLanes ((vregs[r]?).getD VReg.zero).lanes lanes which
      snapEntry 1 r f.left tag (List.replicate 8 0 ++ new.toList.flatMap fun w => leBytes 4 w.toNat) ++
        snapEntries (vregs.setIfInBounds r ⟨tag, new⟩) fs
    | .pred q v => dword 2 q v ++ snapEntries vregs fs
    | .push n v => dword 3 n v ++ snapEntries vregs fs
    | .nfc n a => dword 4 n (BitVec.ofNat 64 a) ++ snapEntries vregs fs
    | .link v => dword 5 31 v ++ snapEntries vregs fs
    | _ => snapEntries vregs fs

/-- The result that an entry of an image stands for; kinds that R265 does not give stand for none. `old` is the result as
the context that was switched out has it, which knows what the entry does not say: the whole of k, and that the re-entered
bundle itself has issued it, so that its other slots read the value from before it (R58; log entry 71). -/
def snapFlight (id : Nat) (old : Option Flight) (e : List Byte) : Option Flight :=
  let h := dwordAt e 0
  let v := dwordAt e 8
  let reg := bits h 55 48
  let what : Option Landing :=
    match bits h 63 56 with
    | 0 => some (.scalar reg v)
    | 1 => some (.vector reg (h.extractLsb' 24 16)
        (Vector.ofFn fun l => BitVec.ofNat 32 (leValue ((e.drop (16 + 4 * l)).take 4))) allLanes)
    | 2 => some (.pred reg v)
    | 3 => some (.push reg v)
    | 4 => some (.nfc reg v.toNat)
    | 5 => some (.link v)
    | _ => none
  what.map fun w =>
    match old with
    | none => ⟨id, bits h 47 40, true, false, [], 0, 0, w⟩
    | some f => ⟨id, if f.left % 256 = bits h 47 40 then f.left else bits h 47 40, f.fresh, f.overtaken, [], 0, f.unit, w⟩

/-! ### Images (R265) -/

/-- The context is frozen: what re-entry would resume stands in its trap registers and its shadow. -/
def Context.frozen (cx : Context) : Bool := cx.tm || cx.state == .swapped

/-- CLEAN: nothing of the context is under way; a buck or accord of a sibling counts for that one (R209, R265). -/
def State.clean (s : State) (k : Fin 64) (c : Fin 4) : Bool :=
  let cx := s.ctx k c
  cx.snapshot.isEmpty && cx.held.isEmpty && cx.pbsr == 0 && cx.pbsw == 0 && cx.pbmem == 0 && !s.sketchRuns k c

/-- The image of a context. In trap mode s28-s31 and q23 come from the trap record, and the wait from what CTXRS
installed. -/
def Context.image (cx : Context) (clean light : Bool) (record : Option (List Dword)) : List Byte :=
  let z := cx.frozen
  let wait := if cx.tm then cx.waitrec else cx.wait
  let rec28 (i : Nat) (old : Dword) : Dword := match record with
    | some r => (r[i]?).getD 0
    | none => old
  let pending := if z then cx.pending else none
  let snapn := if z then min cx.snapshot.length 192 else 0
  let tstat : Dword := BitVec.ofNat 64 <|
    bit pending.isSome * 2 ^ 62 + snapn * 2 ^ 48 + (if z then cx.blk.toNat * 2 ^ 8 + cx.resume.toNat else 0)
  let loops := if z then cx.shadow.loops else cx.loops
  let rep := if z then cx.shadow.repbuf else cx.repbuf
  let la := if z then cx.shadow.latchA else cx.latchA
  let lb := if z then cx.shadow.latchB else cx.latchB
  let x := xferDwords pending
  fit 0x300 (
    dwords [BitVec.ofNat 64 (2 ^ 48 + bit wait.isSome * 8 + bit light * 4 + bit clean * 2 + 1),
      if z then cx.tepc else cx.pc, tstat, cx.tvec, cx.tsp, cx.qbound.zeroExtend 64, cx.qcountReg, x.1,
      BitVec.ofNat 64 (cx.pbsr % 2 ^ 40), BitVec.ofNat 64 (cx.pbsw % 2 ^ 40), BitVec.ofNat 64 (cx.pbmem % 2 ^ 40),
      (wait.map (·.record)).getD 0] ++ dwords x.2 ++ dwords [0] ++
    dwords (cx.nfc.toList.map (·.zeroExtend 64)) ++
    dwords ((List.finRange 32).map fun (i : Fin 32) => if 28 ≤ i.val then rec28 (i.val - 28) (cx.sregs.get i) else cx.sregs.get i) ++
    dwords ((List.finRange 24).map fun (i : Fin 24) => if i.val = 23 then rec28 4 (cx.preds.get i) else cx.preds.get i) ++
    cx.vregs.toList.flatMap fun v => leBytes 2 v.tag.toNat) ++
  fit 0x80 (loopBytes loops) ++
  fit 0x80 (repBytes rep) ++
  fit 0xC00 (dwords [la.tagDword, lb.tagDword] ++ fit 512 la.data ++ fit 768 lb.data) ++
  (cx.vregs.toList.flatMap fun v => v.lanes.toList.flatMap fun w => leBytes 4 w.toNat) ++
  fit 0xD000 (snapEntries cx.vregs ((replayOrder cx.snapshot).take 192))

/-- VALID is 1 and the version is 1. -/
def imageValid (img : List Byte) : Bool := (dwordAt img 0).getLsbD 0 && bits (dwordAt img 0) 63 48 == 1

/-- The transfer that an image holds pending. -/
def imageXfer (img : List Byte) : Option Xfer :=
  if (dwordAt img 0x10).getLsbD 62 then
    (XferKind.ofNum (bits (dwordAt img 0x60) 3 0)).map fun k =>
      ⟨k, dwordAt img 0x38, dwordAt img 0x68, dwordAt img 0x70⟩
  else none

/-- The loop stack of an image, innermost first. -/
def imageLoops (img : List Byte) : List LoopEntry :=
  ((List.range (min 4 (dwordAt img 0x360).toNat)).map fun i =>
    (⟨dwordAt img (0x300 + 24 * i), dwordAt img (0x308 + 24 * i), dwordAt img (0x310 + 24 * i)⟩ : LoopEntry)).reverse

def imageRep (img : List Byte) : RepBuf :=
  Vector.ofFn fun u =>
    if (dwordAt img 0x3A0).getLsbD u then some (BitVec.ofNat 32 (leValue ((img.drop (0x380 + 4 * u)).take 4))) else none

/-- Latch A or B of an image: its tag dword and its bytes. -/
def imageLatch (img : List Byte) (tagAt at_ n : Nat) : Latch :=
  ⟨(dwordAt img tagAt).truncate 16, (img.drop at_).take n, (dwordAt img tagAt).getLsbD 63⟩

/-- Installs an image as the state that re-entry resumes (R266). `names` is the name of the first snapshot entry, and `old`
gives the results that the context had in flight, in replay order; of an image of other origin there are none, and its
entries count as results of the re-entered bundle (log entry 71). In trap mode s28-s31 and q23 stand: theirs go to the trap
record. -/
def Context.install (cx : Context) (img : List Byte) (names : Nat) (old : List Flight) : Context :=
  let ts := dwordAt img 0x10
  let sreg (i : Nat) : Dword := if i = 0 then 0 else dwordAt img (0x100 + 8 * i)
  { cx with
    tepc := dwordAt img 8 &&& ~~~3
    resume := ts.truncate 3, blk := ts.extractLsb' 8 2, xfer := ts.getLsbD 62, pending := imageXfer img
    pendingExit := false, pendingSoft := none
    tvec := dwordAt img 0x18 &&& ~~~3, tsp := dwordAt img 0x20 &&& ~~~63
    qbound := (dwordAt img 0x28).truncate 32
    qcount := (dwordAt img 0x30).truncate 32, qmiss := (dwordAt img 0x30).getLsbD 63
    waitrec := if (dwordAt img 0).getLsbD 3 then waitOfRecord (dwordAt img 0x58) else none
    nfc := Vector.ofFn fun i => (dwordAt img (0x80 + 8 * i)).truncate 32
    sregs := Vector.ofFn fun i => if cx.tm && 28 ≤ i.val then cx.sregs.get i else sreg i
    preds := Vector.ofFn fun i => if cx.tm && i.val = 23 then cx.preds.get i else dwordAt img (0x200 + 8 * i)
    vregs := Vector.ofFn fun i =>
      ⟨BitVec.ofNat 16 (leValue ((img.drop (0x2C0 + 2 * i)).take 2)),
        Vector.ofFn fun l => BitVec.ofNat 32 (leValue ((img.drop (0x1000 + 256 * i + 4 * l)).take 4))⟩
    shadow := ⟨imageLoops img, imageRep img, imageLatch img 0x400 0x410 512, imageLatch img 0x408 0x610 768⟩
    snapshot := (List.range (min 192 (bits ts 55 48))).filterMap fun i =>
      snapFlight (names + i) old[i]? ((img.drop (0x3000 + 272 * i)).take 272) }

/-- The results that a context had in flight have new names: a busy window finds its NFC increment again, by what it is and
when it lands (R49, R265). -/
def Busy.follow (old new : List Flight) (b : Busy) : Busy :=
  { b with nfc := b.nfc.bind fun id => (old.find? (·.id == id)).bind fun f =>
      (new.find? fun g => g.what == f.what && g.left % 256 == f.left % 256).map (·.id) }

/-- The busy windows of a context's forms follow its results from the state before. -/
def State.followNfc (s : State) (k : Fin 64) (c : Fin 4) (old : List Flight) : State :=
  let new := (s.ctx k c).snapshot
  s.modCore k fun co =>
    { co with sketches := co.sketches.map fun d =>
        { d with busy := d.busy.map fun b => if b.ctx = c then b.follow old new else b } }

/-- The record that an image puts at its TSP: s28-s31 and q23. -/
def imageRecord (img : List Byte) : List Byte :=
  dwords ((List.range 4).map (fun i => dwordAt img (0x1E0 + 8 * i)) ++ [dwordAt img 0x2B8]) ++ List.replicate 24 0

/-! ### CTXSV and CTXRS (R266) -/

/-- The 64 KiB of an image lie in one pinned, resident entry with read and write rights, or in local tiles of the
task. The rule names no cause where they do not: WINDOW where no entry covers them, or a landing, PERM for an entry that is
not pinned or lacks a right, as of an access, is the model's choice (log entry 96). -/
def State.imageArea (s : State) (k : Fin 64) (c : Fin 4) (a : Dword) : Except Stop Unit := do
  alignedTo imageSizeBytes a
  match rangeOf k a.toNat with
  | .loc =>
    let tiles := (List.range 16).map fun i => (a.toNat - locbase) / tileBytes + i
    checkAt (tiles.all (s.taskTile k c)) .window a
    checkAt (!tiles.any (s.core k).engineTiles.contains) .perm a
  | .main =>
    match s.entryOf k c a.toNat with
    | none => trapAt .window a
    | some e =>
      checkAt (e.covers (a.toNat + imageSizeBytes - 1) && (!e.comp || s.regs.cmpEn)) .window a
      checkAt (e.pin && e.perm.getLsbD 0 && e.perm.getLsbD 1) .perm a
      checkAt e.res .page a
  | _ => trapAt .window a

def State.imageKeys (s : State) (k : Fin 64) (c : Fin 4) (a : Dword) : List Nat :=
  (addrRun a.toNat imageSizeBytes).map (s.keyOf k c)

/-- Either form: in task mode PERM; otherwise the context waits until the accesses are made. -/
def State.imageForm (s : State) (b : BitVec 6) (tags : Bool) (w : Dword → Waiting) : Host.Outcome State Fault Refusal :=
  let a := s.sreg 0 b.toNat
  s.settle do
    check s.me.tm .perm
    check tags .format
    s.imageArea s.cur.core s.cur.ctx a
    .ok (s.modMe fun cx => { cx with state := .waiting, wait := some (w a), imageCells := [] })

/-- CTXSV (R266): it reads v0-v31, of which every one must bear a valid tag (R31, R33). -/
def execCtxsv (b : BitVec 6) (s : State) : Host.Outcome State Fault Refusal :=
  s.imageForm b (s.me.vregs.toList.all fun v => tagValid v.tag) .ctxsv

/-- CTXRS (R266): invalid tags are taken as stored. -/
def execCtxrs (b : BitVec 6) (s : State) : Host.Outcome State Fault Refusal := s.imageForm b true .ctxrs

/-- The context goes on. -/
def State.endWait (s : State) (k : Fin 64) (c : Fin 4) : State :=
  s.modCtx k c fun cx => { cx with state := .ready, wait := none, waitCount := 0, imageCells := [] }

/-- A result of the context whose value is not known yet. -/
def Context.promised (cx : Context) : Bool :=
  cx.snapshot.any fun f =>
    match f.what with
    | .load _ | .await _ => true
    | _ => false

/-- A context that has stopped at a cut whose bundle carries the light flag (R120). One that is saved in a wait takes no
cut (R248). -/
def State.lightAt (s : State) (k : Fin 64) (c : Fin 4) : Bool :=
  (s.ctx k c).state == .ready &&
  match s.bundleAt k c with
  | .ok b =>
    match (b.slots.get 0).bind decode with
    | some (.quiet _ l) => l == 1
    | _ => false
  | _ => false

/-- An access of a waiting form, to the image or to the trap record, as it stands among the accesses of its context. -/
def State.imageAccess (s : State) (k : Fin 64) (c : Fin 4) (a : Dword) (n : Nat) (act : MemAct) : Async :=
  { plainAccess s.nextId act [] with
    addr := a, kind := if rangeOf k a.toNat = .main then s.kindOf k c (addrRun a.toNat n) else .strong }

/-- Every access that stands before one of a waiting form has been performed (R222-R227). -/
def State.imageTurn (s : State) (b : Async) (k : Fin 64) (c : Fin 4) : Bool :=
  s.allPerformed (s.orderBefore k c b) && s.allPerformed ((s.scopedBefore k c b).map (·.1))

/-- An access of a waiting form to its trap record: a fault of it is nested (R261), and it counts as one access to main
memory (R271). `use` takes the state and the keys of the record. -/
def State.withRecord (s : State) (k : Fin 64) (c : Fin 4) (right : Right) (a : Nat)
    (use : State → List Nat → Except Fault State) : Except Fault State :=
  match s.recordKeys k c right a with
  | .error (.fault f) => .error f
  | .error (.trap t) => .ok (s.nested k c t.cause)
  | .ok keys =>
    let act := if right = .write then writeOf keys else readOf keys
    if !s.imageTurn (s.imageAccess k c (BitVec.ofNat 64 a) 64 act) k c then .ok s
    else if s.poisonMet act then .ok (s.countError.nested k c .poison)
    else use (if rangeOf k a = .main then s.countAccess k c (addrRun a 64) else s) keys

/-- Single-copy-atomic units of an image of which some are accessed now, by a free choice: all that are left, or some of
them (R266). In the exposed space they are whole blocks (R279). -/
def State.imageUnits (s : State) (l : List (Nat × Byte)) : List (Nat × Byte) :=
  let units := inUnits (if l.any fun x => isExposed x.1 then 256 else 8) l
  if s.coin (2 ^ 35) then l else (s.someOf false units).flatten

/-- CTXSV begins: the image of the trapped task is taken, with s28-s31 and q23 from the record. -/
def State.takeImage (s : State) (k : Fin 64) (c : Fin 4) (a : Dword) : Except Fault State :=
  s.withRecord k c .read (s.ctx k c).tsp.toNat fun s keys =>
    let bs := keys.map s.byte
    let img := (s.ctx k c).image (s.clean k c) false (some ((List.range 5).map fun i => dwordAt bs (8 * i)))
    .ok ((s.countAccess k c (addrRun a.toNat imageSizeBytes)).modCtx k c fun cx =>
      { cx with imageCells := (s.imageKeys k c a).zip img })

/-- Some of CTXSV's accesses are made; with the last one the context goes on. What finds no sectors is still to come. -/
def State.writeImage (s : State) (k : Fin 64) (c : Fin 4) (a : Dword) : State :=
  let left := (s.ctx k c).imageCells
  let now := s.imageUnits left
  let (t, rest) := s.storeCells s.nextId now
  let done := now.filter fun x => !rest.any (·.1 == x.1)
  let left := left.filter fun x => !done.any (·.1 == x.1)
  let t := t.note (.context k c) (t.imageAccess k c a imageSizeBytes (.write done))
  if left.isEmpty then t.endWait k c else t.modCtx k c fun cx => { cx with imageCells := left }

/-- CTXSV's accesses, over the time in which its context waits. -/
def State.saveImage (s : State) (k : Fin 64) (c : Fin 4) (a : Dword) : Except Fault State :=
  let cx := s.ctx k c
  let act := writeOf (s.imageKeys k c a)
  if cx.promised || !s.imageTurn (s.imageAccess k c a imageSizeBytes act) k c then .ok s
  else if cx.imageCells.isEmpty then
    (s.takeImage k c a).map fun t => if (t.ctx k c).imageCells.isEmpty then t else t.writeImage k c a
  else .ok (s.writeImage k c a)

/-- The image that CTXRS has read is installed, and the record at its TSP rewritten. -/
def State.installImage (s : State) (k : Fin 64) (c : Fin 4) (a : Dword) (img : List Byte) : Except Fault State :=
  if !imageValid img then .ok (s.nested k c .illegal)
  else
    s.withRecord k c .write (dwordAt img 0x20 &&& ~~~63).toNat fun s rec =>
      match (s.countAccess k c (addrRun a.toNat imageSizeBytes)).storeCells s.nextId (rec.zip (imageRecord img)) with
      | (t, []) =>
        let u := State.modCtx { t with nextId := t.nextId + 192 } k c (·.install img t.nextId [])
        .ok ((u.followNfc k c (t.ctx k c).snapshot).endWait k c)
      | _ => .ok s

/-- CTXRS's accesses, over the time in which its context waits: what of the image is read now, and once all of it has been
the state it gives. -/
def State.loadImage (s : State) (k : Fin 64) (c : Fin 4) (a : Dword) : Except Fault State :=
  let keys := s.imageKeys k c a
  let got := (s.ctx k c).imageCells
  let b := s.imageAccess k c a imageSizeBytes (readOf keys)
  if !s.imageTurn b k c then .ok s
  else if s.poisonMet (readOf keys) then .ok ((s.endWait k c).latchPoison k c a s.nextId)
  else
    let left := (keys.zipIdx.filter fun x => (got.lookup x.2).isNone).map fun x => (x.2, s.byte x.1)
    let got := got ++ s.imageUnits left
    let t := (s.modCtx k c fun cx => { cx with imageCells := got }).note (.context k c) b
    if got.length < keys.length then .ok t
    else t.installImage k c a ((List.range keys.length).map fun i => (got.lookup i).getD 0)

/-- CTXSV_CTXRS_COMPLETION (R266): the form's accesses have been made, and the context goes on. -/
def execCtxsvCtxrsCompletion (core : Fin 64) (ctx : Fin 4) (s : State) : Host.Outcome State Fault Refusal :=
  if (s.ctx core ctx).state != .waiting then .next s
  else
    match (s.ctx core ctx).wait with
    | some (.ctxsv a) => outcome (s.saveImage core ctx a)
    | some (.ctxrs a) => outcome (s.loadImage core ctx a)
    | _ => .next s

/-! ### Frames (R267, R268) -/

def tileMask (p : Nat → Bool) (n : Nat) : Nat := (List.range n).foldl (fun m i => m + bit (p i) * 2 ^ i) 0

/-- Storage bytes of a factor: its columns one after another (log entry 14). -/
def Sketch.factorBytes (d : Sketch) (x : List (List Word)) : List Byte :=
  x.flatMap fun col => col.flatMap fun w => leBytes (if d.bf16 then 2 else 4) w.toNat

def factorOfBytes (h w n : Nat) (bs : List Byte) : List (List Word) :=
  (List.range n).map fun t => (List.range h).map fun i => BitVec.ofNat 32 (imageElem w bs (t * h + i))

/-- A record of a descriptor. -/
def Sketch.record (d : Sketch) : List Byte :=
  fit 64 (dwords [d.definition, BitVec.ofNat 64 (d.cols + bit d.pois * 256), d.silE, d.silN, d.silK.zeroExtend 64])

def Table.record (t : Table) : List Byte :=
  fit 32 (t.entries.flatMap (fun e => leBytes 2 e.toNat) ++ leBytes 1 (BitVec.ofInt 8 t.scale).toNat)

/-- What the task holds, as a frame records it from 0x04_0000 on. The owner bits of the core's other tiles stay as the
frame has them (R267). -/
def State.frameHeader (s : State) (t : Nat) (tk : Task) (frame : Nat) (light : Bool) : List Byte :=
  let co := s.core tk.core
  let tile (i : Nat) : Bool := co.tiles[i]? == some (.held t)
  let slot (i : Nat) : Bool := match co.slots[i]? with
    | some sl => sl.state != .free && sl.holder == t
    | none => false
  let sk (i : Nat) : Bool := ((co.sketches[i]?).bind (·.holder)) == some t
  let ring (i : Nat) : Bool := ((co.rings[i]?).bind (·.holder)) == some t
  let table (i : Nat) : Bool := ((co.tables[i]?).bind (·.holder)) == some t
  let mine (i : Nat) : Bool := tk.ctxs.any fun c => c.val == i / 128
  fit 64 (dwords (([tileMask tile 64, tileMask slot 32, tileMask sk 16, tileMask ring 16, tileMask table 4, bit light]).map
    (BitVec.ofNat 64))) ++
  leBytes 64 (tileMask (fun i =>
    if mine i then co.engineTiles.contains i else (s.value (frame + 0x40040) 64).testBit i) 512) ++
  fit 256 ((List.range 32).flatMap fun i =>
    let sl := (co.slots[i]?).getD Slot.reset
    leBytes 8 (if slot i then bit sl.sideB * 2 ^ 63 + sl.tag.toNat else 0)) ++
  fit 128 ((List.range 16).flatMap fun i => leBytes 8 (if ring i then ((co.rings[i]?).getD Ring.reset).word.toNat else 0)) ++
  (List.range 4).flatMap (fun i => if table i then ((co.tables[i]?).getD Table.reset).record else List.replicate 32 0) ++
  (List.range 16).flatMap fun i =>
    if sk i then ((co.sketches[i]?).getD Sketch.reset).record else List.replicate 64 0

/-- The contents that a full cut writes. -/
def State.frameContents (s : State) (t : Nat) (tk : Task) (f : Nat) : State :=
  let co := s.core tk.core
  let k := tk.core.val
  let s := tk.ctxs.foldl (fun s c =>
    s.move (localKey k (c.val * 128 * tileBytes)) (f + 0x80000 + c.val * 128 * tileBytes) (128 * tileBytes)) s
  let s := (List.finRange 32).foldl (fun s (i : Fin 32) =>
    let sl := co.slots.get i
    if sl.state != .free && sl.holder == t then s.move (slotKey k i 0) (f + 0x280000 + i * slotBytes) slotBytes else s) s
  let s := (List.finRange 64).foldl (fun s (i : Fin 64) =>
    if co.tiles.get i = .held t then
      (s.moveWords (accKey k i 0 0) (f + 0x400000 + i * 49152) 49152).move (expKey k i 0) (f + 0x700000 + i * 128) 128
    else s) s
  (List.finRange 16).foldl (fun s (i : Fin 16) =>
    let d := co.sketches.get i
    if d.holder = some t then
      s.put (f + 0x400000 + d.base * 49152) (d.factorBytes d.left ++ d.factorBytes d.right)
    else s) s

/-- Saves one task into a frame: its contexts' images, its header and, after a full cut, its contents. The frame has one
LIGHT bit: where only some of the contexts have stopped at light cuts, it is set. The model's choice (log entry 79). -/
def State.saveTask (s : State) (t : Nat) (tk : Task) (frame : Nat) : State :=
  let k := tk.core
  let mine := tk.ctxs.filter fun c => (s.ctx k c).task == some t
  let light := mine.any (s.lightAt k)
  let s := mine.foldl (fun s c =>
    s.put (frame + c.val * imageSizeBytes) ((s.ctx k c).image (s.clean k c) (s.lightAt k c) none)) s
  let s := s.put (frame + 0x40000) (s.frameHeader t tk frame light)
  if light then s else s.frameContents t tk frame

/-- The task leaves its core (R14, R248): what it held is given up, and its contexts, SWAPPED, are nobody's until others
take them or it comes back. -/
def State.vacate (s : State) (t : Nat) (tk : Task) : State :=
  tk.ctxs.foldl (fun s c =>
    s.modCtx tk.core c fun cx =>
      { Context.reset with
        fi := cx.fi, reservedLaunch := cx.reservedLaunch, state := if cx.task == some t then .swapped else .free })
    (s.releaseTask t tk)

/-- The members of a task with their numbers, as they are kept beside the frame. -/
def State.members (s : State) (t : Nat) (tk : Task) : List (Nat × Fin 4 × Context) :=
  tk.ctxs.map fun c => (t, c, s.ctx tk.core c)

/-- Everything the frame records as held is FREE on the core. -/
def State.frameFree (s : State) (tk : Task) (f : Nat) : Bool :=
  let co := s.core tk.core
  let d (i : Nat) : Nat := s.value (f + 0x40000 + 8 * i) 8
  (List.finRange 64).all (fun (i : Fin 64) => !(d 0).testBit i || co.tiles.get i == .free) &&
  (List.finRange 32).all (fun (i : Fin 32) => !(d 1).testBit i || (co.slots.get i).state == .free) &&
  (List.finRange 16).all (fun (i : Fin 16) => !(d 2).testBit i || (co.sketches.get i).holder.isNone) &&
  (List.finRange 16).all (fun (i : Fin 16) => !(d 3).testBit i || (co.rings.get i).holder.isNone) &&
  (List.finRange 4).all fun (i : Fin 4) => !(d 4).testBit i || (co.tables.get i).holder.isNone

/-- A circular-buffer descriptor as a frame holds it. -/
def Ring.ofSaved (t : Nat) (v : Dword) : Ring :=
  { Ring.ofWord t v with pp := bits v 43 37, cp := bits v 36 30, poff := bits v 29 24, coff := bits v 23 18 }

/-- The descriptor of a record; its factors are free values after a light cut. -/
def State.restoredSketch (s : State) (t f i : Nat) (light : Bool) (gen : Nat) : Sketch :=
  let a := f + 0x40280 + 64 * i
  let w (j : Nat) : Dword := BitVec.ofNat 64 (s.value (a + 8 * j) 8)
  let d : Sketch :=
    { Sketch.reset with
      holder := some t, defined := true, definition := w 0, cols := bits (w 1) 7 0, pois := (w 1).getLsbD 8
      silE := w 2, silN := w 3, silK := (w 4).truncate 32, gen := gen }
  if light then s.freeFactors d d.cols
  else
    let e := if d.bf16 then 2 else 4
    let bs := s.bytes (f + 0x400000 + d.base * 49152) ((d.m + d.n) * d.cols * e)
    { d with
      left := factorOfBytes d.m e d.cols bs, right := factorOfBytes d.n e d.cols (bs.drop (d.m * d.cols * e)) }

/-- An uncorrectable error stands in n bytes of a frame or an image that is read back. The step does not commit (R270): the
context is STOPPED as by a fault of the trap sequencer, the model's choice (log entry 78). -/
def State.badImage (s : State) (a n : Nat) : Bool := s.poison.any fun p => a ≤ p && p < a + n

/-- Claims again what a frame records. -/
def State.restoreTask (s : State) (t : Nat) (tk : Task) (f : Nat) : State :=
  let k := tk.core
  let d (i : Nat) : Nat := s.value (f + 0x40000 + 8 * i) 8
  let light : Bool := (d 5).testBit 0
  let owner := s.value (f + 0x40040) 64
  let s := tk.ctxs.foldl (fun s c =>
    if light then s
    else s.move (f + 0x80000 + c.val * 128 * tileBytes) (localKey k (c.val * 128 * tileBytes)) (128 * tileBytes)) s
  let s := (List.finRange 32).foldl (fun s (i : Fin 32) =>
    if (d 1).testBit i then
      let r := BitVec.ofNat 64 (s.value (f + 0x40080 + 8 * i) 8)
      let s := if light then s else s.move (f + 0x280000 + i * slotBytes) (slotKey k i 0) slotBytes
      s.modCore k fun co =>
        { co with slots := co.slots.set i ⟨.held, t, r.getLsbD 63, r.truncate 16, (co.slots.get i).gen⟩ }
    else s) s
  let s := (List.finRange 64).foldl (fun s (i : Fin 64) =>
    if (d 0).testBit i then
      let s := if light then s
        else (s.moveWords (f + 0x400000 + i * 49152) (accKey k i 0 0) 49152).move (f + 0x700000 + i * 128) (expKey k i 0) 128
      s.modCore k fun co => { co with tiles := co.tiles.set i (.held t) }
    else s) s
  let s := (List.finRange 16).foldl (fun s (i : Fin 16) =>
    if (d 2).testBit i then
      s.modCore k fun co =>
        let sk := s.restoredSketch t f i light (co.sketches.get i).gen
        { co with
          sketches := co.sketches.set i sk
          tiles := Vector.ofFn fun j => if sk.tiles.contains j.val then .sketch i.val else co.tiles.get j }
    else s) s
  let s := (List.finRange 16).foldl (fun s (i : Fin 16) =>
    if (d 3).testBit i then
      s.modCore k fun co =>
        { co with rings := co.rings.set i (Ring.ofSaved t (BitVec.ofNat 64 (s.value (f + 0x40180 + 8 * i) 8))) }
    else s) s
  let s := (List.finRange 4).foldl (fun s (i : Fin 4) =>
    if (d 4).testBit i then
      let a := f + 0x40200 + 32 * i
      let entries := (List.range 8).map fun j => BitVec.ofNat 16 (s.value (a + 2 * j) 2)
      let scale := (BitVec.ofNat 8 (s.value (a + 16) 1)).toInt
      s.modCore k fun co => { co with tables := co.tables.set i ⟨some t, entries, scale, (co.tables.get i).gen⟩ }
    else s) s
  let mine (i : Nat) : Bool := tk.ctxs.any fun c => c.val == i / 128
  s.modCore k fun co =>
    { co with engineTiles := co.engineTiles.filter (!mine ·) ++
        (List.range 512).filter fun i => mine i && owner.testBit i }

/-- Puts a saved member back: what its image holds, with what no image carries; a release that reached it while it was
saved stands (R267). -/
def State.restoreMember (s : State) (k : Fin 64) (c : Fin 4) (cx : Context) (frame : Nat) : State :=
  let at_ := frame + c.val * imageSizeBytes
  let img := s.bytes at_ imageSizeBytes
  let fi := (s.ctx k c).fi
  let back : Context :=
    if cx.state == .ready || cx.state == .waiting then
      { (cx.install img s.nextId (replayOrder cx.snapshot)).reenter with fi := fi, stopped := false, heldCut := none, wait := cx.wait, waitCount := 0 }
    else { cx with fi := fi }
  let t := (State.modCtx { s with nextId := s.nextId + 192 } k c fun _ => back).rejoin k c
  if cx.task.isSome && (s.badImage at_ imageSizeBytes || s.badImage (frame + 0x40000) (frameBytes - 0x40000)) then
    t.countError.nested k c .poison
  else t

end Sys2Proof.Machine
end

