-- ==== Sys2Proof/Machine/Sched.lean ====
section
/-! DEFINITION. The distributor: taking launches, validating their records and tables, placing barrier groups, waking and
gating cores, pre-emption; and starting handlers (R11-R21, R93, R237-R252, R267, R268, R302). -/

namespace Sys2Proof.Machine

open Sys2Proof.Config

/-! ### Window tables (R251, R252, R279, R297) -/

def setSizes : List Nat := [1, 2, 4, 8, 16, 32, 64, 128, 3, 5, 7, 11, 13, 31, 61, 127]

def kindOfCode (n : Nat) : PageKind := if n = 0 then .strong else if n = 1 then .release else .unordered

/-- The entry that four dwords hold. -/
def winEntry (i : Nat) (d : Nat → Dword) : WinEntry :=
  ⟨i, bits (d 0) 63 12 * 4096, bits (d 0) 11 9, kindOfCode (bits (d 0) 7 6), (d 0).extractLsb' 3 3, (d 0).getLsbD 2,
    (d 0).getLsbD 1, (d 0).getLsbD 0, bits (d 1) 63 12 * 4096, bits (d 2) 63 32, bits (d 2) 31 24, bits (d 2) 22 16⟩

def WinEntry.bytes (e : WinEntry) : Nat := e.npg * pageSize e.psz

/-- An entry that reaches into the landing or local ranges. -/
def WinEntry.onChip (e : WinEntry) : Bool :=
  let meets (a n : Nat) : Bool := e.va < a + n && a < e.va + e.bytes
  meets lbase landingRange || meets locbase localBytes

/-- The values and zero fields of one entry; `cx` is the size of the exposed space, which a COMP entry must lie in. -/
def winEntryOk (cx : Nat) (e : WinEntry) (d : Nat → Dword) : Bool :=
  !(d 0).getLsbD 8 && bits (d 0) 7 6 != 3 && e.psz ≤ 5 && bits (d 1) 11 0 == 0 && !(d 2).getLsbD 23 &&
  bits (d 2) 15 0 == 0 && d 3 == 0 &&
  (e.psz == 0 ||
    (e.va % pageSize e.psz == 0 && 1 ≤ e.npg && setSizes.contains e.set && !e.onChip &&
      (!e.comp || e.pa + 256 * ceilDiv (e.bytes / 256) e.set ≤ cx)))

def disjointEntries : List WinEntry → Bool
  | [] => true
  | e :: es => es.all (fun f => e.va + e.bytes ≤ f.va || f.va + f.bytes ≤ e.va) && disjointEntries es

/-- The present entries of the table at a device address, and whether the table is valid. -/
def State.loadTable (s : State) (a : Nat) : List WinEntry × Bool :=
  let d (i j : Nat) : Dword := BitVec.ofNat 64 (s.value (a + 32 * i + 8 * j) 8)
  let all := (List.range 512).map fun i => winEntry i (d i)
  let present := all.filter (·.psz != 0)
  (present, all.all (fun e => winEntryOk s.regs.exposedBytes e (d e.index)) && disjointEntries present)

/-! ### Slot tables (R92, R93) -/

/-- A valid table: the revolution, no core twice in one index on one side, every pair of clusters joined. -/
def slotTableOk (t : Nat × List (Nat × Nat × Nat)) : Bool :=
  [64, 128, 256, 512, 1024].contains t.1 &&
  t.2.all (fun e => e.1 < t.1 && e.2.1 < 64 && e.2.2 < 64) &&
  (t.2.map fun e => (e.1, e.2.1)).eraseDups.length == t.2.length &&
  (t.2.map fun e => (e.1, e.2.2)).eraseDups.length == t.2.length &&
  (List.range 64).all fun a => (List.range 64).all fun b => a / 8 == b / 8 || t.2.any fun e => e.2.1 == a && e.2.2 == b

/-! ### Launch records (R12, R239, R240) -/

/-- The checks on the cutting (R8, R12, R240). -/
def cutOk (cut : Dword) (cntm1 : List Nat) (span msgctx : Nat) : Bool :=
  let nf := cutNf cut
  let w (i : Nat) : Nat := cutWidth cut i
  let fields := List.range nf
  let counts := (cntm1.take nf).map (· + 1)
  let g := product (counts.drop (cutBar cut))
  1 ≤ nf && nf ≤ 6 && bits cut 63 56 == 0 && bits cut 7 3 == 0 &&
  fields.all (fun i => 1 ≤ w i && w i ≤ 32 && (cntm1[i]?).getD 0 < 2 ^ w i) && (fields.map w).sum ≤ 64 &&
  ((List.range 6).drop nf).all (fun i => w i == 0 && (cntm1[i]?).getD 0 == 0) &&
  cutBar cut ≤ nf && cutAff cut ≤ cutBar cut && cutPre cut ≤ cutBar cut &&
  g * span ≤ 32 && 1 ≤ span && span + msgctx ≤ 4 && ceilDiv g ((4 - msgctx) / span) ≤ 8

/-- The dwords of a launch record at a device address. Of one that the host has changed since it was published they are
free, but for WTAB and CREC, each of which is as it stands or leads nowhere, so that the effect is confined to the launch
and to the events it signals (R238; log entry 80). -/
def State.recordDword (s : State) (a : Nat) (changed : Bool) (i : Nat) : Dword :=
  let stored := BitVec.ofNat 64 (s.value (a + 8 * i) 8)
  if !changed then stored
  else if i = 6 || i = 10 then (if s.coin (2 ^ 24 + i) then stored else BitVec.allOnes 64)
  else s.free (2 ^ 24 + i)

/-- A launch as the dwords of its record give it, and whether the record is valid. -/
def State.readLaunch (s : State) (q : Queue) (qn : Nat) (d : Nat → Dword) : Except Stop (Launch × Bool) :=
  let cntm1 := (List.range 6).map fun i => bits (d (1 + i / 2)) (32 * (i % 2) + 31) (32 * (i % 2))
  let w5 := d 5
  let wf := d 15
  let hcnt := bits wf 20 16
  let rcnt := bits wf 40 32
  let nargs := bits wf 12 8
  let span := bits wf 2 0
  let msgctx := bits wf 5 4
  let shape : Bool := bits w5 7 0 == 0 && bits wf 63 41 == 0 && bits wf 31 21 == 0 && bits wf 15 13 == 0 &&
    bits wf 7 6 == 0 && bits wf 3 3 == 0 && 1 ≤ span && span ≤ 4 && nargs ≤ 16 && hcnt ≤ 16 && rcnt ≤ 256 &&
    cutOk (d 0) cntm1 span msgctx
  let la : Launch :=
    { queue := qn, prio := q.prio, part := q.part, cut := d 0
      counts := (cntm1.take (min 6 (cutNf (d 0)))).map (· + 1)
      entry := d 4, qb := w5.extractLsb' 32 32, key := w5.extractLsb' 16 16, tbset := w5.extractLsb' 8 8
      handlers := [], ranges := [], crec := d 10, trapv := d 11, signal := d 14, waits := [d 12, d 13]
      args := (List.range nargs).map fun i => d (16 + i)
      msgctx := msgctx, span := span, table := [], stab := d 7, slotTable := none, nextGroup := 0, clusters := []
      started := false, completed := false, kills := 0, firstKill := none, undelivered := 0, made := [], reset := false
      unrouted := false, amended := false }
  if !shape then .ok (la, false)
  else do
    let h ← hbmRun (d 8).toNat (8 * hcnt)
    let r ← hbmRun (d 9).toNat (16 * rcnt)
    let t ← hbmRun (d 6).toNat 16384
    let handlers := (List.range hcnt).map fun i => BitVec.ofNat 64 (s.value (h + 8 * i) 8)
    let ranges := (List.range rcnt).map fun i => (s.value (r + 16 * i) 8, s.value (r + 16 * i + 8) 8)
    let (table, tableOk) := s.loadTable t
    let slots := if d 7 = 0 then none else some (slotTable s.draw (d 7))
    let ok : Bool := ((d 4 :: d 11 :: handlers).all fun x => x.toNat % 4 == 0) &&
      ranges.all (fun x => x.1 % 4096 == 0 && x.2 % 4096 == 0 && x.2 != 0) && tableOk &&
      match slots with
      | some t => slotTableOk t
      | none => true
    .ok ({ la with handlers := handlers, ranges := ranges, table := table, slotTable := slots }, ok)

/-! ### Taking a launch (R243) -/

def State.queue (s : State) (q : Nat) : Queue := (s.queues[q]?).getD Queue.reset
def State.modQueue (s : State) (q : Nat) (f : Queue → Queue) : State :=
  { s with queues := s.queues.setIfInBounds q (f (s.queue q)) }

/-- Clusters of a partition (R326). -/
def State.clustersOf (s : State) (p : Nat) : List Nat :=
  (List.range 8).filter fun c => ((s.regs.pcfg[p]?).getD 0).getLsbD (56 + c)

/-- Nothing is placed on a cluster whose firmware is being reloaded (R328) or whose stores are being cleared (R327). -/
def State.closed (s : State) (cl : Nat) : Bool :=
  s.clearing.contains cl || match s.service with
    | some v => v.op == 1 && v.tgt == cl
    | none => false

/-- Place of the head record of a queue in its ring. -/
def Queue.place (r : Queue) : Nat := r.head.toNat % 2 ^ r.lsz

/-- The head record of a queue is a candidate. -/
def State.candidate (s : State) (q : Fin 64) : Except Stop Bool :=
  let r := s.queues.get q
  if !r.en || r.head == r.tail || r.taken || (s.clustersOf r.part).isEmpty then .ok false
  else do
    let a ← hbmRun (r.base.toNat + r.place * 256) 256
    let d := s.recordDword a (r.changed.contains r.place)
    let w0 ← s.eventReached (d 12)
    let w1 ← s.eventReached (d 13)
    .ok (w0 && w1)

/-- Queue numbers as the round robin of one priority meets them. -/
def State.turn (s : State) (p : Nat) (q : Fin 64) : Nat :=
  (q.val + 63 - ((s.lastTaken[p]?).getD 63).val) % 64

/-- The better of two candidate queues: higher priority, then the turn. -/
def State.better (s : State) (a b : Fin 64) : Fin 64 :=
  let pa := (s.queues.get a).prio
  let pb := (s.queues.get b).prio
  if pb < pa then a else if pa < pb then b else if s.turn pa a ≤ s.turn pa b then a else b

/-- Candidates of the distributor. -/
def State.candidates (s : State) : Except Stop (List (Fin 64)) :=
  (List.finRange 64).foldlM (fun l q => (s.candidate q).map fun b => if b then l ++ [q] else l) []

def State.bestQueue (s : State) : Except Stop (Option (Fin 64)) :=
  s.candidates.map fun l =>
    match l with
    | [] => none
    | q :: qs => some (qs.foldl s.better q)

/-- HEAD passes the head record. -/
def Queue.pass (r : Queue) : Queue :=
  { r with head := r.head + 1, taken := false, changed := r.changed.filter (· != r.place) }

/-- The launch of the record at a place of a queue. Of a changed record even the addresses are free; one that leads
nowhere makes the launch invalid, as a record without its last dword is. -/
def State.launchAt (s : State) (q : Fin 64) (place : Nat) : Except Stop (Launch × Bool) := do
  let r := s.queues.get q
  let a ← hbmRun (r.base.toNat + place * 256) 256
  let changed := r.changed.contains place
  let d := s.recordDword a changed
  let (la, ok) ← match s.readLaunch r q d, changed with
    | .error _, true => s.readLaunch r q fun i => if i = 15 then 0 else d i
    | x, _ => x
  .ok ({ la with amended := changed }, ok)

/-- The launch of the head record of a queue. -/
def State.headLaunch (s : State) (q : Fin 64) : Except Stop (Launch × Bool) := s.launchAt q (s.queues.get q).place

/-- A launch of the list completes as header invalid, and HEAD passes its record (R240, R243). -/
def State.refuseLaunch (s : State) (q : Fin 64) (l : Nat) (la : Launch) : Except Stop State :=
  State.writeCompletion ((s.modLaunch l fun la => { la with completed := true }).modQueue q Queue.pass) la 1 0

/-- The launch names a slot table, or reaches no remote landing (R93; log entry 59). -/
def Launch.routed (la : Launch) (draw : Nat) : Bool := la.stab != 0 || !reachesRemote draw

/-- Takes the head record of a queue: a valid launch waits for its first start; an invalid one completes. -/
def State.takeLaunch (s : State) (q : Fin 64) : Except Stop State := do
  let (la, ok) ← s.headLaunch q
  let l := s.launches.length
  let s : State := { s with
    lastTaken := s.lastTaken.setIfInBounds (s.queues.get q).prio q, launches := s.launches ++ [la] }
  if ok && la.routed s.draw then
    .ok (s.modQueue q fun r => { r with taken := true, changed := r.changed.filter (· != r.place) })
  else s.refuseLaunch q l la

/-- The launch of a record that the host has changed between its taking and its first start (R238). -/
def State.retakeLaunch (s : State) (q : Fin 64) : Except Stop State :=
  let r := s.queues.get q
  let mine (l : Nat) : Bool := match s.launch l with
    | some la => la.queue == q.val && !la.started && !la.completed
    | none => false
  match r.taken && r.changed.contains r.place, (List.range s.launches.length).find? mine with
  | true, some l => do
    let (la, ok) ← s.headLaunch q
    let s := s.modLaunch l fun _ => la
    if ok && la.routed s.draw then .ok (s.modQueue q fun r => { r with changed := r.changed.filter (· != r.place) })
    else s.refuseLaunch q l la
  | _, _ => .ok s

/-- Marks the published records that a write of the host touches (R238). -/
def State.touchRecords (s : State) (keys : List Nat) : State :=
  { s with queues := s.queues.map fun q =>
      if q.head == q.tail || keys.isEmpty then q
      else
        let published := (List.range (q.tail - q.head).toNat).map fun i => (q.head.toNat + i) % 2 ^ q.lsz
        { q with changed := published.filter fun i => q.changed.contains i || keys.any fun x =>
            q.base.toNat + 256 * i ≤ x && x < q.base.toNat + 256 * i + 256 } }

/-- LAUNCH_TAKE (R243). -/
def execLaunchTake (s : State) : Host.Outcome State Fault Refusal :=
  match s.bestQueue.bind fun q =>
    match q with
    | some q => s.takeLaunch q
    | none => .ok s with
  | .ok t => .next t
  | .error (.fault f) => .fault f
  | .error (.trap _) => .next s

/-! ### Placement (R15, R17, R244, R245) -/

/-- A saved group of at least this priority waits for the context (R248). -/
def State.keptFor (s : State) (k : Fin 64) (c : Fin 4) (prio : Nat) : Bool :=
  s.preempts.any fun p => p.saved && p.kept.any fun m => m.2.1 == c &&
    match s.task m.1 with
    | some t => t.core == k && prio ≤ ((s.launch t.launch).map (·.prio)).getD 0
    | none => false

/-- Another live launch on the partition names another slot table (R93). -/
def State.tableBusy (s : State) (l : Nat) (la : Launch) : Bool :=
  la.stab != 0 && (List.range s.launches.length).any fun m =>
    match s.launch m with
    | some o => m != l && o.part == la.part && o.started && !o.completed && o.stab != 0 && o.stab != la.stab
    | none => false

/-- The barrier group that a request makes room for has not started, and no slot table of another launch keeps it from
it. -/
def State.stillWaits (s : State) (w : Nat × Nat) : Bool :=
  match s.launch w.1 with
  | some la => !la.completed && !la.unrouted && la.nextGroup == w.2 && !s.tableBusy w.1 la
  | none => false

/-- The context was given up to a waiting group of another launch (R248). -/
def State.givenTo (s : State) (l : Nat) (k : Fin 64) (c : Fin 4) : Bool :=
  s.preempts.any fun p => p.saved && p.waiter.any (fun w => w.1 != l && s.stillWaits w) &&
    p.kept.any fun m => m.2.1 == c && ((s.task m.1).map (·.core)) == some k

/-- The context is reserved to nobody. -/
def Context.unreserved (cx : Context) : Bool := cx.reservedTask.isNone && cx.reservedLaunch.isNone

/-- Unreserved contexts of a core; `freed` counts as given up. -/
def State.looseCtxs (s : State) (freed : List (Fin 64 × Fin 4)) (k : Fin 64) : List (Fin 4) :=
  allCtxs.filter fun c => (s.ctx k c).unreserved || freed.contains (k, c)

/-- Those that a task of a launch of this priority may take. -/
def State.openCtxs (s : State) (l prio : Nat) (freed : List (Fin 64 × Fin 4)) (k : Fin 64) : List (Fin 4) :=
  (s.looseCtxs freed k).filter fun c => !s.keptFor k c prio && !s.givenTo l k c

/-- Where one task goes: its core, message contexts taken there for the launch, its own contexts. -/
structure Placement where
  core : Fin 64
  msg : List (Fin 4)
  ctxs : List (Fin 4)
  deriving DecidableEq, Repr

/-- Contexts left on a core beside what has been placed. -/
def leftAfter (avail : List (Fin 4)) (placed : List Placement) (k : Fin 64) : List (Fin 4) :=
  avail.filter fun c => !placed.any fun p => p.core == k && (p.msg.contains c || p.ctxs.contains c)

/-- The place of one more task (R245): of the cores that have the contexts for it, the one with the fewest unreserved
contexts left after it, ties to the lower core. -/
def State.placeOne (s : State) (l : Nat) (la : Launch) (freed : List (Fin 64 × Fin 4)) (cores : List (Fin 64))
    (placed : List Placement) : Option Placement :=
  let holds (k : Fin 64) : Bool := la.msgctx == 0 || s.holdsMessages k l || placed.any (·.core == k)
  let need (k : Fin 64) : Nat := la.span + if holds k then 0 else la.msgctx
  let left (k : Fin 64) : List (Fin 4) := leftAfter (s.openCtxs l la.prio freed k) placed k
  let after (k : Fin 64) : Nat := (leftAfter (s.looseCtxs freed k) placed k).length - need k
  let fit := cores.filter fun k => need k ≤ (left k).length
  match fit with
  | [] => none
  | k :: ks =>
    let best := ks.foldl (fun b k => if after k < after b then k else b) k
    let h := if holds best then 0 else la.msgctx
    some ⟨best, (left best).take h, ((left best).drop h).take la.span⟩

/-- Places n tasks one after another; the list ends where one finds no place. -/
def State.placeSome (s : State) (l : Nat) (la : Launch) (freed : List (Fin 64 × Fin 4)) (cores : List (Fin 64)) :
    Nat → List Placement → List Placement
  | 0, placed => placed
  | n + 1, placed =>
    match s.placeOne l la freed cores placed with
    | none => placed
    | some p => s.placeSome l la freed cores n (placed ++ [p])

/-- The placement of a whole barrier group on cores. -/
def State.plan (s : State) (l : Nat) (la : Launch) (freed : List (Fin 64 × Fin 4)) (cores : List (Fin 64)) :
    Option (List Placement) :=
  let p := s.placeSome l la freed cores la.barSize []
  if p.length = la.barSize then some p else none

def coresOf (cl : Nat) : List (Fin 64) := allCores.filter fun k => clusterOf k == cl

def State.awakeCores (s : State) (cl : Nat) : List (Fin 64) :=
  (coresOf cl).filter fun k => (s.core k).wake == .awake


/-- Names of the launch's barriers. -/
def Launch.names (la : Launch) : List Nat := (List.range 8).filter la.tbset.getLsbD

/-- Barrier records free for one more group on a cluster (R152). -/
def State.recordsFree (s : State) (la : Launch) (cl : Nat) : Bool := (s.barrierList cl).length + la.names.length ≤ 64

/-- Affinity group of the next barrier group, and the clusters open to it. -/
def Launch.affinity (la : Launch) : Nat := la.groupAt (cutAff la.cut) la.nextGroup
def State.clustersFor (s : State) (la : Launch) : List Nat :=
  (s.clustersOf la.part).filter fun c => !s.closed c &&
    match la.clusters.lookup la.affinity with
    | some d => c == d
    | none => true

/-- Unreserved contexts on cores. -/
def State.unreservedOn (s : State) (cores : List (Fin 64)) : Nat :=
  (cores.map fun k => (allCtxs.filter fun c => (s.ctx k c).unreserved).length).sum

/-- The first of a list with the greatest measure. -/
def firstBest (f : Nat → Nat) : List Nat → Option Nat
  | [] => none
  | c :: cs =>
    match firstBest f cs with
    | none => some c
    | some d => some (if f c < f d then d else c)

/-- The cluster chosen for the next group among those on whose given cores it can be placed (R244). Whether that cluster
has barrier records to spare is no part of the choice: without them the start is held (R152). -/
def State.chooseCluster (s : State) (l : Nat) (la : Launch) (cores : Nat → List (Fin 64)) : Option Nat :=
  firstBest (fun c => s.unreservedOn (cores c))
    ((s.clustersFor la).filter fun c => (s.plan l la [] (cores c)).isSome)

/-! ### Starting a group (R15-R17, R152, R251) -/

/-- Starts one task of a group; its index in the list of tasks is the list's length. -/
def State.startTask (s : State) (l : Nat) (la : Launch) (rank : Nat) (p : Placement) : State :=
  let t := s.tasks.length
  let wkid := la.wkid (la.nextGroup * la.barSize + rank)
  let s := p.msg.foldl (fun s c =>
    s.modCtx p.core c fun cx => { Context.reset with fi := cx.fi, state := .dormant, reservedLaunch := some l }) s
  let s : State := { s with tasks := s.tasks ++
    [⟨l, wkid, la.nextGroup, rank, p.core, p.ctxs, false, s.sclk.toNat, none, false, none, 0, 0⟩] }
  let s := (p.ctxs.zip (List.range p.ctxs.length)).foldl (fun s c =>
    s.modCtx p.core c.1 fun cx => { Context.reset with fi := cx.fi, reservedTask := some t, sibling := c.2 }) s
  let s := s.modCore p.core fun co =>
    { co with windows := if (co.windows.lookup l).isSome then co.windows else co.windows ++ [(l, la.table)] }
  match p.ctxs.head? with
  | none => s
  | some c => s.modCtx p.core c fun cx =>
      { cx.start c t la la.entry (loadRegs la.args) wkid with bubble := delay s.draw, edges := s.launchEdges la }

/-- Starts the next group of a launch on a cluster. -/
def State.startGroup (s : State) (l : Nat) (la : Launch) (cl : Nat) (ps : List Placement) : State :=
  let s := (ps.zip (List.range ps.length)).foldl (fun s p => s.startTask l la p.2 p.1) s
  let s : State := { s with
    barriers := s.barriers.setIfInBounds cl (s.barrierList cl ++
      la.names.map fun n => Barrier.new l la.nextGroup n la.barSize) }
  let s : State := match la.slotTable with
    | some t => { s with slotTables := s.slotTables.setIfInBounds la.part (some t) }
    | none => s
  let s := if la.started then s else s.modQueue la.queue Queue.pass
  s.modLaunch l fun la =>
    { la with
      started := true, nextGroup := la.nextGroup + 1
      clusters := if (la.clusters.lookup la.affinity).isSome then la.clusters else (la.affinity, cl) :: la.clusters }

/-! ### Waking cores (R246) -/

/-- Qw: tasks of the waiting group's affinity group that have not started (log entry 16). -/
def Launch.waitingTasks (la : Launch) : Nat :=
  let a := la.groupSize (cutAff la.cut)
  a - la.nextGroup * la.barSize % a

/-- Na: awake cores of the cluster that run tasks of the launch. -/
def State.runningCores (s : State) (l cl : Nat) : Nat :=
  ((s.awakeCores cl).filter fun k => s.tasks.any fun t => t.launch == l && !t.retired && t.frame.isNone && t.core == k).length

/-- Wakes the lowest-numbered gated core where the wait would be longer than a wake. -/
def State.maybeWake (s : State) (l : Nat) (la : Launch) (cl : Nat) : State :=
  let na := s.runningCores l cl
  let test := (s.estimates.lookup (l, cl)).getD 0
  let coming := (coresOf cl).filter fun k => (s.core k).wake != .gated
  if (s.plan l la [] coming).isSome then s
  else if na != 0 && test != 0 && ceilDiv la.waitingTasks na * test ≤ wakeCycles then s
  else
    match (coresOf cl).find? fun k => (s.core k).wake == .gated with
    | some k => s.modCore k fun co => { co with wake := .waking (s.sclk.toNat + wakeCycles) }
    | none => s

/-- CORE_WAKE_COMPLETE (R246): 3 microseconds after the wake began. A core that is woken and not used counts its idle cycles anew
from here on: the model's choice (log entry 92). -/
def execCoreWakeComplete (core : Fin 64) (s : State) : Host.Outcome State Fault Refusal :=
  match (s.core core).wake with
  | .waking t =>
    if t ≤ s.sclk.toNat then .next (s.modCore core fun co => { co with wake := .awake, idleSince := s.sclk.toNat })
    else .next s
  | _ => .next s

/-- A core may be gated now. -/
def State.mayGate (s : State) (k : Fin 64) : Bool :=
  let co := s.core k
  co.wake == .awake && co.ctxs.all (·.unreserved) && gateCycles ≤ s.sclk.toNat - co.idleSince &&
  !s.preempts.any fun p => p.kept.any fun m => ((s.task m.1).map (·.core)) == some k

/-- CORE_GATE (R246): the contents of local memory, operand memory and the accumulator store are discarded. -/
def execCoreGate (core : Fin 64) (s : State) : Host.Outcome State Fault Refusal :=
  if s.mayGate core then
    let s := allCtxs.foldl (fun s c => s.releaseLocal core c) s
    let s := (List.finRange 32).foldl (fun s n => s.releaseSlot core n) s
    let s := (List.finRange 64).foldl (fun s n => s.releaseTile core n) s
    .next (s.modCore core fun co => { co with wake := .gated })
  else .next s

/-! ### Pre-emption (R247, R248) -/

/-- Pre-emption group of a task: its launch and the group's number at level P. -/
def State.groupOf (s : State) (t : Task) : Nat × Nat :=
  (t.launch, match s.launch t.launch with
    | some la => la.groupAt (cutPre la.cut) t.group
    | none => 0)

/-- Tasks that have started and neither retired nor been saved, with their numbers. -/
def State.live (s : State) : List (Nat × Task) :=
  ((List.range s.tasks.length).filterMap fun i => (s.task i).map fun t => (i, t)).filter fun t =>
    !t.2.retired && t.2.frame.isNone

/-- Those of them that belong to a pre-emption group. A message-started task, which bears its sender's WKID, belongs to
none: the model's choice (log entry 72). -/
def State.running (s : State) : List (Nat × Task) := s.live.filter fun t => !t.2.handler

def State.groupTasks (s : State) (g : Nat × Nat) : List (Nat × Task) := s.running.filter fun t => s.groupOf t.2 == g

def State.groupPrio (s : State) (g : Nat × Nat) : Nat := ((s.launch g.1).map (·.prio)).getD 0

/-- Start of a group: the latest of its tasks'. -/
def State.groupStart (s : State) (g : Nat × Nat) : Nat := (s.groupTasks g).foldl (fun m t => max m t.2.started) 0

/-- A group goes before another as a victim: lower priority, then later start. -/
def State.victimBefore (s : State) (a b : Nat × Nat) : Bool :=
  s.groupPrio a < s.groupPrio b || (s.groupPrio a == s.groupPrio b && s.groupStart b < s.groupStart a)

def State.insertVictim (s : State) (g : Nat × Nat) : List (Nat × Nat) → List (Nat × Nat)
  | [] => [g]
  | x :: xs => if s.victimBefore g x then g :: x :: xs else x :: s.insertVictim g xs

/-- Candidate groups on a cluster for a waiting priority, in the order of R247. A group with a STOPPED member never
stops. -/
def State.victims (s : State) (prio cl : Nat) : List (Nat × Nat) :=
  let gs := ((s.running.filter fun t => clusterOf t.2.core == cl).map fun t => s.groupOf t.2).eraseDups
  (gs.filter fun g =>
    s.groupPrio g < prio && (s.groupTasks g).length ≤ s.regs.spooln.toNat &&
    !(s.groupTasks g).any fun t => t.2.ctxs.any fun c => (s.ctx t.2.core c).state == .stopped).foldl
      (fun l g => s.insertVictim g l) []

/-- Contexts that groups hold. -/
def State.contextsOf (s : State) (gs : List (Nat × Nat)) : List (Fin 64 × Fin 4) :=
  gs.flatMap fun g => (s.groupTasks g).flatMap fun t => t.2.ctxs.map fun c => (t.2.core, c)

/-- Victims taken one at a time until freeing them lets the group be placed. -/
def State.greedy (s : State) (l : Nat) (la : Launch) (cl : Nat) (taken : List (Nat × Nat)) :
    List (Nat × Nat) → Option (List (Nat × Nat))
  | [] => none
  | g :: gs =>
    let taken := taken ++ [g]
    if (s.plan l la (s.contextsOf taken) (coresOf cl)).isSome then some taken else s.greedy l la cl taken gs

/-- The groups to pre-empt for a waiting group: of the cluster that needs the fewest, ties to the lower cluster. -/
def State.choosePreempt (s : State) (l : Nat) (la : Launch) : Option (List (Nat × Nat)) :=
  ((s.clustersFor la).filterMap fun c => s.greedy l la c [] (s.victims la.prio c)).foldl (fun b v =>
    match b with
    | none => some v
    | some w => some (if v.length < w.length then v else w)) none

def State.tasksOf (s : State) (p : Preempt) : List (Nat × Task) :=
  p.tasks.filterMap fun i => (s.task i).map fun t => (i, t)

/-- The tasks that a request asks to stop: those of its group that run, whenever they have started (R11, R248). -/
def State.membersOf (s : State) (p : Preempt) : List (Nat × Task) :=
  ((s.tasksOf p).map fun t => s.groupOf t.2).eraseDups.flatMap s.groupTasks

/-- Requests a group to stop for the next group of a launch, unless it already is asked. -/
def State.request (s : State) (w : Nat × Nat) (g : Nat × Nat) : State :=
  let ts := (s.groupTasks g).map (·.1)
  if s.preempts.any fun p => !p.saved && p.tasks.any ts.contains then s
  else { s with preempts := s.preempts ++ [⟨ts, false, [], false, [], some w⟩] }

/-- The distributor finds no awake core for a group: it wakes a core, or pre-empts (R244, R246, R247). -/
def State.makeRoom (s : State) (l : Nat) (la : Launch) : State :=
  match s.chooseCluster l la coresOf with
  | some cl => s.maybeWake l la cl
  | none =>
    match s.choosePreempt l la with
    | some gs => gs.foldl (fun s g => s.request (l, la.nextGroup) g) s
    | none => s

/-- Taken launches that have groups to start, in order of precedence. -/
def State.waitingLaunches (s : State) : List Nat :=
  let ls := (List.range s.launches.length).filter fun l =>
    match s.launch l with
    | some la => !la.completed && !la.unrouted && la.nextGroup < la.groups
    | none => false
  ((List.range 8).reverse).flatMap fun p => ls.filter fun l => ((s.launch l).map (·.prio)) == some p

/-- The next barrier group of a launch belongs to a pre-emption group that stands saved: it starts once that has been
resumed (R11). -/
def State.groupSaved (s : State) (l : Nat) (la : Launch) : Bool :=
  let g := (l, la.groupAt (cutPre la.cut) la.nextGroup)
  s.preempts.any fun p => p.saved && p.tasks.any fun i =>
    match s.task i with
    | some t => !t.handler && !t.retired && s.groupOf t == g
    | none => false

/-- Where the next group of a launch can be placed now. -/
def State.startsAt (s : State) (l : Nat) (la : Launch) : Option (Nat × List Placement) :=
  if s.tableBusy l la || s.groupSaved l la then none
  else
    (s.chooseCluster l la s.awakeCores).bind fun cl =>
      if s.recordsFree la cl then (s.plan l la [] (s.awakeCores cl)).map fun ps => (cl, ps) else none

/-- Starts the first group in order of precedence that can be placed; those before it have room made for them, or wait for
barrier records (R152). -/
def State.distribute (s : State) : List Nat → State
  | [] => s
  | l :: ls =>
    match s.launch l with
    | none => s.distribute ls
    | some la =>
      match s.startsAt l la with
      | some (cl, ps) => s.startGroup l la cl ps
      | none =>
        if s.tableBusy l la || s.groupSaved l la || (s.chooseCluster l la s.awakeCores).isSome then s.distribute ls
        else (s.makeRoom l la).distribute ls

/-- BARRIER_GROUP_START (R17, R244): the distributor's turn. -/
def execBarrierGroupStart (s : State) : Host.Outcome State Fault Refusal :=
  match (List.finRange 64).foldlM (fun (s : State) q => s.retakeLaunch q) s with
  | .ok t => .next (t.distribute t.waitingLaunches)
  | .error (.fault f) => .fault f
  | .error (.trap _) => .next s

/-! ### Saving and resuming a group (R248, R267, R268) -/

/-- A member context counts as stopped; none does while a buck or accord runs on a descriptor of its task, which no
pre-emption saves in progress (R209). -/
def State.memberStopped (s : State) (t : Nat) (k : Fin 64) (c : Fin 4) : Bool :=
  let cx := s.ctx k c
  if cx.task != some t then true
  else if cx.tm || cx.ending || s.sketchBusy k (some t) then false
  else
    match cx.state, cx.wait with
    | .ready, _ => cx.stopped || cx.heldCut.isSome
    | .waiting, some (.released ..) => false
    | .waiting, _ => s.offersCut k c
    | .free, _ => true
    | _, _ => false

/-- Takes the frame at the top of the array. -/
def State.takeFrame (s : State) : Except Stop (Nat × State) := do
  let n := s.regs.spooln.toNat - 1
  let a ← hbmRun (s.regs.spoolb.toNat + 8 * n) 8
  let f ← hbmRun (s.value a 8) frameBytes
  .ok (f, s.modRegs fun r => { r with spooln := BitVec.ofNat 16 n })

/-- Saves the tasks of a group one after another, each into a frame. -/
def State.saveGroup (s : State) : List (Nat × Task) → Except Stop (State × List (Nat × Fin 4 × Context))
  | [] => .ok (s, [])
  | (i, t) :: ts => do
    let (f, s) ← s.takeFrame
    let kept := s.members i t
    let s := (((s.saveTask i t f).vacate i t).modTask i fun t =>
      { t with frame := some f, savedAt := s.sclk.toNat }).modCore t.core fun co =>
      { co with idleSince := s.sclk.toNat }
    let (s, rest) ← s.saveGroup ts
    .ok (s, kept ++ rest)

/-- Withdraws a request: the members stopped for it go on. -/
def State.withdraw (s : State) (n : Nat) (p : Preempt) : State :=
  (s.membersOf p).foldl (fun s t => t.2.ctxs.foldl (fun s c =>
    s.modCtx t.2.core c fun cx => if cx.task = some t.1 then { cx with stopped := false } else cx) s)
    { s with preempts := s.preempts.eraseIdx n }

/-- PREEMPT_SAVE (R248, R267): every member has stopped, and each is saved. A request of which a member is STOPPED is
withdrawn, and one whose tasks have all retired is over. -/
def execPreemptSave (group : Nat) (s : State) : Host.Outcome State Fault Refusal :=
  match s.preempts[group]? with
  | none => .next s
  | some p =>
    let ts := s.membersOf p
    if p.saved then .next s
    else if ts.isEmpty then .next { s with preempts := s.preempts.eraseIdx group }
    else if ts.any fun t => t.2.ctxs.any fun c => (s.ctx t.2.core c).task == some t.1 && (s.ctx t.2.core c).state == .stopped
    then .next (s.withdraw group p)
    else if (ts.all fun t => t.2.ctxs.all (s.memberStopped t.1 t.2.core)) && ts.length ≤ s.regs.spooln.toNat then
      s.orFault ((s.saveGroup ts).map fun r =>
        { r.1 with preempts := r.1.preempts.set group ⟨ts.map (·.1), true, ts.filterMap fun t =>
            ((r.1.task t.1).bind (·.frame)).map (BitVec.ofNat 64), false, r.2, p.waiter⟩ })
    else .next s

/-- The next group of a launch can start now, on contexts of a saved group. -/
def State.takesFrom (s : State) (l : Nat) (la : Launch) (ctxs : List (Fin 64 × Fin 4)) : Bool :=
  match s.startsAt l la with
  | some (_, ps) => ps.any fun p => ctxs.any fun x => x.1 == p.core && (p.msg.contains x.2 || p.ctxs.contains x.2)
  | none => false

/-- Contexts of a saved group go to a waiting launch now: to one of higher priority, or to the one that the group has made
room for. -/
def State.outbid (s : State) (prio : Nat) (waiter : Option (Nat × Nat)) (ctxs : List (Fin 64 × Fin 4)) : Bool :=
  s.waitingLaunches.any fun l =>
    match s.launch l with
    | some la => (prio < la.prio || waiter == some (l, la.nextGroup)) && s.takesFrom l la ctxs
    | none => false

/-- Restores the tasks of a group. -/
def State.restoreGroup (s : State) (p : Preempt) : List (Nat × Task) → Except Stop State
  | [] => .ok s
  | (i, t) :: ts =>
    match t.frame with
    | none => s.restoreGroup p ts
    | some f => do
      let s := s.restoreTask i t f
      let s := (p.kept.filter (·.1 == i)).foldl (fun s m => s.restoreMember t.core m.2.1 m.2.2 f) s
      let s ← (s.modTask i fun t =>
        { t with frame := none, away := t.away + (s.sclk.toNat - t.savedAt) }).returnFrame f
      s.restoreGroup p ts

/-- The context of a saved task is free for it: reserved to nobody, or the message context it was started on. -/
def State.backFree (s : State) (t : Task) (c : Fin 4) : Bool :=
  let cx := s.ctx t.core c
  cx.unreserved || (t.handler && cx.state == .swapped && cx.reservedLaunch == some t.launch)

/-- PREEMPT_RESUME (R248, R268): once all its contexts and all that its frames record are free again, and no waiting group
takes them before it. Nothing resumes on a cluster that is closed (R327, R328). -/
def execPreemptResume (group : Nat) (s : State) : Host.Outcome State Fault Refusal :=
  match s.preempts[group]? with
  | none => .next s
  | some p =>
    let ts := s.tasksOf p
    let prio := (ts.map fun t => s.groupPrio (s.groupOf t.2)).foldl max 0
    let free : Bool := ts.all fun t => t.2.ctxs.all (s.backFree t.2) &&
      (s.core t.2.core).wake == .awake && !s.closed (clusterOf t.2.core) && s.frameFree t.2 (t.2.frame.getD 0)
    let ctxs := ts.flatMap fun t => t.2.ctxs.map fun c => (t.2.core, c)
    if p.saved && free && !(p.byStop && s.regs.dstopGo) && !p.waiter.any s.stillWaits && !s.outbid prio p.waiter ctxs then
      s.orFault (s.restoreGroup p ts |>.map fun t => { t with preempts := t.preempts.eraseIdx group })
    else .next s

/-! ### Handlers (R20, R302) -/

/-- The lowest-numbered DORMANT context of a launch. -/
def State.dormantOf (s : State) (k : Fin 64) (l : Nat) : Option (Fin 4) :=
  allCtxs.find? fun c => (s.ctx k c).state == .dormant && (s.ctx k c).reservedLaunch == some l

/-- HANDLER_START (R20): the oldest entry of the inbox whose launch has a DORMANT context. A handler is no member of a
barrier group; its barrier forms act as rank 0 of group 0 of its launch: the model's choice (log entry 72). -/
def execHandlerStart (core : Fin 64) (s : State) : Host.Outcome State Fault Refusal :=
  match (s.core core).inbox.find? fun m => (s.dormantOf core m.launch).isSome with
  | none => .next s
  | some m =>
    match s.dormantOf core m.launch, s.launch m.launch with
    | some c, some la =>
      let t := s.tasks.length
      let args := [m.addr, BitVec.ofNat 64 m.length, m.sender.zeroExtend 64, m.rank.zeroExtend 64]
      let s := s.modCore core fun co => { co with inbox := co.inbox.erase m }
      let s : State := { s with tasks := s.tasks ++
        [⟨m.launch, m.wkid, 0, 0, core, [c], true, s.sclk.toNat, none, false, none, 0, 0⟩] }
      .next (s.modCtx core c fun cx =>
        { cx.start c t la m.handler (loadRegs args) m.wkid with
          inherited := m.before, edges := s.launchEdges la ++ m.edges, view := m.view, bubble := delay s.draw })
    | _, _ => .next s

/-- The launch of this device that takes a message from another (R302); none of a partition that has been reset (R327). -/
def State.receivingLaunch (s : State) (k : Fin 64) (key : Half) : Option Nat :=
  (List.range s.launches.length).find? fun l =>
    s.holdsMessages k l && (s.launch l).any fun la => la.key == key && !la.reset

/-- The handler of this device that a message from another starts: its launch and address (R302). -/
def State.handlerFor (s : State) (k : Fin 64) (key : Half) (hnd : Nat) : Option (Nat × Dword) :=
  (s.receivingLaunch k key).bind fun l => ((((s.launch l).map (·.handlers)).getD [])[hnd]?).map fun h => (l, h)

/-- Cycles until a refused slot has circulated: not stated, a free value (R296). -/
def State.circulation (s : State) : Nat := 1 + delay s.draw

/-- An earlier message of the same channel to the same core has not been accepted (R107). -/
def State.mailBefore (s : State) (core : Fin 64) (sender : BitVec 8) (rank : BitVec 7) : Bool :=
  s.circling.any fun x =>
    match x.2.2 with
    | .remoteMessageDelivery k _ _ sd r _ _ _ => k == core && sd == sender && r == rank
    | _ => false

/-- A message from another device is offered: written at its landing address and placed in the inbox, once that has room.
Refused for the first time it circulates once more, for the second time it goes back to its source (R296, R302). -/
def State.offerMail (s : State) (again : Bool) (i : Instr) : State :=
  let later (n : Nat) (refused : Bool) : State := { s with circling := s.circling ++ [(s.sclk.toNat + n, refused, i)] }
  match i with
  | .remoteMessageDelivery core key hnd sender rank wkid addr payload =>
    if s.mailBefore core sender rank then later 1 again
    else
      match s.handlerFor core key hnd.toNat with
      | none => if again then s.reply rank (.messageBounced rank) else later s.circulation true
      | some (l, h) =>
        if !s.inboxRoom core l then later 1 again
        else
          let cells := (List.range payload.length).map fun i => landingKey ((addr.toNat - lbase + i) % landingRange) key
          let s := s.soil s.nextId cells
          ((s.plainStore s.nextId (cells.zip payload)).1).modCore core fun co =>
            { co with inbox := co.inbox ++ [⟨l, h, addr, payload.length, sender, rank, wkid, [], [], s.draw⟩] }
  | _ => s

/-- Messages of peers whose next offer has come (R296). -/
def State.mailDue (s : State) : State :=
  let due := s.circling.filter (·.1 ≤ s.sclk.toNat)
  due.foldl (fun s x => s.offerMail x.2.1 x.2.2) { s with circling := s.circling.filter (s.sclk.toNat < ·.1) }

/-- REMOTE_MESSAGE_DELIVERY (R302): a message from another device comes. -/
def execRemoteMessageDelivery (core : Fin 64) (key : BitVec 16) (hnd : BitVec 4) (sender : BitVec 8) (rank : BitVec 7)
    (wkid : Dword) (addr : Dword) (payload : List Byte) (s : State) : Host.Outcome State Fault Refusal :=
  .next ((s.takeFlit (s.linkFrom rank)).offerMail false
    (.remoteMessageDelivery core key hnd sender rank wkid addr payload))

end Sys2Proof.Machine
end

