-- ==== Sys2Proof/Machine/Stop.lean ====
section
/-! DEFINITION. Switching a context out on a page fault and the fault service (R262, R291, R292), the device-wide stop
(R269), and the notification queue's head (R272). -/

namespace Sys2Proof.Machine

open Sys2Proof.Config

/-! ### Page faults (R262, R264, R292) -/

/-- The home area of a context (R264). -/
def State.homeArea (s : State) (k : Fin 64) (c : Fin 4) : Nat := s.regs.csave.toNat + (4 * k.val + c.val) * imageSizeBytes

/-- The context is switched out by a page fault; one that pre-emption has saved holds no task (R14). -/
def Context.faulted (cx : Context) : Bool := cx.state == .swapped && cx.task.isSome

/-- The context resumes: the image is reloaded and re-entered without trap mode. What no image carries stands. -/
def State.switchIn (s : State) (k : Fin 64) (c : Fin 4) : State :=
  let img := s.bytes (s.homeArea k c) imageSizeBytes
  if s.badImage (s.homeArea k c) imageSizeBytes then
    (s.modCtx k c fun cx => { cx with swapAnswer := none }).countError.nested k c .poison
  else
    let t := State.modCtx { s with nextId := s.nextId + 192 } k c fun cx =>
      let back : Context :=
        { cx.install img s.nextId (replayOrder cx.snapshot) with
          pendingExit := cx.pendingExit, pendingSoft := cx.pendingSoft }
      { back.reenter with swapAnswer := none, bubble := delay s.draw, waitCount := 0 }
    (t.followNfc k c (s.ctx k c).snapshot).rejoin k c

/-- A switched-out context whose image is saved acts on the answer of the fault service. -/
def State.answered (s : State) (k : Fin 64) (c : Fin 4) : Except Fault State :=
  let cx := s.ctx k c
  if !cx.faulted || !cx.swapSaved then .ok s
  else
    match cx.swapAnswer with
    | some true => .ok (s.switchIn k c)
    | some false => (s.modCtx k c fun cx => { cx with swapAnswer := none }).intoHandler k c 0
    | none => .ok s

/-- SWITCH_OUT_SAVE (R262): once the asynchronous loads have landed, the image goes to the home area. -/
def execSwitchOutSave (core : Fin 64) (ctx : Fin 4) (s : State) : Host.Outcome State Fault Refusal :=
  let cx := s.ctx core ctx
  if !cx.faulted || cx.swapSaved || cx.promised || cx.async.any (·.act.isLoad) then .next s
  else
    match hbmRun (s.homeArea core ctx) imageSizeBytes with
    | .error _ => .fault (.noSuchAddress (s.homeArea core ctx))
    | .ok a =>
      let s := s.put a (cx.image (s.clean core ctx) false none)
      outcome ((s.modCtx core ctx fun cx => { cx with swapSaved := true }).answered core ctx)

/-- FAULT_NOTICE_WRITE (R291, R292): the first notice is written at FNQT once the cycle of its switch-out is over, its
image is saved and the queue has room, and the vector is raised. -/
def execFaultNoticeWrite (s : State) : Host.Outcome State Fault Refusal :=
  match s.notices with
  | [] => .next s
  | (t, a, c, k, entry) :: rest =>
    let cx := s.ctx k c
    if s.sclk.toNat ≤ t || (cx.faulted && !cx.swapSaved) || (s.regs.fnqt + 4096 - s.regs.fnqh) % 4096 = 4095 then .next s
    else
      match hbmRun (s.regs.fnqb.toNat + 16 * s.regs.fnqt) 16 with
      | .error _ => .fault (.noSuchAddress (s.regs.fnqb.toNat + 16 * s.regs.fnqt))
      | .ok q =>
        let s := (s.putValue q 8 a.toNat).putValue (q + 8) 8 (c.val * 2 ^ 15 + k.val * 2 ^ 9 + entry)
        .next (State.raiseVec { s with
          notices := rest, regs := { s.regs with fnqt := (s.regs.fnqt + 1) % 4096 } })

/-- The answer of the fault service to switched-out contexts of a core. -/
def State.answer (s : State) (k : Fin 64) (cs : List (Fin 4)) (served : Bool) : Except Fault State :=
  cs.foldlM (fun s c =>
    (s.modCtx k c fun cx => if cx.swapAnswer.isNone then { cx with swapAnswer := some served } else cx).answered k c) s

/-- A write of WSEL with the page address that WUPD held (R264): one loaded copy takes it and RES; RES set resumes the
contexts of that core and launch switched out on the entry. -/
def State.applyWsel (s : State) (value : Dword) (pa : Nat) : Except Fault State :=
  let k : Fin 64 := Fin.ofNat 64 (bits value 14 9)
  let c : Fin 4 := Fin.ofNat 4 (bits value 16 15)
  let n := bits value 8 0
  let res := value.getLsbD 63
  match s.launchOf k c with
  | none => .ok s
  | some l =>
    let s := s.modCore k fun co =>
      { co with windows := co.windows.map fun w =>
          if w.1 = l then (l, w.2.map fun e => if e.index = n then { e with pa := pa, res := res } else e) else w }
    let waiting := allCtxs.filter fun c =>
      (s.ctx k c).faulted && (s.ctx k c).swapEntry == n && s.launchOf k c == some l
    if res then s.answer k waiting true else .ok s

/-- A step that makes the writes of WSEL that wait. -/
def isWsel : Instr → Bool
  | .wselWrite _ => true
  | _ => false

/-- WSEL_WRITE (R264). A write that comes while bundles issue is made at the end of the cycle, with the page address that
WUPD holds now, so that only accesses that issue after it meet the change (R252); one that comes later follows it. -/
def execWselWrite (value : Dword) (s : State) : Host.Outcome State Fault Refusal :=
  let mine := (value, s.regs.wupd)
  let comes := s.phase.issuing || s.wsels.isEmpty || s.late.any isWsel
  if comes && !s.hostServed then .next s
  else if s.phase.issuing then
    .next { s with wsels := s.wsels ++ [mine], late := s.late.filter (!isWsel ·) ++ [.wselWrite value] }
  else
    outcome ((if comes then s.wsels ++ [mine] else s.wsels).foldlM (fun s w => s.applyWsel w.1 w.2)
      { s with wsels := [], late := s.late.filter (!isWsel ·) })

/-- FNFAIL (R292): the named context goes into its handler with cause PAGE. -/
def execFnfail (value : Dword) (s : State) : Host.Outcome State Fault Refusal :=
  if !s.hostServed then .next s else
  let k : Fin 64 := Fin.ofNat 64 (bits value 7 2)
  let c : Fin 4 := Fin.ofNat 4 (bits value 1 0)
  if (s.ctx k c).faulted then outcome (s.answer k [c] false) else .next s

/-! ### Device-wide stop (R269) -/

/-- Priority of the task that a context holds. -/
def State.prioOf (s : State) (k : Fin 64) (c : Fin 4) : Option Nat :=
  (s.taskOf k c).bind fun t => (s.launch t.launch).map (·.prio)

/-- A context in the scope of a stop. -/
def State.inScope (s : State) (k : Fin 64) (c : Fin 4) : Bool :=
  match s.prioOf k c with
  | some p => p ≤ s.regs.dstopPmax.toNat
  | none => false

/-- The number that a context can still reach. -/
def Context.reachable (cx : Context) : Nat :=
  match cx.lastCut with
  | some n => (n + 1) % 2 ^ 64
  | none => 0

/-- Contexts of saved tasks in the scope of a stop, as they are kept: pre-empted, they have been neither held nor retired.
Those that the stop itself has saved have been held. -/
def State.savedInScope (s : State) : List Context :=
  (s.preempts.filter fun p => p.saved && !p.byStop).flatMap fun p =>
    (p.kept.filter fun m => m.2.2.task == some m.1 &&
      match s.task m.1 with
      | some t => !t.retired && ((s.launch t.launch).map (·.prio)).getD 0 ≤ s.regs.dstopPmax.toNat
      | none => false).map (·.2.2)

/-- Contexts in the scope of a stop that stand on their cores. -/
def State.scope (s : State) : List Context :=
  allCores.flatMap fun k => (allCtxs.filter (s.inScope k)).map fun c => s.ctx k c

/-- DSTAT (R264): contexts held, and whether, in a stop, every context in scope is held. -/
def State.dstat (s : State) : Dword :=
  let held := (s.scope.filter (·.heldCut.isSome)).length
  BitVec.ofNat 64 (held * 2 ^ 32 +
    bit (s.regs.dstopGo && s.scope.all (·.heldCut.isSome) && s.savedInScope.isEmpty))

/-- Releases the contexts held at a cut below the target. -/
def State.releaseBelow (s : State) (target : Nat) : State :=
  s.foldCtxs fun s k c => s.modCtx k c fun cx =>
    { cx with heldCut := cx.heldCut.filter (target ≤ ·) }

/-- DSTOP_GO (R269): DTARGET becomes the maximum of the reachable numbers in scope. -/
def execDstopGo (pmax : BitVec 3) (s : State) : Host.Outcome State Fault Refusal :=
  if !s.hostServed then .next s else
  let s := s.modRegs fun r => { r with dstopGo := true, dstopPmax := pmax }
  let target := ((s.scope ++ s.savedInScope).map (·.reachable)).foldl max 0
  .next ((s.modRegs fun r => { r with dtarget := BitVec.ofNat 64 target }).releaseBelow target)

/-- DSTOP_CANCEL (R269): every held context is released unsaved. -/
def execDstopCancel (s : State) : Host.Outcome State Fault Refusal :=
  if !s.hostServed then .next s else
  .next ((s.modRegs fun r => { r with dstopGo := false }).foldCtxs fun s k c =>
    s.modCtx k c fun cx => { cx with heldCut := none })

/-- DTARGET_WRITE (R264, R269): a lower value is ignored; a higher one releases the contexts held below it. -/
def execDtargetWrite (value : Dword) (s : State) : Host.Outcome State Fault Refusal :=
  if !s.hostServed then .next s else
  if value.toNat < s.regs.dtarget.toNat then .next s
  else .next ((s.modRegs fun r => { r with dtarget := value }).releaseBelow value.toNat)

/-- A task that a stop holds: every context of it that runs is held at its cut. None is saved while a buck or accord runs
(R209). -/
def State.stopHeld (s : State) (t : Nat × Task) : Bool :=
  let mine := t.2.ctxs.filter fun c => (s.ctx t.2.core c).task == some t.1
  !mine.isEmpty && !s.sketchBusy t.2.core (some t.1) && mine.all fun c => (s.ctx t.2.core c).heldCut.isSome

/-- The held tasks, by pre-emption group; a message-started task stands alone. -/
def State.heldGroups (s : State) : List (List (Nat × Task)) :=
  (((s.running.filter s.stopHeld).map fun t => s.groupOf t.2).eraseDups.map fun g => (s.groupTasks g).filter s.stopHeld) ++
  ((s.live.filter fun t => t.2.handler && s.stopHeld t).map fun t => [t])

/-- Saves the held tasks of each group, as far as frames reach. -/
def State.saveHeld (s : State) : List (List (Nat × Task)) → Except Stop State
  | [] => .ok s
  | ts :: gs =>
    if s.regs.spooln.toNat < ts.length then s.saveHeld gs
    else do
      let (t, kept) ← s.saveGroup ts
      let frames := ts.filterMap fun x => ((t.task x.1).bind (·.frame)).map (BitVec.ofNat 64)
      State.saveHeld { t with preempts := t.preempts ++ [⟨ts.map (·.1), true, frames, true, kept, none⟩] } gs

/-- DSTOP_SAVE (R269): every held task is saved under R267. -/
def execDstopSave (s : State) : Host.Outcome State Fault Refusal :=
  if !s.hostServed then .next s else s.orFault (s.saveHeld s.heldGroups)

/-! ### Notifications (R272) -/

/-- The counter of the page that entry i of the queue names is cleared. -/
def State.passNotification (s : State) (i : Nat) : State :=
  let a := s.regs.mnqb.toNat + 16 * i
  let base := s.value a 8
  let d := BitVec.ofNat 64 (s.value (a + 8) 8)
  let k : Fin 64 := Fin.ofNat 64 (bits d 14 9)
  let mine (p : (Nat × Nat) × Word × Bool) : Bool :=
    p.1.2 == base && p.2.2 && (((s.core k).windows.lookup p.1.1).getD []).any fun e =>
      e.index == bits d 8 0 && e.covers base
  { s with pageCounts := s.pageCounts.filter (!mine ·) }

/-- MNQH_WRITE (R272): the host advances the head past entries. -/
def execMnqhWrite (value : Dword) (s : State) : Host.Outcome State Fault Refusal :=
  if !s.hostServed then .next s else
  let new := bits value 11 0
  let old := s.regs.mnqh
  let n := min ((new + 4096 - old) % 4096) ((s.regs.mnqt + 4096 - old) % 4096)
  let s := (List.range n).foldl (fun s i => s.passNotification ((old + i) % 4096)) s
  .next (s.modRegs fun r => { r with mnqh := new })

end Sys2Proof.Machine
end

