-- ==== Sys2Proof/Machine/Skidder.lean ====
section
/-! DEFINITION. Writes that wait for sectors, the progress bound, the Skidder's passes, enabling compressed memory and
discarding pages (R250, R283-R290). -/

namespace Sys2Proof.Machine

open Sys2Proof.Config

/-! ### Waiting writes (R285) -/

/-- The event of an outside write; the host lies in no scope (log entry 8). -/
def State.noteOutside (s : State) (w : Writer) (keys : List Nat) : State :=
  match w with
  | .peer r _ => if keys.isEmpty then s else s.note (.peer r) (s.peerAccess r (writeOf keys))
  | _ => s

/-- An outside write meets an uncorrectable error: it is counted, and a peer is told (R293; log entry 24). -/
def State.outsideError (s : State) (w : Writer) : State :=
  match w with
  | .peer r _ => s.countError.reply r (.slotPoisoned r)
  | _ => s.countError

/-- A write of the host or of a peer: what stands behind another, what comes while the space is initialised, and what
finds no sectors waits, block by block. A part of a block that must be decoded and holds an uncorrectable error, once it is
performed, is not written (R270, R293). -/
def State.outsideWrite (s : State) (w : Writer) (cells : List (Nat × Byte)) : State :=
  let keys := cells.map (·.1)
  let behind := (blocksTouched keys).filter (s.blockWaits s.nextId)
  let bad := (blocksTouched keys).filter fun b => !behind.contains b && s.poisonMet (.write (cellsOf cells b))
  let of (bs : List Nat) (c : Nat × Byte) : Bool := isExposed c.1 && bs.contains (exposedBlock c.1)
  let s := bad.foldl (fun s _ => s.outsideError w) s
  let now := cells.filter fun c => !of (bad ++ behind) c
  let (t, rest) := s.plainStore s.nextId now
  let t := t.noteOutside w ((now.map (·.1)).filter fun x => !rest.any (·.1 == x))
  (t.enqueueAll w none (cells.filter (of behind))).enqueueAll w (some s.sclk.toNat) rest

/-- What a peer's atomic makes of its word (R143): the old bytes and the new cells. -/
def State.peerWord (s : State) (keys : List Nat) (op : AtomOp) (v : Dword) : List Byte × List (Nat × Byte) :=
  let old := keys.map s.byte
  (old, s.atomicCells keys op v)

/-- A peer's atomic on a word here (R143, R234, R296): the old word goes back. It waits as a write does (R286). -/
def State.peerAtomic (s : State) (src : BitVec 7) (refusals : Nat) (keys : List Nat) (op : AtomOp) (v : Dword) : State :=
  let (old, new) := s.peerWord keys op v
  let w : Writer := .peerAtom src refusals op v
  if s.blockedOnSectors s.nextId keys then s.enqueueAll w none new
  else if s.poisonMet (.atomic keys op v 0) then s.countError.reply src (.slotPoisoned src)
  else
    match s.storeCells s.nextId new with
    | (t, []) => (t.noteOutside (.peer src refusals) keys).reply src (.slotReply src old)
    | _ => s.enqueueAll w (some s.sclk.toNat) new

/-- A waiting write leaves the queue. -/
def State.unwait (s : State) (w : WaitingWrite) : State :=
  State.settleSkidder { s with waitingWrites := s.waitingWrites.filter (·.id != w.id) }

/-- A write that finds no sectors waits for them from now on (R287). -/
def State.begun (s : State) (w : WaitingWrite) : State :=
  { s with waitingWrites := s.waitingWrites.map fun x =>
      if x.id = w.id then { x with since := some (x.since.getD s.sclk.toNat) } else x }

/-- A context's access waits for no sectors any more. -/
def State.noLonger (s : State) (k : Fin 64) (c : Fin 4) (id : Nat) : State :=
  if s.waitingWrites.any (·.writer == .context k c id) then s else s.modAsync k c id fun a => { a with waiting := none }

/-- Serves a waiting write of a context. -/
def State.serveContext (s : State) (w : WaitingWrite) (k : Fin 64) (c : Fin 4) (i : Nat) : State :=
  match s.asyncOf k c i with
  | none => s.unwait w
  | some a =>
    match a.act with
    | .write cells =>
      if s.poisonMet (.write w.cells) then
        (((s.latchPoison k c a.addr i).unwait w).storeLeft k c a cells w.cells).noLonger k c i
      else if !s.allows (.context k c) { a with act := .write w.cells } then s
      else
        match (s.soil i (w.cells.map (·.1))).plainStore w.id w.cells with
        | (t, []) => ((t.unwait w).wrote k c a cells w.cells).noLonger k c i
        | _ => s.begun w
    | .atomic keys op v _ =>
      if s.poisonMet a.act then ((s.latchPoison k c a.addr i).unwait w).performed k c a
      else if !s.allows (.context k c) a then s
      else
        match s.atomicNow k c a w.id keys op v with
        | (t, []) => ((t.landLoad k c a).unwait w)
        | _ => s.begun w
    | _ => s.unwait w

/-- Serves a waiting result of a round: the word is read again, and the rounds after it follow. -/
def State.serveRound (s : State) (w : WaitingWrite) (win a : Nat) : State :=
  match s.openRound win a with
  | none => s.unwait w
  | some r =>
    if !s.mayWrite r then s
    else
    match s.writeRound w.id r with
    | (t, []) => ((t.unwait w).closeRound r).completeRounds win a (s.rounds.length + 1)
    | _ => s.begun w

/-- Serves a waiting atomic of a peer. -/
def State.serveAtom (s : State) (w : WaitingWrite) (rank : BitVec 7) (op : AtomOp) (v : Dword) : State :=
  let keys := w.cells.map (·.1)
  let (old, new) := s.peerWord keys op v
  if s.poisonMet (.atomic keys op v 0) then (s.countError.reply rank (.slotPoisoned rank)).unwait w
  else if !s.allows (.peer rank) (s.peerAccess rank (.atomic keys op v 0)) then s
  else
    match s.storeCells w.id new with
    | (t, []) => ((t.unwait w).noteOutside (.peer rank 0) keys).reply rank (.slotReply rank old)
    | _ => s.begun w

/-- The address of a program behind a byte of the exposed space, by an entry that maps it (R298). -/
def WinEntry.addressOf (e : WinEntry) (own : BitVec 7) (d : Nat) : Option Nat :=
  if !e.comp then none
  else if e.set ≤ 1 then
    (if e.pa ≤ d && d < e.pa + e.bytes && BitVec.ofNat 7 e.peer0 == own then some (e.va + (d - e.pa)) else none)
  else
    let base := e.va + (d - e.pa) / 256 * e.set * 256 + d % 256
    if d < e.pa then none
    else ((List.range e.set).map fun j => base + 256 * j).find? fun a => e.covers a && e.place a == (own, d)

/-- The program's address of the block behind a key; the given address where no entry leads there. -/
def State.blockAddress (s : State) (k : Fin 64) (c : Fin 4) (key : Nat) (a : Dword) : Dword :=
  BitVec.ofNat 64
    (((s.windowsOf k c).findSome? fun e => e.addressOf s.rank ((key - exposedBase) / 256 * 256)).getD
      (a.toNat / 256 * 256))

/-- The program's address of the block that a write of a copy command waits on (R287). -/
def State.waitingAddress (s : State) (k : Fin 64) (c : Fin 4) (cmd : Command) (w : WaitingWrite) : Dword :=
  s.blockAddress k c ((w.cells.head?.map (·.1)).getD exposedBase)
    (BitVec.ofNat 64 (((s.blockAddrs k cmd true (cmd.done - 1))[0]?).getD 0))

/-- Serves a waiting write of a copy command, the head of its channel. -/
def State.serveCopy (s : State) (w : WaitingWrite) (k : Fin 64) (c : Fin 4) : State :=
  let keys := w.cells.map (·.1)
  match s.head k c with
  | none => s.unwait w
  | some cmd =>
    if s.poisonMet (.write w.cells) then s.stopAt k c (s.waitingAddress k c cmd w, true)
    else if !s.mayCopy k c cmd true keys then s
    else
      match s.storeCopied k c cmd w.id w.cells with
      | (t, []) => ((t.unwait w).countOff k c true w.cells.length).endHead k c
      | _ => s.begun w

/-- The attestation report has been written, once none of it waits (R332). -/
def State.reportDone (s : State) : State :=
  if s.waitingWrites.any (·.writer == .report) then s
  else s.modRegs fun r => { r with attBusy := false, attDone := true }

/-- Serves a waiting write of the host, of the report or of a peer. -/
def State.serveOutside (s : State) (w : WaitingWrite) (may : Bool) : State :=
  if s.poisonMet (.write w.cells) then (s.outsideError w.writer).unwait w
  else if !may then s
  else
    match s.plainStore w.id w.cells with
    | (t, []) => (t.unwait w).noteOutside w.writer (w.cells.map (·.1))
    | _ => s.begun w

/-- WAITING_WRITE_PERFORM (R285): a waiting write that stands behind no other on its block is performed, if it finds its
sectors and no older one would take them. -/
def execWaitingWritePerform (id : Nat) (s : State) : Host.Outcome State Fault Refusal :=
  match s.waitingWrites.find? (·.id == id) with
  | none => .next s
  | some w =>
    if s.blockWaits id w.block then .next s
    else
      match w.writer with
      | .context k c i => .next (s.serveContext w k c i)
      | .station win a => .next (s.serveRound w win a)
      | .peerAtom rank _ op v => .next (s.serveAtom w rank op v)
      | .copy k c => .next (s.serveCopy w k c)
      | .peer rank _ => .next (s.serveOutside w (s.allows (.peer rank) (s.peerAccess rank (.write w.cells))))
      | .host => .next (s.serveOutside w true)
      | .report => .next (s.serveOutside w true).reportDone

/-! ### The progress bound (R287) -/

/-- A context's write meets the bound: it and the other waiting writes of the context are suspended, and so is every
access of the context later than one of them to a block it touches; OOS is latched. Where the store of a trap record is
among them, its entry meets a nested fault (R261). -/
def State.suspend (s : State) (k : Fin 64) (c : Fin 4) (id : Nat) (w : WaitingWrite) : State :=
  let cx := s.ctx k c
  let mine := cx.async.filter fun a => a.waiting.isSome && !a.suspended
  let hit (a : Async) : Bool := !a.suspended && (a.waiting.isSome || mine.any fun m =>
    m.id < a.id && (blocksTouched a.act.keys).any (blocksTouched m.act.keys).contains)
  let addr := match s.asyncOf k c id with
    | some a => a.addr
    | none => 0
  let taddr := s.blockAddress k c ((w.cells.head?.map (·.1)).getD exposedBase) addr
  let s := State.settleSkidder { s with
    waitingWrites := s.waitingWrites.filter fun x =>
      match x.writer with
      | .context k' c' _ => !(k' == k && c' == c)
      | _ => true }
  (s.modCtx k c fun cx =>
    { cx with async := cx.async.map fun a => if hit a then { a with suspended := true } else a }).latchFault k c .oos taddr
      (((cx.async.find? fun a => hit a && cx.blockedOn.contains a.id).map (·.id)).getD id)

/-- The bound of a waiting write is met; a station's result has none. -/
def State.boundMet (s : State) (w : WaitingWrite) : Bool :=
  match w.since, w.writer with
  | _, .station .. | _, .report | none, _ => false
  | some t, _ => t + s.regs.skbnd.toNat ≤ s.sclk.toNat

/-- Two waiting writes leave the queue together: those of one context, or of one channel. -/
def Writer.together : Writer → Writer → Bool
  | .context k c _, .context k' c' _ | .copy k c, .copy k' c' => k == k' && c == c'
  | _, _ => false

/-- SKIDDER_BOUND_EXPIRY (R287): by the writer. A station's result keeps waiting. OOSN counts the write, and those that
leave with it whose bound is met as well. -/
def execSkidderBoundExpiry (id : Nat) (s : State) : Host.Outcome State Fault Refusal :=
  match s.waitingWrites.find? (·.id == id) with
  | none => .next s
  | some w =>
    if !s.boundMet w then .next s
    else
      let n := (s.waitingWrites.filter fun x => x.id != id && s.boundMet x && w.writer.together x.writer).length + 1
      let s := s.modRegs fun r => { r with oosn := BitVec.ofNat 32 (min 0xFFFFFFFF (r.oosn.toNat + n)) }
      let gone := s.unwait w
      match w.writer with
      | .context k c i => .next (s.suspend k c i w)
      | .copy k c =>
        match s.head k c with
        | some cmd =>
          .next (s.copyFault k c (s.waitingAddress k c cmd w))
        | none => .next gone
      | .peer rank n | .peerAtom rank n _ _ => .next (gone.reply rank (.slotRefused rank true (1 ≤ n)))
      | .station .. | .report => .next s
      | .host => .next (gone.modRegs fun r => { r with hdrop := if r.hdrop = 0xFFFF then r.hdrop else r.hdrop + 1 })

/-! ### Compaction (R289) -/

/-- Sectors that a waiting write needs for its block. -/
def State.sectorsNeeded (s : State) (w : WaitingWrite) : Nat := (s.shapeAfter w.block (s.wanted w)).2

/-- Blocks by falling number of sectors. -/
def insertBySectors (x : Nat × BlockMeta) : List (Nat × BlockMeta) → List (Nat × BlockMeta)
  | [] => [x]
  | y :: ys => if y.2.nsec < x.2.nsec then x :: y :: ys else y :: insertBySectors x ys

/-- Every encoded block takes a new run, the largest first: free sectors join. One that holds an uncorrectable error, and
cannot be read, stays (R293). -/
def State.compact (s : State) : State :=
  let bad (b : Nat × BlockMeta) : Bool := s.poison.any (s.blockError b.1 ·)
  let all := (s.blocks.filter (!bad ·)).foldl (fun l b => insertBySectors b l) []
  let kept := s.blocks.filter bad
  let t : State := { s with chunks := [], blocks := kept }
  let t := kept.foldl (fun t b => t.setChunk b.2.chunk (t.chunkMask b.2.chunk ||| runMask b.2.ofs b.2.nsec)) t
  let t := all.foldl (fun t b =>
    match t.findRun b.2.nsec with
    | some (chunk, ofs) =>
      State.setMeta { t.takeSectors chunk ofs b.2.nsec with regs := s.regs } b.1 { b.2 with chunk := chunk, ofs := ofs }
    | none => t) t
  if t.blocks.length = s.blocks.length then t else s

/-- Step 1: where enough sectors are free, and no run. -/
def State.compaction (s : State) : State :=
  if s.waitingWrites.any fun w =>
      let n := s.sectorsNeeded w
      n ≤ s.regs.cfree && (s.findRun n).isNone then s.compact
  else s

/-! ### Eviction (R250, R289) -/

/-- Bytes of the exposed space of a device that an entry maps, as a base and a size (R297). -/
def WinEntry.spanOn (e : WinEntry) (own : BitVec 7) : Nat × Nat :=
  if !e.comp then (e.pa, 0)
  else if e.set ≤ 1 then (e.pa, if BitVec.ofNat 7 e.peer0 == own then e.bytes else 0)
  else (e.pa, if (own - BitVec.ofNat 7 e.peer0).toNat < e.set then 256 * ceilDiv (e.bytes / 256) e.set else 0)

def overlap (a b : Nat × Nat) : Bool := a.1 < b.1 + b.2 && b.1 < a.1 + a.2

/-- An entry maps some byte of a page of the exposed space. -/
def WinEntry.maps (e : WinEntry) (own : BitVec 7) (p : Nat × Nat) : Bool := overlap (e.spanOn own) p

/-- Some block of a page lies in the range list of a launch, as an entry of a table maps it. -/
def Launch.coversBy (la : Launch) (table : List WinEntry) (own : BitVec 7) (p : Nat × Nat) : Bool :=
  table.any fun e => e.maps own p && (List.range (p.2 / 256)).any fun i =>
    match e.addressOf own (p.1 + 256 * i) with
    | some a => la.ranges.any (overlap (a, 256))
    | none => false

/-- By the table of its record. -/
def Launch.covers (la : Launch) (own : BitVec 7) (p : Nat × Nat) : Bool := la.coversBy la.table own p

/-- A launch of which a task has started and that has not completed covers the page, by its table as cores have loaded it
(R264); or by that of its record, which cores will load for the groups to come. -/
def State.neededNow (s : State) (p : Nat × Nat) : Bool :=
  (List.range s.launches.length).any fun l =>
    match s.launch l with
    | some la =>
      la.started && !la.completed &&
        ((la.nextGroup < la.groups && la.covers s.rank p) ||
          allCores.any fun k => la.coversBy (((s.core k).windows.lookup l).getD []) s.rank p)
    | none => false

/-- The launch taken from the head record of a queue, that waits for its first start. -/
def State.takenFrom (s : State) (q : Fin 64) : Option Launch :=
  s.launches.find? fun la => la.queue == q.val && !la.started && !la.completed

/-- The launch at a place of a queue: the head record as it was taken, another as it stands. One that leads nowhere covers
nothing. -/
def State.queuedAt (s : State) (q : Fin 64) (i : Nat) : Option Launch :=
  let r := s.queues.get q
  let place := (r.head.toNat + i) % 2 ^ r.lsz
  if i = 0 && r.taken && !r.changed.contains place then s.takenFrom q
  else
    match s.launchAt q place with
    | .ok (la, _) => some la
    | .error _ => none

/-- Launches queued in the order of R250: by priority, queue and position. Those of a disabled queue, which no distributor takes,
do not count: the model's choice (log entry 94). -/
def State.queued (s : State) : List Launch :=
  ((List.range 8).reverse).flatMap fun p => (List.finRange 64).flatMap fun q =>
    let r := s.queues.get q
    if !r.en || r.prio != p then [] else (List.range (r.tail - r.head).toNat).filterMap (s.queuedAt q)

/-- Pages of the exposed space that an entry maps: of a striped entry those of its page size on this device. -/
def WinEntry.exposedPages (e : WinEntry) (own : BitVec 7) : List (Nat × Nat) :=
  (List.range (ceilDiv (e.spanOn own).2 (pageSize e.psz))).map fun i => (e.pa + i * pageSize e.psz, pageSize e.psz)

/-- Resident pages of the exposed space that may be evicted: exposed address and size. -/
def State.evictable (s : State) : List (Nat × Nat) :=
  let loaded := allCores.flatMap fun k => (s.core k).windows.flatMap (·.2)
  let pages := ((loaded.filter fun e => e.comp && e.res && e.psz ≤ 3).flatMap (·.exposedPages s.rank)).eraseDups
  let pinned (p : Nat × Nat) : Bool := loaded.any fun e => e.pin && e.maps s.rank p
  let waited (p : Nat × Nat) : Bool := s.waitingWrites.any fun w => overlap (256 * w.block, 256) p
  pages.filter fun p => !pinned p && !waited p && !s.neededNow p

/-- Next-use distance: the rank of the first queued launch that covers the page, or beyond all. -/
def pageDistance (own : BitVec 7) (ls : List Launch) (p : Nat × Nat) : Nat :=
  (ls.findIdx? fun la => la.covers own p).getD ls.length

/-- The page of greatest distance, ties to the lowest address. -/
def farthest (dist : Nat × Nat → Nat) : List (Nat × Nat) → Option (Nat × Nat)
  | [] => none
  | p :: ps =>
    match farthest dist ps with
    | none => some p
    | some q => some (if dist p < dist q || (dist p == dist q && q.1 < p.1) then q else p)

/-- A key lies in a page of the exposed space. -/
def inPage (p : Nat × Nat) (key : Nat) : Bool := exposedBase + p.1 ≤ key && key < exposedBase + p.1 + p.2

/-- An access that has been translated, or a write that waits, touches the page. -/
def State.touched (s : State) (p : Nat × Nat) : Bool :=
  (allCores.any fun k => allCtxs.any fun c => (s.ctx k c).async.any fun a => a.act.keys.any (inPage p)) ||
    s.waitingWrites.any fun w => overlap (256 * w.block, 256) p

/-- Frees the sectors of the blocks of a page: they stand in the zero state. -/
def State.zeroPage (s : State) (p : Nat × Nat) : State :=
  let s := (s.blocks.filter fun b => p.1 ≤ 256 * b.1 && 256 * b.1 < p.1 + p.2).foldl (fun s b =>
    (s.freeSectors b.2.chunk b.2.ofs b.2.nsec).setMeta b.1 ⟨0, 0, 0, 0⟩) s
  s.put (exposedBase + p.1) (List.replicate p.2 0)

/-- Clears RES in every loaded copy of every entry that maps a page. -/
def State.unmap (s : State) (p : Nat × Nat) : State :=
  s.foldCores fun s k => s.modCore k fun co =>
    { co with windows := co.windows.map fun w => (w.1, w.2.map fun e =>
        if e.maps s.rank p then { e with res := false } else e) }

/-- The rest of step 2, once the accesses that were translated before RES was cleared have been performed: the page goes
to the host frame at the top of the array. -/
def State.evictPage (s : State) (p : Nat × Nat) : Except Stop State := do
  let n := s.regs.spln.toNat - 1
  let a ← hbmRun (s.regs.splb.toNat + 8 * n) 8
  let q ← hbmRun (s.regs.evqb.toNat + 16 * s.regs.evqt) 16
  let frame := s.value a 8
  let s := (s.move (exposedBase + p.1) (hostBase + frame) p.2).zeroPage p
  let s := (s.putValue q 8 p.1).putValue (q + 8) 8 frame
  .ok (State.raiseVec (State.modRegs { s with evicting := none } fun r =>
    { r with spln := BitVec.ofNat 16 n, evqt := (r.evqt + 1) % 4096 }))

/-- Step 2: RES of the page of greatest distance is cleared, and the page leaves once no access touches it, with RES cleared
again where it has been set meanwhile; skipped without a frame or room in the queue. Blocks of copy commands are translated
as they are read or written. -/
def State.eviction (s : State) : Except Stop State :=
  if s.regs.spln = 0 || (s.regs.evqt + 4096 - s.regs.evqh) % 4096 = 4095 then .ok s
  else
    match s.evicting.or (farthest (pageDistance s.rank s.queued) s.evictable) with
    | none => .ok s
    | some p =>
      let t := s.unmap p
      if s.touched p then .ok { t with evicting := some p } else t.evictPage p

/-- Step 3: a balloon request. -/
def State.balloon (s : State) : State :=
  let need := (s.waitingWrites.map s.sectorsNeeded).sum
  (s.modRegs fun r => { r with balPend := true, balSect := r.cresv + need - r.cfree }).raiseVec

/-- A write waits, the pool is below its low-water mark, or a run from the reserve has started the Skidder (R284). -/
def State.skidding (s : State) : Bool :=
  !s.waitingWrites.isEmpty || s.regs.cfree < s.regs.clow || s.regs.skRun

/-- SKIDDER_ITERATION (R289): one pass while there is cause; a pass that has a page to evict goes on once that has left. A pass
that comes while bundles issue is made at the end of the cycle, so that only accesses that issue after it find RES cleared
(R252). -/
def execSkidderIteration (s : State) : Host.Outcome State Fault Refusal :=
  if s.phase.issuing then .next { s with late := s.late ++ [.skidderIteration] }
  else if !s.skidding then .next s.settleSkidder
  else
    match s.compaction.eviction with
    | .ok t =>
      if t.evicting.isSome then .next t.settleSkidder
      else .next (t.balloon.modRegs fun r => { r with skRun := false }).settleSkidder
    | .error (.fault f) => .fault f
    | .error (.trap _) => .next s

/-! ### Enabling and discarding (R282, R283, R290) -/

/-- CMPCTL_ENABLE: a write of CMPCTL. EN = 1 starts the initialisation, and is ignored before stage 2 (R322). -/
def execCmpctlEnable (value : Dword) (s : State) : Host.Outcome State Fault Refusal :=
  if !s.hostServed then .next s else
  let vec := bits value 26 16
  if value.getLsbD 63 then
    if s.stage < 2 then .next s
    else .next (s.modRegs fun r => { r with cmpEn := true, cmpBusy := true, cmpVec := vec })
  else .next (s.modRegs fun r => { r with cmpEn := false, cmpVec := vec })

/-- CMPCTL_INIT_DONE (R283): every block is zero, every sector of the pool is free. -/
def execCmpctlInitDone (s : State) : Host.Outcome State Fault Refusal :=
  if !s.regs.cmpBusy then .next s
  else
    let mem := { s.mem with cells := s.mem.cells.filter fun c => !isExposed c.1 }
    .next (State.settleSkidder { s with
      mem := mem.clear (bits s.regs.cmeta 63 16 * 16) (s.regs.cxsize * 2 ^ 13)
      blocks := [], chunks := []
      regs := { s.regs with cmpBusy := false, cfree := s.regs.poolChunks * 8 } })

/-- CDISC (R290): zeros to every block of the pages, as a write of the host. -/
def execCdisc (value : Dword) (s : State) : Host.Outcome State Fault Refusal :=
  if !s.hostServed then .next s else
  let a := bits value 63 12 * 4096
  let n := (bits value 11 0 + 1) * 4096
  if s.regs.exposedBytes < a + n then .next s
  else
    .next ((List.range (n / 256)).foldl (fun s b => s.outsideWrite .host
      ((List.range 256).map fun i => (exposedBase + a + 256 * b + i, (0 : Byte)))) s).settleSkidder

end Sys2Proof.Machine
end

