-- ==== Sys2Proof/Machine/Ring.lean ====
section
/-! DEFINITION. Ring slots from other devices, bounces, bindings of the fabric FIFOs, and the link layer (R294-R300, R315,
R324, R325). -/

namespace Sys2Proof.Machine

open Sys2Proof.Config

/-! ### Ring slots (R296, R297) -/

/-- An export range covers n bytes from a (R315). -/
def State.exported (s : State) (a n : Nat) : Bool :=
  s.regs.pexp.toList.any fun r => r.1.toNat ≤ a && a + n ≤ r.1.toNat + r.2.toNat

/-- The atomic that a slot asks for, its operand read from the slot: of a compare and swap the expected value comes
first. -/
def atomOf (p : PeerAtomic) (n : Nat) (data : List Byte) : AtomOp × Dword :=
  let v (i : Nat) : Dword := BitVec.ofNat 64 (leValue ((data.drop (i * n)).take n))
  match p with
  | .add => (.add, v 0)
  | .min u => (.min u, v 0)
  | .max u => (.max u, v 0)
  | .and => (.and, v 0)
  | .or => (.or, v 0)
  | .xor => (.xor, v 0)
  | .swap => (.swap, v 0)
  | .cas => (.cas (v 0), v 1)
  | .fadd => (.fadd, v 0)

/-- Bytes of the word of an atomic of a slot. -/
def atomWidth (p : PeerAtomic) (data : List Byte) : Nat := if p = .cas then data.length / 2 else data.length

/-- Address and number of the bytes that a slot asks for: a read takes the whole block. -/
def slotSpan (addr : Dword) (data : PeerRequest) : Nat × Nat :=
  match data with
  | .read => (addr.toNat / 256 * 256, 256)
  | .write bytes => (addr.toNat, bytes.length)
  | .atomic p operand => (addr.toNat, atomWidth p operand)

/-- Serves a ring slot (R296): it asks for a block, for a write of one block or less, or for an atomic. A slot whose address
no export range covers is refused; the second refusal returns it to its source. None while it has to wait, for the order of
accesses (R229) or for the compressed space (R283, R285). What goes back to its source leaves on the ring as well. -/
def State.serveSlot (s : State) (x : RingSlot) : Option State :=
  let (a, n) := slotSpan x.addr x.data
  let limit := if x.exposed then (if s.regs.cmpEn then s.regs.exposedBytes else 0) else hbmBytes
  if !s.exported a n || limit < a + n then some (s.reply x.src (.slotRefused x.src false (1 ≤ x.refusals)))
  else
    let key := if x.exposed then exposedBase + a else a
    let keys := (List.range n).map (key + ·)
    let may (act : MemAct) : Bool := s.allows (.peer x.src) (s.peerAccess x.src act)
    match x.data with
    | .atomic p operand =>
      let (op, v) := atomOf p n operand
      if may (.atomic keys op v 0) then some (s.peerAtomic x.src x.refusals keys op v).settleSkidder else none
    | .write bytes =>
      if may (writeOf keys) then some (s.outsideWrite (.peer x.src x.refusals) (keys.zip bytes)).settleSkidder else none
    | .read =>
      if s.blockedOnSectors s.nextId [key] || !may (readOf keys) then none
      else if s.poisonMet (readOf keys) then some (s.countError.reply x.src (.slotPoisoned x.src))
      else some ((s.note (.peer x.src) (s.peerAccess x.src (readOf keys))).reply x.src (.slotReply x.src (s.bytes key n)))

/-- Serves the ring slots that wait in their buffers, in the order in which they came; those of one source overtake none. -/
def State.slotsDue (s : State) : State :=
  s.buffered.foldl (fun (s : State) x =>
    let wait : State := { s with buffered := s.buffered ++ [x] }
    if s.buffered.any (·.src == x.src) then wait else (s.serveSlot x).getD wait) { s with buffered := [] }

/-- RING_SLOT_RECEIVE (R296): a slot comes; its buffer is free again once it has been served (R299, R325). -/
def execRingSlotReceive (src : BitVec 7) (addr : Dword) (exposed : Bool) (data : PeerRequest) (refusals : Nat)
    (s : State) : Host.Outcome State Fault Refusal :=
  let s := s.takeFlit (s.linkFrom src)
  .next (State.slotsDue { s with buffered := s.buffered ++ [⟨src, addr, exposed, data, refusals⟩] })

/-- A message for another device comes back refused: nothing of it is delivered, its charge comes off, and COPYFLT names the
first byte of its destination. Refused for want of permission it counts in UNDEL (R296, R302). -/
def State.bounceMessage (s : State) (m : Message) (space : Bool) : State :=
  let t := (s.dropMessage m).modCtx m.core m.ctx fun cx => cx.latch .copyflt m.dst m.id
  if space then t else t.modLaunch m.launch fun l => { l with undelivered := l.undelivered + 1 }

/-- An access of a context to another device comes back refused (R296): for want of space a store or an atomic is
suspended, otherwise the access is given up. -/
def State.bounceAccess (s : State) (k : Fin 64) (c : Fin 4) (a : Async) (space : Bool) : State :=
  if space && a.act.isStore then
    (s.modAsync k c a.id fun a => { a with suspended := true }).latchFault k c .oos a.addr a.id
  else (s.latchFault k c .perm a.addr a.id).performed k c a

/-- The slot that comes back takes a flit of the link by which answers of its target come in (R325). -/
def State.comesBack (s : State) (keys : List Nat) : State :=
  match peersOf keys with
  | r :: _ => s.takeFlit (s.linkFrom r)
  | [] => s

/-- RING_BOUNCE (R296): a slot of this device comes back refused twice, for want of space or of permission. A copy fault
names the first byte of the refused block (R106): of a SEND, which is refused whole, that of its destination. A message
that has left may have lost its channel's command by now. -/
def execRingBounce (core : Fin 64) (ctx : Fin 4) (id : Nat) (space : Bool) (s : State) :
    Host.Outcome State Fault Refusal :=
  match s.messages.find? fun m => m.id == id && m.core == core && m.ctx == ctx && m.far.isSome && m.sent != 0,
      s.asyncOf core ctx id with
  | some m, _ => .next ((s.takeFlit (s.linkFrom (m.far.getD 0))).bounceMessage m space)
  | none, some a =>
    if !s.mayPerform a || !a.act.keys.any (peerBase ≤ ·) then .next s
    else .next ((s.comesBack a.act.keys).bounceAccess core ctx a space)
  | none, none =>
    match s.head core ctx with
    | none => .next s
    | some cmd =>
      let keys (write : Bool) : List Nat := match s.blockKeys core ctx cmd write cmd.done with
        | .ok ks => ks
        | .error _ => []
      let peer (write : Bool) : Bool := (keys write).any (peerBase ≤ ·)
      let first := ((s.blockAddrs core cmd (peer true) cmd.done)[0]?).getD 0
      if cmd.id != id || cmd.started.isNone || cmd.message.isSome || cmd.bad || cmd.blocks core ≤ cmd.done ||
          !(peer true || peer false) then .next s
      else .next ((s.comesBack (keys (peer true))).copyFault core ctx (BitVec.ofNat 64 first))

/-! ### FIFO bindings (R300) -/

/-- Writable bits of an FBIND entry. -/
def fbindMask : Dword := 0x8000000F007F3F0F

/-- A pre-empted task that is saved holds the context (R14). -/
def State.savedIn (s : State) (k : Fin 64) (c : Fin 4) : Bool :=
  s.preempts.any fun p => p.saved && p.kept.any fun m => m.2.1 == c && ((s.task m.1).map (·.core)) == some k

/-- FBIND_WRITE (R300): ignored while a task holds the context, and where it binds the own core. -/
def execFbindWrite (core : Fin 64) (ctx fo : Fin 4) (value : Dword) (s : State) : Host.Outcome State Fault Refusal :=
  if !s.hostServed then .next s else
  let own : Bool := BitVec.ofNat 7 (bits value 22 16) == s.rank && bits value 13 8 == core.val
  if (s.ctx core ctx).task.isSome || s.savedIn core ctx || own then .next s
  else
    .next { s with
      fbind := s.fbind.set core ((s.fbind.get core).set ctx (((s.fbind.get core).get ctx).set fo (value &&& fbindMask))) }

/-! ### Links (R295, R324, R325) -/

/-- The lowest setting that two ends have in common. -/
def commonSetting (a b : LinkSetting) : LinkSetting := ⟨min a.width b.width, min a.laneMap b.laneMap, min a.speed b.speed⟩

/-- LINK_TRAINING_END (R324): equal results bring the link up; otherwise both ends retrain at the lowest common setting,
and the third failure in a row marks the link down. -/
def execLinkTrainingEnd (link : Fin 10) (own far : LinkSetting) (s : State) : Host.Outcome State Fault Refusal :=
  .next (s.modLink link fun l =>
    if own = far then
      { l with
        up := true, failures := 0, setting := own, retraining := false
        freeSlots := Vector.ofFn fun c => ringBuffers link c }
    else if 2 ≤ l.failures then { l with up := false, failures := 3, retraining := false }
    else { l with failures := l.failures + 1, setting := commonSetting own far, retraining := true })

/-- LINK_FAILURE (R295): the link is down and retrains; traffic reverses around the gap. -/
def execLinkFailure (link : Fin 10) (s : State) : Host.Outcome State Fault Refusal :=
  .next (s.modLink link fun l => { l with up := false, failures := 0, retraining := true })

/-- FLIT_CRC_FAIL (R325): the flits from the corrupted one on are sent again from the replay buffer. -/
def execFlitCrcFail (link : Fin 10) (seq : Nat) (s : State) : Host.Outcome State Fault Refusal :=
  let again := (((s.links.get link).replay).filter fun f => seq ≤ f.1)
  .next (if again.isEmpty then s else s.emit (.replayed link again))

/-- Buffers of a link's channel that hold a flit: ring slots that wait on channel 0, and messages on channel 1. -/
def State.buffersHeld (s : State) (link ch : Nat) : Nat :=
  if ch = 0 then (s.buffered.filter fun x => s.linkFrom x.src == link).length
  else if ch = 1 then
    (s.circling.filter fun x => !x.2.1 && match x.2.2 with
      | .remoteMessageDelivery _ _ _ _ r _ _ _ => s.linkFrom r == link
      | _ => false).length
  else 0

/-- CREDIT_COUNT_SEND (R325): every 512 flits the free-slot counts of the 16 channels and the blaze lanes leave, with the
last accepted flit. -/
def execCreditCountSend (link : Fin 10) (s : State) : Host.Outcome State Fault Refusal :=
  let l := s.links.get link
  if l.accepted < l.counted + 512 then .next s
  else
    let free := l.freeSlots.toList.zipIdx.map fun p => p.1 - s.buffersHeld link p.2
    .next ((s.modLink link fun l => { l with counted := l.accepted }).emit (.creditCounts link l.accepted free))

/-- CREDIT_COUNT_RECEIVE (R325): the credit is the count less what has been sent on the channel after it; flits up to S
are known good. -/
def execCreditCountReceive (link : Fin 10) (channel : Fin 17) (free seq : Nat) (s : State) :
    Host.Outcome State Fault Refusal :=
  .next (s.modLink link fun l =>
    let after := (l.replay.filter fun f => seq < f.1 && f.2 == channel.val).length
    { l with credits := l.credits.set channel (free - after), replay := l.replay.filter fun f => seq < f.1 })

/-- SLOT_RETURN (R325): a credit comes back; a push held for it goes at its next landing cycle (R301). -/
def execSlotReturn (link : Fin 10) (channel : Fin 17) (s : State) : Host.Outcome State Fault Refusal :=
  .next (s.modLink link fun l => { l with credits := l.credits.set channel (l.credits.get channel + 1) })

/-- RINGST (R315). -/
def State.ringst (s : State) : Dword :=
  let links := (List.range 8).foldl (fun n i => n + bit (((s.links[2 + i]?).map (·.up)).getD false) * 2 ^ i) 0
  s.regs.lost ++ s.regs.rddup ++ BitVec.ofNat 8 links ++ 0#1 ++ s.rank

end Sys2Proof.Machine
end

