-- ==== Sys2Proof/Machine/Service.lean ====
section
/-! DEFINITION. The host's side: stages, doorbells and registers in BAR0, BAR2, machine checks, partitions, live service,
power, soft errors and attestation (R237, R238, R264, R270, R282, R315, R318-R332). -/

namespace Sys2Proof.Machine

open Sys2Proof.Config

/-! ### Stages (R321) -/

/-- DEVICE_RESET (R321): stage 0; the ROM verifies the stage-1 image. What production testing and later failures have
harvested stands. -/
def execDeviceReset (verified : Bool) (s : State) : Host.Outcome State Fault Refusal :=
  .next { State.reset with
    regs := { HostRegs.reset with vfail := !verified, hrv := s.regs.hrv }
    digests := State.reset.digests.set 0 (if verified then s.newGen else 0)
    outputs := s.outputs, agenda := s.agenda, draw := s.draw, nextId := s.nextId }

/-- STAGE1_REACHED (R321): the host links come up, at 32 GT/s. An image that the ROM has not verified yet, as at the first
start, is verified and measured first, or fails: VFAIL is set and the stage stays 0 (R331; log entry 6). -/
def execStage1Reached (s : State) : Host.Outcome State Fault Refusal :=
  let at32 (l : Link) : Link := { l with up := true, setting := { l.setting with speed := 32 } }
  let start (s : State) : State := (State.modLink { s with stage := 1 } 0 at32).modLink 1 at32
  if s.stage != 0 || s.regs.vfail then .next s
  else if s.digests.get 0 != 0 then .next (start s)
  else if s.coin 0 then .next (start { s with digests := s.digests.set 0 s.newGen })
  else .next (s.modRegs fun r => { r with vfail := true })

/-- STAGE2_REACHED (R321): rank and harvested routers are set, the ring links are up, the host links retrain once, to 128
GT/s, every firmware is verified and measured, and SCLK starts at 0. A host link goes on while its speed changes. -/
def execStage2Reached (rank : BitVec 7) (harvest : BitVec 16) (s : State) : Host.Outcome State Fault Refusal :=
  if s.stage = 1 then
    .next { s with
      stage := 2, rank := rank, sclk := 0
      regs := { s.regs with hrv := s.regs.hrv ||| harvest }
      links := Vector.ofFn fun i =>
        let l := s.links.get i
        if i.val < 2 then { l with up := true, retraining := true, setting := { l.setting with speed := 128 } }
        else { l with up := true, freeSlots := Vector.ofFn fun c => ringBuffers i c }
      digests := Vector.ofFn fun i => if i.val = 0 then s.digests.get i else s.newGen + i.val }
  else .next s

/-- DSTATUS (R323). -/
def State.dstatus (s : State) : Dword :=
  s.regs.hrv ++ 0#45 ++ BitVec.ofBool s.regs.vfail ++ BitVec.ofNat 2 s.stage

/-! ### Queues (R237, R238) -/

/-- DOORBELL (R238): refused past the ring's size, past half the index space, and before stage 2 (R322). -/
def execDoorbell (q : Fin 64) (value : Dword) (s : State) : Host.Outcome State Fault Refusal :=
  let r := s.queues.get q
  let new : Word := value.truncate 32
  if !s.hostServed then .next s
  else if s.stage < 2 || 2 ^ r.lsz < (new - r.head).toNat || 2 ^ 31 < (new - r.tail).toNat then
    .next (s.modQueue q fun r => { r with derr := true })
  else .next (s.modQueue q fun r => { r with tail := new })

/-- QUEUE_CONFIG_WRITE (R238): QCFG or QBASE; refused while the queue has records, and a QCFG with a wrong LSZ always. -/
def execQueueConfigWrite (q : Fin 64) (cfg : Bool) (value : Dword) (s : State) : Host.Outcome State Fault Refusal :=
  if !s.hostServed then .next s else
  let r := s.queues.get q
  let lsz := bits value 12 8
  if (r.en && r.head != r.tail) || (cfg && (lsz < 4 || 16 < lsz)) then
    .next (s.modQueue q fun r => { r with derr := true })
  else if cfg then
    .next (s.modQueue q fun r =>
      { r with
        en := value.getLsbD 63, irq := value.getLsbD 31, vec := bits value 26 16, lsz := lsz, part := bits value 6 4
        prio := bits value 2 0 })
  else .next (s.modQueue q fun r => { r with base := value &&& ~~~0xFFF })

/-! ### BAR2 (R319, R322) -/

/-- Where a device address leads for the host: to a key, or nowhere. -/
inductive HostPlace where
  | key (k : Nat)
  /-- the local range, or anything but HBM stack 0 before stage 2: reads all ones -/
  | ones
  /-- no memory that the manual names, or HBM stack 0 before stage 1: what is read is not stated -/
  | nothing
  deriving DecidableEq, Repr

def State.hostPlace (s : State) (a : Nat) : HostPlace :=
  if s.stage < 2 && stack0Bytes ≤ a then .ones
  else if s.stage = 0 then .nothing
  else if a < hbmBytes then .key a
  else if lbase ≤ a && a < lbase + landingRange then .key (landingKey (a - lbase) s.regs.h2key)
  else if locbase ≤ a && a < locbase + localBytes then .ones
  else if exposedWindow ≤ a && a - exposedWindow < s.regs.exposedBytes && s.regs.cmpEn then
    .key (exposedBase + (a - exposedWindow))
  else .nothing

/-- The device addresses of n bytes from a BAR2 offset. -/
def State.bar2Run (s : State) (off n : Nat) : List Nat := addrRun (s.regs.h2base.toNat + off) n

/-- HOST_BAR2_READ (R319). An access to the compressed space waits while it is initialised, and behind an older write of
its block (R283, R285). What a read of a block gives that meets an uncorrectable error is not stated: the error is counted,
and the bytes are free (R293; log entry 24). -/
def execHostBar2Read (off n : Nat) (s : State) : Host.Outcome State Fault Refusal :=
  let places := (s.bar2Run off n).map s.hostPlace
  let keys := places.filterMap fun p => match p with
    | .key k => some k
    | _ => none
  if !s.hostServed then .next s
  else if s.blockedOnSectors s.nextId keys then .next { s with late := s.late ++ [.hostBar2Read off n] }
  else
    let bad (k : Nat) : Bool := s.poisonMet (.read [k] .record)
    let t := if keys.any bad then s.countError else s
    .next (t.emit (.bar2Data ((places.zip (List.range n)).map fun p =>
      match p.1 with
      | .key k => if bad k then freeByte s.draw p.2 else s.byte k
      | .ones => 0xFF
      | .nothing => freeByte s.draw p.2)))

/-- HOST_BAR2_WRITE (R319). A write into a published launch record changes it (R238). -/
def execHostBar2Write (off : Nat) (data : List Byte) (s : State) : Host.Outcome State Fault Refusal :=
  let cells := ((s.bar2Run off data.length).zip data).filterMap fun p =>
    match s.hostPlace p.1 with
    | .key k => some (k, p.2)
    | _ => none
  if !s.hostServed then .next s
  else .next ((s.touchRecords (cells.map (·.1))).outsideWrite .host cells).settleSkidder

/-- UNSUPPORTED_REQUEST (R318): completes as Unsupported Request; nothing else changes. -/
def execUnsupportedRequest (_kind : PcieRequest) (s : State) : Host.Outcome State Fault Refusal :=
  .next (if s.hostServed then s.emit .unsupported else s)

/-! ### Machine checks (R261, R323) -/

/-- Of two contexts that stopped, the first to be described: the earlier cycle, then the lower core and context. -/
def stopsFirst (a b : Fin 64 × Fin 4 × Nat) : Bool :=
  a.2.2 < b.2.2 || (a.2.2 == b.2.2 && 4 * a.1.val + a.2.1.val ≤ 4 * b.1.val + b.2.1.val)

/-- A stop in its place among others. -/
def insertStop (x : Fin 64 × Fin 4 × Nat) : List (Fin 64 × Fin 4 × Nat) → List (Fin 64 × Fin 4 × Nat)
  | [] => [x]
  | y :: ys => if stopsFirst x y then x :: y :: ys else y :: insertStop x ys

/-- STOPPED contexts, first stopped first; of one cycle the lower core and context comes first. -/
def State.stoppedNow (s : State) : List (Fin 64 × Fin 4 × Nat) :=
  (s.machineChecks.filter fun m => (s.ctx m.1 m.2.1).state == .stopped).foldr insertStop []

/-- MCSTAT (R323). -/
def State.mcstat (s : State) : Dword :=
  match s.stoppedNow with
  | [] => 0
  | (k, c, _) :: _ =>
    let cx := s.ctx k c
    1#1 ++ 0#39 ++ cx.ncause ++ cx.tcause ++ BitVec.ofNat 6 k ++ BitVec.ofNat 2 c

/-- MCKILL (R323): the task of a STOPPED context is killed with cause 12; the check is raised again for the next. -/
def execMckill (value : Dword) (s : State) : Host.Outcome State Fault Refusal :=
  if !s.hostServed then .next s else
  let k : Fin 64 := Fin.ofNat 64 (bits value 7 2)
  let c : Fin 4 := Fin.ofNat 4 (bits value 1 0)
  if (s.ctx k c).state = .stopped then
    match (s.ctx k c).task with
    | none => .next s
    | some t =>
      let s := s.kill t (some Cause.nested.num)
      let s : State := { s with machineChecks := s.stoppedNow }
      .next (if s.machineChecks.isEmpty then s else s.emit .machineCheck)
  else .next s

/-! ### Partitions (R326, R327) -/

/-- Contexts of clusters that are reserved, or wait for a saved group. -/
def State.clusterHeld (s : State) (cl : Nat) : Bool :=
  ((coresOf cl).any fun k => allCtxs.any fun c => !(s.ctx k c).unreserved) ||
  s.preempts.any fun p => p.kept.any fun m => ((s.task m.1).map fun t => clusterOf t.core) == some cl

/-- What partitions share: ring channel pair 0. -/
def pcfgShared : Dword := 0xFFFE0000FFFFFFFF

/-- PCFG_WRITE (R326): ignored while a cluster concerned is held, and where it would give a resource twice. -/
def execPcfgWrite (part : Fin 8) (value : Dword) (s : State) : Host.Outcome State Fault Refusal :=
  if !s.hostServed then .next s else
  let old := s.regs.pcfg.get part
  let twice := (List.finRange 8).any fun p => p != part && (s.regs.pcfg.get p &&& value &&& pcfgShared) != 0
  let held := (List.range 8).any fun c => (old ||| value).getLsbD (56 + c) && s.clusterHeld c
  if twice || held then .next s
  else .next (s.modRegs fun r => { r with pcfg := r.pcfg.set part (value &&& 0xFFFF0000FFFFFFFF) })

/-- A launch of a reset partition: its tasks are killed, what waits of it is given up. Saved ones are no longer waited for,
and retire in their contexts' turn (R242). HEAD passes the record of a launch that has not started: the model's choice
(log entry 81). -/
def State.resetLaunch (s : State) (l : Nat) (la : Launch) : Except Stop State := do
  let s := s.modLaunch l fun la => { la with reset := true, nextGroup := la.groups }
  let s := if la.started then s else s.modQueue la.queue Queue.pass
  let s := s.foldCores fun s k => s.modCore k fun co => { co with inbox := co.inbox.filter (·.launch != l) }
  let s := (s.messages.filter fun m => m.launch == l && m.far.isNone).foldl State.dropMessage s
  let mine := (List.range s.tasks.length).filter fun t => ((s.task t).map (·.launch)) == some l
  let s := mine.foldl (fun s t => s.kill t none) s
  let saved := mine.filter fun t => ((s.task t).bind (·.frame)).isSome
  State.finishLaunch { s with preempts := s.preempts.filter fun p => !p.tasks.any saved.contains } l

/-- ROUTER_FAILURE (R327): every partition that has a cluster served by the router is reset. -/
def execRouterFailure (router : Fin 16) (clusters : BitVec 8) (s : State) : Host.Outcome State Fault Refusal :=
  let parts := (List.range 8).filter fun p => (s.clustersOf p).any clusters.getLsbD
  let hit := (List.range s.launches.length).filter fun l =>
    match s.launch l with
    | some la => !la.completed && parts.contains la.part
    | none => false
  let r := hit.foldlM (fun (s : State) l =>
    match s.launch l with
    | some la => s.resetLaunch l la
    | none => .ok s) s
  s.orFault (r.map fun t =>
    { t with
      clearing := t.clearing ++ (parts.flatMap t.clustersOf).filter (!t.clearing.contains ·)
      regs := { t.regs with hrv := t.regs.hrv ||| (1#16 <<< router.val) } })

/-- The stores of the cores of a cluster are cleared to zero (R327). -/
def State.clearCluster (s : State) (cl : Nat) : State :=
  let mem := (coresOf cl).foldl (fun (m : Memory) (k : Fin 64) =>
    (((m.clear (localKey k 0 / tileBytes) 512).clear (slotKey k 0 0 / tileBytes) 384).clear
      (accKey k 0 0 0 / tileBytes) 768).clear (expKey k 0 0 / tileBytes) 64) s.mem
  { s with mem := mem, clearing := s.clearing.filter (· != cl) }

/-- Clears the clusters whose contexts no task holds any longer. -/
def State.clearingDue (s : State) : State :=
  (s.clearing.filter fun cl => (coresOf cl).all fun k => allCtxs.all fun c => (s.ctx k c).task.isNone).foldl
    (fun s cl => s.clearCluster cl) s

/-! ### Live service (R328, R329) -/

/-- The cluster holds a reserved context. -/
def State.clusterReserved (s : State) (cl : Nat) : Bool :=
  (coresOf cl).any fun k => allCtxs.any fun c => !(s.ctx k c).unreserved

/-- Starts a service operation, or refuses it with RES = 1. -/
def State.startService (s : State) (op tgt : Nat) (allowed : Bool) (f : State → State) :
    Host.Outcome State Fault Refusal :=
  if s.regs.svcBusy || !allowed then .next (s.modRegs fun r => { r with svcRes := 1 })
  else .next (f (State.modRegs { s with service := some ⟨op, tgt⟩ } fun r => { r with svcBusy := true }))

/-- SVC_FIRMWARE_RELOAD (R328). -/
def execSvcFirmwareReload (tgt : BitVec 8) (s : State) : Host.Outcome State Fault Refusal :=
  if !s.hostServed then .next s else
  s.startService 1 tgt.toNat (tgt.toNat < 8 && !s.clusterReserved tgt.toNat) id

/-- SVC_HBM_RECALIBRATION (R328, R329): accesses to the channel only take longer. -/
def execSvcHbmRecalibration (tgt : BitVec 8) (s : State) : Host.Outcome State Fault Refusal :=
  if !s.hostServed then .next s else
  s.startService 2 tgt.toNat true id

/-- SVC_LINK_RETRAIN (R328): the link is down while it retrains. -/
def execSvcLinkRetrain (tgt : BitVec 8) (s : State) : Host.Outcome State Fault Refusal :=
  if !s.hostServed then .next s else
  let others := (List.range 8).all fun i => i == tgt.toNat || ((s.links[2 + i]?).map (·.up)).getD false
  s.startService 3 tgt.toNat (tgt.toNat < 8 && others) fun s =>
    s.modLink (2 + tgt.toNat) fun l => { l with up := false, retraining := true }

/-- SVC_OPERATION_END (R328): RES is set and the vector raised. A firmware that verifies is measured (R331); a link comes
up again. -/
def execSvcOperationEnd (ok : Bool) (s : State) : Host.Outcome State Fault Refusal :=
  match s.service with
  | none => .next s
  | some v =>
    let s : State := { s with service := none }
    let s := s.modRegs fun r => { r with svcBusy := false, svcRes := if ok then 0 else 2 }
    let s : State := if v.op = 1 && ok then { s with digests := s.digests.setIfInBounds (2 + v.tgt) s.newGen } else s
    let s := if v.op = 3 && ok then s.modLink (2 + v.tgt) fun l => { l with up := true, failures := 0, retraining := false }
      else s
    .next s.raiseVec

/-! ### Errors and power (R270, R330) -/

/-- SOFT_ERROR_CORRECTED (R270): counted, and without effect on any program. -/
def execSoftErrorCorrected (s : State) : Host.Outcome State Fault Refusal :=
  .next (s.modRegs fun r => { r with cecnt := if r.cecnt = BitVec.allOnes 64 then r.cecnt else r.cecnt + 1 })

/-- CLOCK_ADJUST (R330): above the limit the clock goes down by 100 MHz; otherwise the thermal guard may lower it, or it may
go up. -/
def execClockAdjust (watts : BitVec 12) (s : State) : Host.Outcome State Fault Refusal :=
  let mhz := s.regs.mhz
  let hot := s.regs.plim < watts.toNat || s.coin 1
  let new := if hot then max 700 (mhz - 100) else if s.coin 0 then min 1400 (mhz + 100) else mhz
  .next (s.modRegs fun r => { r with watts := watts.toNat, mhz := new })

/-! ### Attestation (R331, R332) -/

/-- The 64 bytes of a measured digest are free values under its number; all zero before there is one. -/
def digestBytes (n : Nat) : List Byte := (List.range 64).map fun i => if n = 0 then 0 else freeByte n i

/-- The first eight bytes of a report: version 1, then DSTATUS. Where the one ends, and how the other fills the rest, is not
stated (log entry 18). -/
def State.reportHead (s : State) : List Byte :=
  let n := versionWidth % 7 + 1
  leBytes n 1 ++ (List.range (8 - n)).map (statusByte s.dstatus)

/-- The report of R332. -/
def State.report (s : State) : List Byte :=
  s.reportHead ++ s.regs.attn.toList.flatMap (fun v => leBytes 8 v.toNat) ++
  s.digests.toList.flatMap digestBytes ++ s.regs.pcfg.toList.flatMap (fun v => leBytes 8 v.toNat) ++
  (List.range 64).map identityKey ++ (List.range 29792).map (signature s.draw)

/-- ATTESTATION_START: a write of 1 to ATTGO, ignored while a report is being made. -/
def execAttestationStart (s : State) : Host.Outcome State Fault Refusal :=
  if !s.hostServed then .next s else
  .next (s.modRegs fun r => { r with attBusy := true })

/-- ATTESTATION_DONE: the report is written to the device address in ATTBUF, as a write of the host to that address would
be, then ATTDONE is set. Blocks of it that wait for the compressed space keep waiting: the model's choice (log entry 18). -/
def execAttestationDone (s : State) : Host.Outcome State Fault Refusal :=
  if !s.regs.attBusy || s.waitingWrites.any (·.writer == .report) then .next s
  else
    let cells := ((addrRun s.regs.attbuf.toNat 30600).zip s.report).filterMap fun p =>
      match s.hostPlace p.1 with
      | .key k => some (k, p.2)
      | _ => none
    .next (s.outsideWrite .report cells).reportDone

/-! ### Registers without a behaviour of their own (R5) -/

/-- A write to a W1C field. -/
def w1c {n : Nat} (old v : BitVec n) : BitVec n := old &&& ~~~v

/-- BAR0 registers that a write only changes, by offset; none for every other offset. Writes to CXSIZE, CMETA and CPOOL
are ignored while EN is 1, and a GIB above 1,024 always (R282). -/
def HostRegs.write (r : HostRegs) (off : Nat) (v : Dword) : Option HostRegs :=
  let low (n : Nat) : Nat := v.toNat % 2 ^ n
  let small := bits v 10 0 ≤ 1024
  match off with
  | 0x100 => some { r with evbase := v &&& ~~~0x7FFF }
  | 0x200 => some { r with csave := v &&& ~~~0xFFFFFF }
  | 0x208 => some { r with spoolb := v &&& ~~~7 }
  | 0x210 => some { r with spooln := v.truncate 16 }
  | 0x240 => some { r with mnqb := v &&& ~~~0xFFFF }
  | 0x258 => some { r with mnqOvf := r.mnqOvf && !v.getLsbD 63, mnqDrop := w1c r.mnqDrop (v.truncate 32) }
  | 0x260 => some { r with mthr := v.truncate 32 }
  | 0x270 => some { r with wupd := low 64 / 4096 * 4096 }
  | 0x308 => if r.cmpEn || !small then none else some { r with cxsize := bits v 10 0 }
  | 0x310 => if r.cmpEn then none else some { r with cmeta := v &&& ~~~0xFFFF }
  | 0x318 => if r.cmpEn || !small then none else some { r with cpool := v &&& 0xFFFFFFFFC00007FF }
  | 0x328 => some { r with cresv := low 40 }
  | 0x330 => some { r with clow := low 40 }
  | 0x338 => some { r with skbnd := v.truncate 32 }
  | 0x340 => some { r with
      skResv := r.skResv && !v.getLsbD 62, hdrop := w1c r.hdrop (v.extractLsb' 32 16), oosn := w1c r.oosn (v.truncate 32) }
  | 0x358 => some { r with splb := v &&& ~~~7 }
  | 0x360 => some { r with spln := v.truncate 16 }
  | 0x368 => some { r with evqb := v &&& ~~~0xFFFF }
  | 0x370 => some { r with evqh := low 12 }
  | 0x380 => some { r with fnqb := v &&& ~~~0xFFFF }
  | 0x388 => some { r with fnqh := low 12 }
  | 0x400 => some { r with bwin := v.truncate 32 }
  | 0x500 => some { r with rddup := w1c r.rddup (v.extractLsb' 16 16) }
  | 0x600 => some { r with hclval := v }
  | 0x610 => some { r with hclsel := v &&& 0x3F }
  | 0x620 => some { r with hclerr := (w1c (BitVec.ofNat 2 r.hclerr) (v.truncate 2)).toNat }
  | 0x740 => some { r with cecnt := w1c r.cecnt v }
  | 0x748 => some { r with uecnt := w1c r.uecnt v }
  | 0x900 => if 1200 ≤ low 12 && low 12 ≤ 2600 then some { r with plim := low 12 } else none
  | 0xA00 => some { r with attn := r.attn.set 0 v }
  | 0xA08 => some { r with attn := r.attn.set 1 v }
  | 0xA10 => some { r with attn := r.attn.set 2 v }
  | 0xA18 => some { r with attn := r.attn.set 3 v }
  | 0xA20 => some { r with attbuf := v &&& ~~~0x7FFF }
  | 0xA30 => some { r with attDone := r.attDone && !v.getLsbD 0 }
  | 0xB00 => some { r with h2base := v &&& ~~~0xFFFF, h2key := v.truncate 16 }
  | _ => none

/-- A write of a dword of RDWIN w. Words of a window that becomes enabled expect round 0 (R304). -/
def State.writeRdwin (s : State) (w : Nat) (second : Bool) (v : Dword) : State :=
  let old := s.rdWindow w
  let new : RedWindow := if second then { old with dword1 := v &&& 0x80000F07007FFFFF } else { old with dword0 := v &&& ~~~0xFFF }
  let s := s.modRegs fun r => { r with rdwin := r.rdwin.setIfInBounds w new }
  if second && new.dword1.getLsbD 63 && !old.dword1.getLsbD 63 then
    { s with expected := s.expected.filter (·.1.1 != w), rounds := s.rounds.filter (·.win != w) }
  else s

/-- A write of BGRPn; members that the device shares no group with so far are heard from now on (R313). -/
def State.writeGroup (s : State) (n : Nat) (v : Dword) : State :=
  let old := s.partners
  let s := s.modRegs fun r => { r with bgrp := r.bgrp.setIfInBounds n (v &&& 0x8000000000FF7F7F) }
  (s.partners.filter (!old.contains ·)).foldl (fun s r =>
    { s with heard := (r, s.ringTime) :: s.heard.filter (·.1 != r) }) s

/-- A write of SVCCTL (R328). -/
def State.writeSvcctl (s : State) (v : Dword) : Host.Outcome State Fault Refusal :=
  let tgt : BitVec 8 := v.extractLsb' 0 8
  if s.regs.svcBusy then .next (s.modRegs fun r => { r with svcRes := 1 })
  else if !v.getLsbD 63 then .next s
  else
    match bits v 11 8 with
    | 1 => execSvcFirmwareReload tgt s
    | 2 => execSvcHbmRecalibration tgt s
    | 3 => execSvcLinkRetrain tgt s
    | _ => .next (s.modRegs fun r => { r with svcRes := 1 })

/-- A write of DSTOP (R264, R269): GO = 1 starts a stop and GO = 0 cancels it; then SAVE saves what is held. A write with
SAVE = 1 that leaves GO at 1 starts none anew (log entry 49). -/
def State.writeDstop (s : State) (v : Dword) : Host.Outcome State Fault Refusal :=
  let go := v.getLsbD 63
  let save := v.getLsbD 62
  let s := s.modRegs fun r => { r with dstopPmax := v.truncate 3 }
  let first : Host.Outcome State Fault Refusal :=
    if !go then execDstopCancel s
    else if save && s.regs.dstopGo then .next s
    else execDstopGo (v.truncate 3) s
  match first with
  | .next t => if save then execDstopSave t else .next t
  | o => o

/-- Registers of one queue at an offset in its block (R237). -/
def State.writeQueueRegister (s : State) (q : Fin 64) (off : Nat) (v : Dword) : Host.Outcome State Fault Refusal :=
  match off with
  | 0x00 => execQueueConfigWrite q false v s
  | 0x08 => execQueueConfigWrite q true v s
  | 0x10 => execDoorbell q v s
  | 0x20 => .next (s.modQueue q fun r => { r with derr := r.derr && !v.getLsbD 0 })
  | _ => .next s

/-- Registers whose write does more than store a value. -/
def State.writeActing (s : State) (off : Nat) (v : Dword) : Option (Host.Outcome State Fault Refusal) :=
  match off with
  | 0x220 => some (s.writeDstop v)
  | 0x228 => some (execDtargetWrite v s)
  | 0x248 => some (execMnqhWrite v s)
  | 0x278 => some (execWselWrite v s)
  | 0x300 => some (execCmpctlEnable v s)
  | 0x350 => some (execCdisc v s)
  | 0x398 => some (execFnfail v s)
  | 0x508 => some (execRdclose v s)
  | 0x608 => some (if v.getLsbD 62 then execHostObjection v s else execHostClaim v s)
  | 0x708 => some (execMckill v s)
  | 0x800 => some (s.writeSvcctl v)
  | 0xA28 => some (if v.getLsbD 0 then execAttestationStart s else .next s)
  | _ => none

/-- Registers of which there are several, by number. -/
def State.writeIndexed (s : State) (off : Nat) (v : Dword) : Option (Host.Outcome State Fault Refusal) :=
  if off % 8 != 0 then none
  else if 0x408 ≤ off && off < 0x448 then
    some (.next (if s.claims.any (·.opened.isSome) then s else s.writeGroup ((off - 0x408) / 8) v))
  else if 0x480 ≤ off && off < 0x500 then some (.next (s.writeRdwin ((off - 0x480) / 16) (off % 16 = 8) v))
  else if 0x520 ≤ off && off < 0x560 then
    some (.next (s.modRegs fun r =>
      let i := (off - 0x520) / 16
      let p := (r.pexp[i]?).getD (0, 0)
      let v := v &&& ~~~0xFFF
      { r with pexp := r.pexp.setIfInBounds i (if off % 16 = 0 then (v, p.2) else (p.1, v)) }))
  else if 0x880 ≤ off && off < 0x8C0 then some (execPcfgWrite (Fin.ofNat 8 ((off - 0x880) / 8)) v s)
  else if 0x10000 ≤ off && off < 0x11000 then
    some (s.writeQueueRegister (Fin.ofNat 64 ((off - 0x10000) / 0x40)) (off % 0x40) v)
  else if 0x11000 ≤ off && off < 0x13000 then
    let n := (off - 0x11000) / 8
    some (execFbindWrite (Fin.ofNat 64 (n / 16)) (Fin.ofNat 4 (n / 4)) (Fin.ofNat 4 n) v s)
  else none

/-- REGISTER_WRITE (R5): a write of a dword of BAR0. Offsets without a register ignore it (R319), and so do read-only
fields. -/
def execRegisterWrite (off : Nat) (value : Dword) (s : State) : Host.Outcome State Fault Refusal :=
  if !s.hostServed then .next s
  else
    match (s.writeIndexed off value).or (s.writeActing off value) with
    | some o => o
    | none =>
      match s.regs.write off value with
      | some r => .next (State.settleSkidder { s with regs := r })
      | none => .next s

/-! ### Reading registers (R5) -/

/-- BAR0 registers that hold a value, by offset. Write-only ones read zero, W1C ones their field. -/
def HostRegs.read (r : HostRegs) (off : Nat) : Option Dword :=
  let n (x : Nat) : Option Dword := some (BitVec.ofNat 64 x)
  match off with
  | 0x100 => some r.evbase
  | 0x200 => some r.csave
  | 0x208 => some r.spoolb
  | 0x210 => some (r.spooln.zeroExtend 64)
  | 0x220 => some (BitVec.ofBool r.dstopGo ++ 0#60 ++ r.dstopPmax)
  | 0x228 => some r.dtarget
  | 0x240 => some r.mnqb
  | 0x248 => n r.mnqh
  | 0x250 => n r.mnqt
  | 0x258 => some (BitVec.ofBool r.mnqOvf ++ 0#31 ++ r.mnqDrop)
  | 0x300 => some (BitVec.ofBool r.cmpEn ++ BitVec.ofBool r.cmpBusy ++ 0#35 ++ BitVec.ofNat 11 r.cmpVec ++ 0#16)
  | 0x308 => n r.cxsize
  | 0x310 => some r.cmeta
  | 0x318 => some r.cpool
  | 0x320 => n r.cfree
  | 0x328 => n r.cresv
  | 0x330 => n r.clow
  | 0x338 => some (r.skbnd.zeroExtend 64)
  | 0x340 => some (BitVec.ofBool r.skActive ++ BitVec.ofBool r.skResv ++ 0#14 ++ r.hdrop ++ r.oosn)
  | 0x348 => some (BitVec.ofBool r.balPend ++ 0#23 ++ BitVec.ofNat 40 r.balSect)
  | 0x358 => some r.splb
  | 0x360 => some (r.spln.zeroExtend 64)
  | 0x368 => some r.evqb
  | 0x370 => n r.evqh
  | 0x378 => n r.evqt
  | 0x380 => some r.fnqb
  | 0x388 => n r.fnqh
  | 0x390 => n r.fnqt
  | 0x600 => some r.hclval
  | 0x610 => some r.hclsel
  | 0x620 => n r.hclerr
  | 0x740 => some r.cecnt
  | 0x748 => some r.uecnt
  | 0x808 => some (BitVec.ofBool r.svcBusy ++ 0#61 ++ BitVec.ofNat 2 r.svcRes)
  | 0x900 => n r.plim
  | 0x908 => some (BitVec.ofNat 12 r.mhz ++ 0#40 ++ BitVec.ofNat 12 r.watts)
  | 0xA00 => some (r.attn.get 0)
  | 0xA08 => some (r.attn.get 1)
  | 0xA10 => some (r.attn.get 2)
  | 0xA18 => some (r.attn.get 3)
  | 0xA20 => some r.attbuf
  | 0xA30 => some (BitVec.ofBool r.attDone |>.zeroExtend 64)
  | 0xB00 => some (r.h2base ||| r.h2key.zeroExtend 64)
  | _ => none

/-- A register of a queue (R237). -/
def Queue.register (q : Queue) (off : Nat) : Dword :=
  match off with
  | 0x00 => q.base
  | 0x08 => BitVec.ofBool q.en ++ 0#31 ++ BitVec.ofBool q.irq ++ 0#4 ++ BitVec.ofNat 11 q.vec ++ 0#3 ++ BitVec.ofNat 5 q.lsz ++
      0#1 ++ BitVec.ofNat 3 q.part ++ 0#1 ++ BitVec.ofNat 3 q.prio
  | 0x10 => q.tail.zeroExtend 64
  | 0x18 => q.head.zeroExtend 64
  | 0x20 => (BitVec.ofBool q.derr).zeroExtend 64
  | _ => 0

/-- HCLOUT (R315): the word of a claim slot that HCLSEL selects, as BLZRD reads it; the reserved selection reads zero. -/
def State.hclout (s : State) : Dword :=
  if bits s.regs.hclsel 5 4 = 3 then 0 else (s.claimSlot (bits s.regs.hclsel 3 0)).word (bits s.regs.hclsel 5 4)

/-- What a read of a dword of BAR0 gives (R5): reserved fields, write-only fields and offsets without a register read
zero. -/
def State.bar0 (s : State) (off : Nat) : Dword :=
  if off % 8 != 0 then 0
  else if off = 0x000 then s.dstatus
  else if off = 0x230 then s.dstat
  else if off = 0x500 then s.ringst
  else if off = 0x618 then s.hclout
  else if off = 0x700 then s.mcstat
  else if 0x480 ≤ off && off < 0x500 then
    let w := s.rdWindow ((off - 0x480) / 16)
    if off % 16 = 8 then w.dword1 else w.dword0
  else if 0x520 ≤ off && off < 0x560 then
    let p := (s.regs.pexp[(off - 0x520) / 16]?).getD (0, 0)
    if off % 16 = 8 then p.2 else p.1
  else if 0x880 ≤ off && off < 0x8C0 then (s.regs.pcfg[(off - 0x880) / 8]?).getD 0
  else if 0x10000 ≤ off && off < 0x11000 then (s.queue ((off - 0x10000) / 0x40)).register (off % 0x40)
  else if 0x11000 ≤ off && off < 0x13000 then
    let n := (off - 0x11000) / 8
    s.binding (Fin.ofNat 64 (n / 16)) (Fin.ofNat 4 (n / 4)) (n % 4)
  else (s.regs.read off).getD 0

end Sys2Proof.Machine
end

