-- ==== Sys2Proof/Machine/Pick.lean ====
section
/-! DEFINITION. The merge stage: which contexts are eligible, what holds a bundle before it issues, the choice of the
primary and the secondary, and the cuts at which a context stops (R54, R60, R61, R99, R100, R121, R248, R249, R269). -/

namespace Sys2Proof.Machine

open Sys2Proof.Config

/-! ### What a form needs before it issues (R54, R60) -/

/-- The scalar sources of a form that may name fi0-fi3. -/
def popSources (i : Instr) : List (BitVec 6) :=
  match i with
  | .tbinit _ b | .tbwait _ b _ | .skdef _ b => [b]
  | .syswr a _ => [a]
  | .add _ _ b c | .sub _ _ b c | .mul _ _ b c | .mulh _ _ b c | .mulhu _ _ b c | .div _ _ b c | .divu _ _ b c
  | .rem _ _ b c | .remu _ _ b c | .and _ _ b c | .or _ _ b c | .xor _ _ b c | .shl _ _ b c | .shr _ _ b c
  | .sar _ _ b c | .min _ _ b c | .max _ _ b c | .minu _ _ b c | .maxu _ _ b c | .fshl _ _ b c | .fshr _ _ b c
  | .sel _ _ b c | .cmp _ _ b c _ | .xsexp _ b c _ | .vinss _ _ b c => [b, c]
  | .shli _ _ b _ | .shri _ _ b _ | .sari _ _ b _ | .clz _ _ b | .ctz _ _ b | .popc _ _ b | .mov _ _ b
  | .cmpi _ _ b _ _ | .qfroms _ _ b _ => [b]
  | .stb a _ _ | .sth a _ _ | .stw a _ _ | .std a _ _ => [a]
  | .vslide _ _ _ c _ | .vexts _ _ _ c _ | .oload _ _ c | .skrdl _ _ c | .skrdr _ _ c | .skwrl _ _ c
  | .skwrr _ _ c => [c]
  | .sksil a _ w _ => if w = 1 then [a] else []
  | .skclr _ b f => if f = 0 then [b] else []
  | _ => []

/-- The consumer heads that a form reads. -/
def headSources (i : Instr) : List Nat :=
  let h (f : BitVec 6) : List Nat := if f.toNat < 32 then [] else [f.toNat - 32]
  match i with
  | .stv a _ _ => h a
  | .vmov _ _ b _ => h b
  | .txpose _ b _ | .tunpack _ b _ _ | .tpack _ b _ _ | .texpand _ b _ _ | .tctld _ b | .tcvt _ b _ _ _ _ => h b
  | _ => []

/-- The producer head that a form writes. -/
def headDest (i : Instr) : List Nat :=
  match i with
  | .vmov _ a _ _ => if a.toNat < 32 then [] else [a.toNat - 32]
  | _ => []

/-- A slot is FILLING, for whichever task: the bundle holds until the fill ends, and traps after it where the slot is not
its task's (R60, R100). -/
def State.slotFills (s : State) (n : Nat) : Bool := (s.slot n).state == .filling

/-- A condition of a form that holds its bundle before it issues. A ring that the form may not use holds nothing: the form
traps. -/
def State.formWaits (s : State) (i : Instr) : Bool :=
  (headSources i).any (fun h => s.holdsRing h && !(s.ring h).role && (s.ring h).filled == 0) ||
  (headDest i).any (fun h => s.holdsRing h && (s.ring h).role && (s.ring h).free == 0) ||
  match i with
  | .waitb k n => !s.me.waitMet k n
  | .cbwt a n =>
    s.holdsRing a.toNat && n != 0 && n.toNat ≤ (s.ring a.toNat).len && (s.ring a.toNat).ready < n.toNat
  | .xpush a _ | .xshft a _ | .orels a => s.slotFills a.toNat
  | .oload _ b _ => s.slotFills b.toNat
  | .skfoldo _ _ _ r l => s.slotFills l.toNat || s.slotFills r.toNat
  | .oclaim _ a _ => (s.slot a.toNat).state == .filling && some (s.slot a.toNat).holder != s.me.task
  | _ => false

/-- An input FIFO holds fewer entries than the forms of a bundle pop. -/
def State.popsWait (s : State) (is : List Instr) : Bool :=
  (List.finRange 4).any fun f =>
    (s.me.fi.get f).length < (is.flatMap popSources).countP fun r => r.toNat == 32 + f.val

/-- The state with a context in the place of the issuing one. -/
def State.seenBy (s : State) (k : Fin 64) (c : Fin 4) : State := { s with cur := { s.cur with core := k, ctx := c } }

/-- The slots of a bundle that a context issues: on re-entry those of class RESUME or above (R259). -/
def Context.toIssue (cx : Context) (b : RepBuf) : List (Nat × Word) :=
  (List.finRange 8).filterMap fun u =>
    if cx.reentry && u.val < cx.resume.toNat then none else (b.get u).map fun w => (u.val, w)

/-- QOVER stands before the bundle (R121). -/
def Context.overQuota (cx : Context) : Bool := !cx.tm && cx.qbound != 0 && cx.qbound.toNat ≤ cx.qcount.toNat

/-- The bundle that a context would issue; none where a trap stands before its slots (R334). -/
def State.standing (s : State) (k : Fin 64) (c : Fin 4) : Option Bundle :=
  let cx := s.ctx k c
  if cx.nextLatched.isSome || cx.overQuota then none
  else
    match s.bundleAt k c with
    | .ok b => some b
    | .error _ => none

/-- The forms a context would issue. -/
def State.forms (s : State) (k : Fin 64) (c : Fin 4) : List Instr :=
  match s.standing k c with
  | some b => ((s.ctx k c).toIssue b.slots).filterMap fun p => decode p.2
  | none => []

/-- A condition holds the bundle of a context before it issues (R60). -/
def State.bundleWaits (s : State) (k : Fin 64) (c : Fin 4) : Bool :=
  let t := s.seenBy k c
  let is := s.forms k c
  t.popsWait is || is.any t.formWaits

/-- The slot mask with which a context's bundle merges. A bundle that traps before its slots has none: of a primary R249 says
so, of a secondary it is the model's choice (log entry 93). -/
def State.maskOf (s : State) (k : Fin 64) (c : Fin 4) : Nat :=
  match s.standing k c with
  | some b => b.slots.mask
  | none => 0

/-! ### Eligibility -/

/-- A context may issue in this cycle, once what the trap sequencer began for it is done (R249, R257), and once its bundle can
be fetched. -/
def State.eligible (s : State) (k : Fin 64) (c : Fin 4) : Bool :=
  let cx := s.ctx k c
  cx.state == .ready && cx.bubble == 0 && !cx.ending && !cx.stopped && cx.heldCut.isNone &&
    s.allPerformed cx.blockedOn &&
    !((s.regs.cmpBusy || !s.waitingWrites.isEmpty) && s.fetchHeld k c 8 cx.pc.toNat)

def State.eligibles (s : State) (k : Fin 64) : List (Fin 4) := allCtxs.filter (s.eligible k)

/-- The operand slot of another task that an OCLAIM of the bundle waits for (R100). -/
def State.claimWait (s : State) (k : Fin 64) (c : Fin 4) : Option Nat :=
  (s.forms k c).findSome? fun i =>
    match i with
    | .oclaim _ a _ => if (s.seenBy k c).slotTaken a.toNat then some a.toNat else none
    | _ => none

/-- The cut number of the quiet bundle that a context would issue. -/
def State.cutNumber (s : State) (k : Fin 64) (c : Fin 4) : Option Nat :=
  (s.forms k c).findSome? fun i =>
    match i with
    | .quiet b _ => some ((s.seenBy k c).sreg 0 b.toNat).toNat
    | _ => none

/-- A request to stop stands against the task of a context (R247). -/
def State.requested (s : State) (k : Fin 64) (c : Fin 4) : Bool :=
  match (s.ctx k c).task with
  | some t => s.preempts.any fun p => !p.saved && (s.membersOf p).any (·.1 == t)
  | none => false

/-- A context stops before the quiet bundle that offers a cut: for pre-emption, or for a device-wide stop that its
number has reached (R248, R269). -/
def State.stopAtCut (s : State) (k : Fin 64) (c : Fin 4) : State :=
  let wanted : Bool := s.requested k c || (s.regs.dstopGo && s.inScope k c)
  if !wanted || (s.ctx k c).tm || !s.offersCut k c || s.bundleWaits k c then s
  else
    match s.cutNumber k c with
    | none => s
    | some n =>
      if s.requested k c then s.modCtx k c fun cx => { cx with stopped := true }
      else if s.regs.dtarget.toNat ≤ n then s.modCtx k c fun cx => { cx with heldCut := some n }
      else s

/-- Contexts that wait for an operand slot or stop at a cut instead of issuing. -/
def State.withdrawn (s : State) (k : Fin 64) : State :=
  (s.eligibles k).foldl (fun s c =>
    match s.claimWait k c with
    | some n => s.modCtx k c fun cx => { cx with state := .waiting, wait := some (.oclaim n) }
    | none => s.stopAtCut k c) s

/-! ### The choice (R249) -/

/-- The first of a list with the greatest measure. -/
def bestCtx (f : Fin 4 → Nat) (l : List (Fin 4)) : Option (Fin 4) :=
  l.foldl (fun b c =>
    match b with
    | none => some c
    | some d => some (if f d < f c then c else d)) none

/-- Eligible contexts at the aging bound. -/
def State.aged (s : State) (k : Fin 64) : List (Fin 4) := (s.eligibles k).filter fun c => agingBound ≤ (s.ctx k c).waitCount

/-- The eligible context of highest launch priority. -/
def State.byPriority (s : State) (k : Fin 64) : Option (Fin 4) :=
  bestCtx (fun c => (s.prioOf k c).getD 0) (s.eligibles k)

/-- The secondary that merges with a primary: the eligible context with the largest wait count, where the masks do not
meet (R61). -/
def State.secondary (s : State) (k : Fin 64) (p : Fin 4) : Option (Fin 4) :=
  match bestCtx (fun c => (s.ctx k c).waitCount) ((s.eligibles k).filter (· != p)) with
  | some c => if s.maskOf k p &&& s.maskOf k c = 0 then some c else none
  | none => none

/-! ### The hold line (R60, R89, R284) -/

/-- A memory write of the core waits for the Skidder. -/
def State.writesWait (s : State) (k : Fin 64) : Bool :=
  allCtxs.any fun c => (s.ctx k c).async.any fun a => a.waiting.isSome && !a.suspended

/-- The hold line of a core, for a primary and a merged secondary. -/
def State.holdLine (s : State) (k : Fin 64) (p second : Option (Fin 4)) : Bool :=
  0 < (s.core k).holdLeft || s.pushWaits k || s.writesWait k || p.any (s.bundleWaits k) || second.any (s.bundleWaits k)

/-- The next core picks; after the last one the writes of the cycle are made. -/
def afterPick (k : Fin 64) : Phase := if h : k.val + 1 < 64 then .pick ⟨k.val + 1, h⟩ else .store 0

/-- A core's turn with a primary: it holds, or the primary and the secondary issue. -/
def State.turnWith (s : State) (k : Fin 64) (p : Option (Fin 4)) : State :=
  let second := p.bind (s.secondary k)
  if s.holdLine k p second then
    State.modCore { s with phase := afterPick k } k fun co =>
      { co with held := true, holdLeft := co.holdLeft - 1, holdcy := co.holdcy + 1 }
  else
    let s := s.modCore k fun co => { co with held := false }
    match p with
    | none => { s with phase := afterPick k }
    | some c => { s with phase := .issue k c second }

/-- AGING_PROMOTION (R249): a core whose turn it is has an eligible context at the aging bound, and the one with the
largest wait count is the primary. -/
def execAgingPromotion (core : Fin 64) (s : State) : Host.Outcome State Fault Refusal :=
  if s.phase != .pick core then .next s
  else
    match bestCtx (fun c => (s.ctx core c).waitCount) (s.aged core) with
    | some c => .next (s.turnWith core (some c))
    | none => .next s

/-- QOVER (R121): a bundle that would issue with COUNT at or above BOUND traps before any of its slots commits, where no
latched fault and no fault of its fetch or decode stands before it (R334). -/
def execQover (core : Fin 64) (ctx : Fin 4) (s : State) : Host.Outcome State Fault Refusal :=
  let cx := s.ctx core ctx
  match cx.nextLatched, s.bundleAt core ctx with
  | none, .ok _ =>
    if cx.overQuota then outcome (s.bundleTrap core ctx .qover (cx.qcount.zeroExtend 64)) else .next s
  | _, _ => .next s

end Sys2Proof.Machine
end

