-- ==== Sys2Proof/Machine/Scalar.lean ====
section
/-! DEFINITION. The scalar and predicate forms (R108-R113): sources read at issue, B before C before A, results landed
at the latency of R109. -/

namespace Sys2Proof.Machine

/-! ### The arithmetic of R109-R111 -/

/-- Bits [127:64] of the signed product. -/
def mulHigh (a b : Dword) : Dword := BitVec.ofInt 64 (a.toInt * b.toInt / 2 ^ 64)
/-- Bits [127:64] of the unsigned product. -/
def mulHighU (a b : Dword) : Dword := BitVec.ofNat 64 (a.toNat * b.toNat / 2 ^ 64)
/-- R111: a division by 0 gives all ones in all four forms; -2^63 / -1 wraps. -/
def divS (a b : Dword) : Dword := if b = 0 then BitVec.allOnes 64 else BitVec.ofInt 64 (a.toInt.tdiv b.toInt)
def divU (a b : Dword) : Dword := if b = 0 then BitVec.allOnes 64 else BitVec.ofNat 64 (a.toNat / b.toNat)
def remS (a b : Dword) : Dword := if b = 0 then BitVec.allOnes 64 else BitVec.ofInt 64 (a.toInt.tmod b.toInt)
def remU (a b : Dword) : Dword := if b = 0 then BitVec.allOnes 64 else BitVec.ofNat 64 (a.toNat % b.toNat)
/-- R110: a shift by 64 or more gives 0, or the sign. -/
def shiftL (a n : Dword) : Dword := if n.toNat < 64 then a <<< n.toNat else 0
def shiftR (a n : Dword) : Dword := if n.toNat < 64 then a >>> n.toNat else 0
def shiftA (a n : Dword) : Dword := a.sshiftRight (min n.toNat 63)
/-- R110: bits [127:64] of (d:a) << n and bits [63:0] of (d:a) >> n, for n = b mod 64. -/
def funnelL (d a b : Dword) : Dword := (((d ++ a) <<< (b.toNat % 64)).extractLsb' 64 64)
def funnelR (d a b : Dword) : Dword := (((d ++ a) >>> (b.toNat % 64)).extractLsb' 0 64)
/-- The number of leading zeros among the n low bits. -/
def leadingZeros (n x : Nat) : Nat := if x = 0 then n else n - 1 - x.log2
/-- The number of trailing zeros among the n low bits, counted from bit i on. -/
def trailingFrom (x : Nat) : Nat → Nat → Nat
  | 0, _ => 0
  | n + 1, i => if x.testBit i then 0 else 1 + trailingFrom x n (i + 1)
def countLeading (a : Dword) : Dword := BitVec.ofNat 64 (leadingZeros 64 a.toNat)
def countTrailing (a : Dword) : Dword := BitVec.ofNat 64 (trailingFrom a.toNat 64 0)
def countOnes (a : Dword) : Dword := BitVec.ofNat 64 (popCount 64 a.toNat)

/-! ### Shapes of a form -/

/-- d := f(b, c). -/
def State.alu2 (s : State) (a b c : BitVec 6) (latency : Nat) (f : Dword → Dword → Dword) :
    Host.Outcome State Fault Refusal :=
  let (x, s1) := s.readS 0 b
  let (y, s2) := s1.readS 1 c
  s.settle (s2.writeS a (f x y) latency)

/-- d := f(b). -/
def State.alu1 (s : State) (a b : BitVec 6) (f : Dword → Dword) : Host.Outcome State Fault Refusal :=
  let (x, s1) := s.readS 0 b
  s.settle (s1.writeS a (f x) 1)

/-- d := f(d). -/
def State.aluD (s : State) (a : BitVec 6) (f : Dword → Dword) : Host.Outcome State Fault Refusal :=
  s.settle (s.writeS a (f (s.sreg 2 a.toNat)) 1)

/-- d := f(d, b, c). -/
def State.alu3 (s : State) (a b c : BitVec 6) (f : Dword → Dword → Dword → Dword) :
    Host.Outcome State Fault Refusal :=
  let (x, s1) := s.readS 0 b
  let (y, s2) := s1.readS 1 c
  s.settle (s2.writeS a (f (s2.sreg 2 a.toNat) x y) 1)

/-- A predicate form. -/
def State.predOp (s : State) (a : BitVec 6) (v : Dword) : Host.Outcome State Fault Refusal :=
  s.settle (.ok (s.writeQ a v 1))

/-! ### The forms; u says the unit that runs it, to the same effect (R51) -/

/-- ADD (R109). -/
def execAdd (_u : ScalarUnit) (a b c : BitVec 6) (s : State) : Host.Outcome State Fault Refusal :=
  s.alu2 a b c 1 (· + ·)

/-- SUB (R109). -/
def execSub (_u : ScalarUnit) (a b c : BitVec 6) (s : State) : Host.Outcome State Fault Refusal :=
  s.alu2 a b c 1 (· - ·)

/-- ADDI (R109). -/
def execAddi (_u : ScalarUnit) (a : BitVec 6) (i : BitVec 16) (s : State) : Host.Outcome State Fault Refusal :=
  s.aluD a (· + i.signExtend 64)

/-- MUL (R109). -/
def execMul (_u : ScalarUnit) (a b c : BitVec 6) (s : State) : Host.Outcome State Fault Refusal :=
  s.alu2 a b c 3 (· * ·)

/-- MULH (R109). -/
def execMulh (_u : ScalarUnit) (a b c : BitVec 6) (s : State) : Host.Outcome State Fault Refusal :=
  s.alu2 a b c 3 mulHigh

/-- MULHU (R109). -/
def execMulhu (_u : ScalarUnit) (a b c : BitVec 6) (s : State) : Host.Outcome State Fault Refusal :=
  s.alu2 a b c 3 mulHighU

/-- DIV (R111). -/
def execDiv (_u : ScalarUnit) (a b c : BitVec 6) (s : State) : Host.Outcome State Fault Refusal :=
  s.alu2 a b c 18 divS

/-- DIVU (R111). -/
def execDivu (_u : ScalarUnit) (a b c : BitVec 6) (s : State) : Host.Outcome State Fault Refusal :=
  s.alu2 a b c 18 divU

/-- REM (R111). -/
def execRem (_u : ScalarUnit) (a b c : BitVec 6) (s : State) : Host.Outcome State Fault Refusal :=
  s.alu2 a b c 18 remS

/-- REMU (R111). -/
def execRemu (_u : ScalarUnit) (a b c : BitVec 6) (s : State) : Host.Outcome State Fault Refusal :=
  s.alu2 a b c 18 remU

/-- AND (R109). -/
def execAnd (_u : ScalarUnit) (a b c : BitVec 6) (s : State) : Host.Outcome State Fault Refusal :=
  s.alu2 a b c 1 (· &&& ·)

/-- OR (R109). -/
def execOr (_u : ScalarUnit) (a b c : BitVec 6) (s : State) : Host.Outcome State Fault Refusal :=
  s.alu2 a b c 1 (· ||| ·)

/-- XOR (R109). -/
def execXor (_u : ScalarUnit) (a b c : BitVec 6) (s : State) : Host.Outcome State Fault Refusal :=
  s.alu2 a b c 1 (· ^^^ ·)

/-- ANDI (R109): the immediate is sign-extended. -/
def execAndi (_u : ScalarUnit) (a : BitVec 6) (i : BitVec 16) (s : State) : Host.Outcome State Fault Refusal :=
  s.aluD a (· &&& i.signExtend 64)

/-- ORI (R109): the immediate is zero-extended. -/
def execOri (_u : ScalarUnit) (a : BitVec 6) (i : BitVec 16) (s : State) : Host.Outcome State Fault Refusal :=
  s.aluD a (· ||| i.zeroExtend 64)

/-- XORI (R109): the immediate is zero-extended. -/
def execXori (_u : ScalarUnit) (a : BitVec 6) (i : BitVec 16) (s : State) : Host.Outcome State Fault Refusal :=
  s.aluD a (· ^^^ i.zeroExtend 64)

/-- SHL (R110). -/
def execShl (_u : ScalarUnit) (a b c : BitVec 6) (s : State) : Host.Outcome State Fault Refusal :=
  s.alu2 a b c 1 shiftL

/-- SHR (R110). -/
def execShr (_u : ScalarUnit) (a b c : BitVec 6) (s : State) : Host.Outcome State Fault Refusal :=
  s.alu2 a b c 1 shiftR

/-- SAR (R110). -/
def execSar (_u : ScalarUnit) (a b c : BitVec 6) (s : State) : Host.Outcome State Fault Refusal :=
  s.alu2 a b c 1 shiftA

/-- SHLI (R110). -/
def execShli (_u : ScalarUnit) (a b n : BitVec 6) (s : State) : Host.Outcome State Fault Refusal :=
  s.alu1 a b (shiftL · (n.zeroExtend 64))

/-- SHRI (R110). -/
def execShri (_u : ScalarUnit) (a b n : BitVec 6) (s : State) : Host.Outcome State Fault Refusal :=
  s.alu1 a b (shiftR · (n.zeroExtend 64))

/-- SARI (R110). -/
def execSari (_u : ScalarUnit) (a b n : BitVec 6) (s : State) : Host.Outcome State Fault Refusal :=
  s.alu1 a b (shiftA · (n.zeroExtend 64))

/-- FSHL (R110): the old d is the high half. -/
def execFshl (_u : ScalarUnit) (a b c : BitVec 6) (s : State) : Host.Outcome State Fault Refusal :=
  s.alu3 a b c funnelL

/-- FSHR (R110). -/
def execFshr (_u : ScalarUnit) (a b c : BitVec 6) (s : State) : Host.Outcome State Fault Refusal :=
  s.alu3 a b c funnelR

/-- SEL (R109): d picks between the sources. -/
def execSel (_u : ScalarUnit) (a b c : BitVec 6) (s : State) : Host.Outcome State Fault Refusal :=
  s.alu3 a b c (fun d x y => if d ≠ 0 then x else y)

/-- CLZ (R109). -/
def execClz (_u : ScalarUnit) (a b : BitVec 6) (s : State) : Host.Outcome State Fault Refusal :=
  s.alu1 a b countLeading

/-- CTZ (R109). -/
def execCtz (_u : ScalarUnit) (a b : BitVec 6) (s : State) : Host.Outcome State Fault Refusal :=
  s.alu1 a b countTrailing

/-- POPC (R109). -/
def execPopc (_u : ScalarUnit) (a b : BitVec 6) (s : State) : Host.Outcome State Fault Refusal :=
  s.alu1 a b countOnes

/-- MIN (R109), signed. -/
def execMin (_u : ScalarUnit) (a b c : BitVec 6) (s : State) : Host.Outcome State Fault Refusal :=
  s.alu2 a b c 1 (fun x y => if x.slt y then x else y)

/-- MAX (R109), signed. -/
def execMax (_u : ScalarUnit) (a b c : BitVec 6) (s : State) : Host.Outcome State Fault Refusal :=
  s.alu2 a b c 1 (fun x y => if x.slt y then y else x)

/-- MINU (R109). -/
def execMinu (_u : ScalarUnit) (a b c : BitVec 6) (s : State) : Host.Outcome State Fault Refusal :=
  s.alu2 a b c 1 (fun x y => if x.ult y then x else y)

/-- MAXU (R109). -/
def execMaxu (_u : ScalarUnit) (a b c : BitVec 6) (s : State) : Host.Outcome State Fault Refusal :=
  s.alu2 a b c 1 (fun x y => if x.ult y then y else x)

/-- CMP (R112). -/
def execCmp (_u : ScalarUnit) (a b c : BitVec 6) (k : BitVec 4) (s : State) : Host.Outcome State Fault Refusal :=
  s.alu2 a b c 1 fun x y => truth (condition k x y)

/-- CMPI (R112): the immediate is field C, signed. -/
def execCmpi (_u : ScalarUnit) (a b i : BitVec 6) (k : BitVec 4) (s : State) : Host.Outcome State Fault Refusal :=
  s.alu1 a b fun x => truth (condition k x (i.signExtend 64))

/-- LI (R109). -/
def execLi (_u : ScalarUnit) (a : BitVec 6) (i : BitVec 16) (s : State) : Host.Outcome State Fault Refusal :=
  s.settle (s.writeS a (i.signExtend 64) 1)

/-- LIH (R109). -/
def execLih (_u : ScalarUnit) (a : BitVec 6) (i : BitVec 16) (s : State) : Host.Outcome State Fault Refusal :=
  s.aluD a (fun d => (d <<< 16) ||| i.zeroExtend 64)

/-- MOV (R109). -/
def execMov (_u : ScalarUnit) (a b : BitVec 6) (s : State) : Host.Outcome State Fault Refusal :=
  s.alu1 a b id

/-- QAND (R113). -/
def execQand (_u : ScalarUnit) (a b c : BitVec 6) (s : State) : Host.Outcome State Fault Refusal :=
  s.predOp a (s.qreg 0 b.toNat &&& s.qreg 1 c.toNat)

/-- QOR (R113). -/
def execQor (_u : ScalarUnit) (a b c : BitVec 6) (s : State) : Host.Outcome State Fault Refusal :=
  s.predOp a (s.qreg 0 b.toNat ||| s.qreg 1 c.toNat)

/-- QXOR (R113). -/
def execQxor (_u : ScalarUnit) (a b c : BitVec 6) (s : State) : Host.Outcome State Fault Refusal :=
  s.predOp a (s.qreg 0 b.toNat ^^^ s.qreg 1 c.toNat)

/-- QNOT (R113). -/
def execQnot (_u : ScalarUnit) (a b : BitVec 6) (s : State) : Host.Outcome State Fault Refusal :=
  s.predOp a (~~~(s.qreg 0 b.toNat))

/-- QFROMS (R113): all 64 bits, or with `.bcast` whether the source is not zero. -/
def execQfroms (_u : ScalarUnit) (a b : BitVec 6) (x : BitVec 1) (s : State) : Host.Outcome State Fault Refusal :=
  let (v, s1) := s.readS 0 b
  s.settle (.ok (s1.writeQ a (if x = 0 then v else if v ≠ 0 then BitVec.allOnes 64 else 0) 1))

/-- QTOS (R113). -/
def execQtos (_u : ScalarUnit) (a b : BitVec 6) (s : State) : Host.Outcome State Fault Refusal :=
  s.settle (s.writeS a (s.qreg 0 b.toNat) 1)

/-- QPOPC (R113). -/
def execQpopc (_u : ScalarUnit) (a b : BitVec 6) (s : State) : Host.Outcome State Fault Refusal :=
  s.settle (s.writeS a (countOnes (s.qreg 0 b.toNat)) 1)

end Sys2Proof.Machine
end

