-- ==== Sys2Proof/Machine/Transform.lean ====
section
/-! DEFINITION. The forms of the T unit: transposition, packed streams, codebook tables, conversion (R187-R192). -/

namespace Sys2Proof.Machine

open Sys2Proof.Config

/-- A source that is a circular-buffer head lengthens a form by 5 cycles (R174). -/
def headExtra (b : BitVec 6) : Nat := if 32 ≤ b.toNat then 5 else 0

/-- A form over a register or a consumer head (R187): its checks on the tag, then what it does with the source. A head
whose bytes hold an uncorrectable error gives the form nothing to write (R133). -/
def State.sourceForm (s : State) (b : BitVec 6) (ok : Half → Except Stop Unit) (use : VReg → State → Except Stop State) :
    Host.Outcome State Fault Refusal :=
  s.settle do
    let (x, t) ← s.readVAny 0 b
    match x with
    | some x => do
      ok x.tag
      use x t
    | none => do
      ok (s.ring (b.toNat - 32)).tag
      .ok t

/-- Tags that lane moves of the T unit accept: all but the packed ones (R188). -/
def laneMoveTag (t : Half) : Bool := tagValid t && !(0x0C ≤ tagCode t && tagCode t ≤ 0x0E)

/-- TXPOSE (R188): out lane i takes the lane that the shape names. -/
def txposeLane (shape : BitVec 2) (i : Nat) : Nat :=
  match shape.toNat with
  | 0 => i % 8 * 8 + i / 8
  | 1 => i % 4 * 16 + i / 4
  | _ => i % 16 * 4 + i / 16

/-- TXPOSE (R188). -/
def execTxpose (a b : BitVec 6) (sh : BitVec 2) (s : State) : Host.Outcome State Fault Refusal :=
  s.sourceForm b (fun tag => check (laneMoveTag tag) .format) fun x t =>
    t.wholeForm a x.tag (6 + headExtra b) fun i => x.bits (Fin.ofNat 64 (txposeLane sh i))

/-- Lane i of an interleave of x and y. -/
def tintlvLane (op : BitVec 2) (x y : Fin 64 → Nat) (i : Fin 64) : Nat :=
  match op.toNat with
  | 0 => if i.val % 2 = 0 then x (Fin.ofNat 64 (i / 2)) else y (Fin.ofNat 64 (i / 2))
  | 1 => if i.val % 2 = 0 then x (Fin.ofNat 64 (i / 2 + 32)) else y (Fin.ofNat 64 (i / 2 + 32))
  | n => if i.val < 32 then x (Fin.ofNat 64 (2 * i + (n - 2))) else y (Fin.ofNat 64 (2 * (i - 32) + (n - 2)))

/-- TINTLV (R188). -/
def execTintlv (a b c : BitVec 6) (op : BitVec 2) (s : State) : Host.Outcome State Fault Refusal :=
  s.settle do
    let x ← s.readV 0 b
    let y ← s.readV 1 c
    check (laneMoveTag x.tag && x.tag == y.tag) .format
    s.wholeForm a x.tag 3 (tintlvLane op x.bits y.bits)

/-! ### Packed streams (R189) -/

/-- Width of a stream element by MOD: `.b1`, `.i3`, `.i4`. -/
def packWidth (m : BitVec 2) : Nat :=
  match m.toNat with
  | 1 => 1
  | 2 => 3
  | _ => 4

/-- The code of a packed tag of w bits. -/
def packCode (w : Nat) : Nat :=
  match w with
  | 1 => 0x0E
  | 3 => 0x0C
  | _ => 0x0D

/-- The stream of a register that gives each lane n bits, as a number. -/
def streamOf (n : Nat) (l : Lanes) : Nat := leStream l.toList
where
  leStream : List Word → Nat
    | [] => 0
    | x :: xs => elem n x + 2 ^ n * leStream xs

/-- Element e of a stream of w-bit elements. -/
def streamElem (w stream e : Nat) : Nat := stream / 2 ^ (w * e) % 2 ^ w

/-- The element width of a TUNPACK source's stream; FORMAT where R189 has none. -/
def unpackWidth (tag : Half) (m : BitVec 2) : Except Stop Nat :=
  let c := tagCode tag
  if 0x0C ≤ c ∧ c ≤ 0x0E then
    if m = 0 then .ok (widthOf c) else trapWith .format
  else if c = 0x08 ∧ m ≠ 0 then .ok (packWidth m)
  else trapWith .format

/-- TUNPACK (R189). -/
def execTunpack (a b : BitVec 6) (k : BitVec 5) (m : BitVec 2) (s : State) : Host.Outcome State Fault Refusal :=
  s.sourceForm b (fun tag => (unpackWidth tag m).map fun _ => ()) fun x t => do
    let w ← unpackWidth x.tag m
    let stream := streamOf (laneWidth (tagCode x.tag)) x.lanes
    t.wholeForm a (mkTag 0x08 0) (3 + headExtra b) fun i => streamElem w stream (64 * k.toNat + i)

/-- The stream with block k replaced by 64 elements of w bits; what lies beyond 2,048 bits is dropped. -/
def packStream (w k : Nat) (old : Nat) (elems : List Nat) : Nat :=
  let lo := w * 64 * k
  let hi := lo + w * 64
  let new := go elems
  (old % 2 ^ lo + 2 ^ lo * new + old / 2 ^ hi * 2 ^ hi) % 2 ^ 2048
where
  go : List Nat → Nat
    | [] => 0
    | x :: xs => x % 2 ^ w + 2 ^ w * go xs

/-- TPACK (R189). -/
def execTpack (a b : BitVec 6) (k : BitVec 5) (m : BitVec 2) (s : State) : Host.Outcome State Fault Refusal :=
  let old := s.vreg 2 a.toNat
  s.sourceForm b (fun tag => check (tagValid old.tag && tag == mkTag 0x08 0) .format) fun x t =>
    let w := packWidth m
    let tag := mkTag (packCode w) 0
    let stream := packStream w k.toNat (if old.tag == tag then streamOf 32 old.lanes else 0)
      ((List.finRange 64).map x.bits)
    t.wholeForm a tag (3 + headExtra b) fun i => stream / 2 ^ (32 * i.val) % 2 ^ 32

/-! ### Codebook tables (R190, R191) -/

def State.table (s : State) (n : Nat) : Table := (s.myCore.tables[n]?).getD Table.reset

/-- A table as a form that reads it at issue finds it: a TCTLD in flight leaves each entry old or new. -/
def State.tableSeen (s : State) (salt n : Nat) : List Half × Int :=
  let t := s.table n
  (allCtxs.flatMap fun c => (s.ctx s.cur.core c).engineResults).foldl (fun v f =>
    match f.what with
    | .table m es sc =>
      if m = n then
        ((List.range 8).map (fun i =>
            (if s.coin (f.id * 4096 + salt * 16 + i) then es[i]? else v.1[i]?).getD 0),
          if s.coin (f.id * 4096 + 4095) then sc else v.2)
      else v
    | _ => v) (t.entries, t.scale)

/-- TCTLD (R190): the holder at issue, the contents from c + 4. A FREE table's contents are unpredictable until they
are loaded. -/
def execTctld (a b : BitVec 6) (s : State) : Host.Outcome State Fault Refusal :=
  let n := a.toNat
  s.settle do
    let (x, t) ← s.readVAny 0 b
    let tag := (x.map (·.tag)).getD (s.ring (b.toNat - 32)).tag
    check (tagCode tag = 0x01) .format
    match s.me.task with
    | none => trapWith .perm
    | some m =>
      check ((s.table n).holder.isNone || (s.table n).holder == some m) .perm
      let t := if (s.table n).holder.isNone then t.releaseTable s.cur.core (Fin.ofNat 4 n) else t
      let t := t.modMyCore fun co =>
        { co with tables := co.tables.setIfInBounds n { (co.tables[n]?).getD Table.reset with holder := some m } }
      match x with
      | none => .ok t
      | some x =>
        let entries := (List.range 8).map fun i => ((x.lanes[i]?).getD 0).truncate 16
        .ok (t.landGen (t.table n).gen (.table n entries (tagScale tag)) (4 + headExtra b))

/-- The index a lane selects by (R191). -/
def expandIndex (x : VReg) (k : BitVec 5) (i : Fin 64) : Nat :=
  if tagCode x.tag = 0x08 then x.bits i % 16
  else streamElem (widthOf (tagCode x.tag)) (streamOf 32 x.lanes) (64 * k.toNat + i)

/-- TEXPAND (R191). -/
def execTexpand (a b : BitVec 6) (k : BitVec 5) (n : BitVec 2) (s : State) : Host.Outcome State Fault Refusal :=
  let tagOk (tag : Half) : Except Stop Unit := do
    check (tagCode tag = 0x0C || tagCode tag = 0x0D || tagCode tag = 0x08) .format
    check (tagCode tag ≠ 0x08 || k = 0) .illegal
  s.sourceForm b tagOk fun x t => do
    let tableOf (i : Fin 64) : Nat := (n.toNat + expandIndex x k i / 8) % 4
    check ((List.finRange 64).all fun i => (s.table (tableOf i)).holder.isSome && (s.table (tableOf i)).holder == s.me.task)
      .perm
    let scale := (s.tableSeen 0 n.toNat).2
    t.wholeForm a (mkTag 0x01 scale) (4 + headExtra b) fun i =>
      (((s.tableSeen i (tableOf i)).1[expandIndex x k i % 8]?).getD 0).toNat

/-- TCVT (R192): VCVT on the T unit. -/
def execTcvt (a b c : BitVec 6) (k sat : BitVec 1) (mode : BitVec 2) (s : State) : Host.Outcome State Fault Refusal :=
  s.sourceForm b (fun tag => check (codeWhole (tagCode tag)) .format) fun x t =>
    t.convert x a c (k = 1) (sat = 1) mode (5 + headExtra b)

end Sys2Proof.Machine
end

