-- ==== Sys2Proof/Machine/Dispatch.lean ====
section
/-! DEFINITION. One arm per instruction, each one direct call of its meaning. -/

namespace Sys2Proof.Machine

def exec (i : Instr) (s : State) : Host.Outcome State Fault Refusal :=
  match i with
  | .br imm => Sys2Proof.Machine.execBr imm s
  | .brq a t d => Sys2Proof.Machine.execBrq a t d s
  | .jr b => Sys2Proof.Machine.execJr b s
  | .call imm => Sys2Proof.Machine.execCall imm s
  | .callr b => Sys2Proof.Machine.execCallr b s
  | .ret b => Sys2Proof.Machine.execRet b s
  | .loop a imm => Sys2Proof.Machine.execLoop a imm s
  | .loopi d n => Sys2Proof.Machine.execLoopi d n s
  | .quiet b l => Sys2Proof.Machine.execQuiet b l s
  | .spawn a b t k => Sys2Proof.Machine.execSpawn a b t k s
  | .rep y imm => Sys2Proof.Machine.execRep y imm s
  | .trap imm => Sys2Proof.Machine.execTrap imm s
  | .waitb k imm => Sys2Proof.Machine.execWaitb k imm s
  | .tbinit n b => Sys2Proof.Machine.execTbinit n b s
  | .tbarr a n => Sys2Proof.Machine.execTbarr a n s
  | .tbwait a b n => Sys2Proof.Machine.execTbwait a b n s
  | .fence p m => Sys2Proof.Machine.execFence p m s
  | .sysrd a n => Sys2Proof.Machine.execSysrd a n s
  | .syswr a n => Sys2Proof.Machine.execSyswr a n s
  | .blz l b p g => Sys2Proof.Machine.execBlz l b p g s
  | .blzobj l b => Sys2Proof.Machine.execBlzobj l b s
  | .blzrd a e l => Sys2Proof.Machine.execBlzrd a e l s
  | .blzwt a b l => Sys2Proof.Machine.execBlzwt a b l s
  | .ctxsv b => Sys2Proof.Machine.execCtxsv b s
  | .ctxrs b => Sys2Proof.Machine.execCtxrs b s
  | .add u a b c => Sys2Proof.Machine.execAdd u a b c s
  | .sub u a b c => Sys2Proof.Machine.execSub u a b c s
  | .addi u a imm => Sys2Proof.Machine.execAddi u a imm s
  | .mul u a b c => Sys2Proof.Machine.execMul u a b c s
  | .mulh u a b c => Sys2Proof.Machine.execMulh u a b c s
  | .mulhu u a b c => Sys2Proof.Machine.execMulhu u a b c s
  | .div u a b c => Sys2Proof.Machine.execDiv u a b c s
  | .divu u a b c => Sys2Proof.Machine.execDivu u a b c s
  | .rem u a b c => Sys2Proof.Machine.execRem u a b c s
  | .remu u a b c => Sys2Proof.Machine.execRemu u a b c s
  | .and u a b c => Sys2Proof.Machine.execAnd u a b c s
  | .or u a b c => Sys2Proof.Machine.execOr u a b c s
  | .xor u a b c => Sys2Proof.Machine.execXor u a b c s
  | .andi u a imm => Sys2Proof.Machine.execAndi u a imm s
  | .ori u a imm => Sys2Proof.Machine.execOri u a imm s
  | .xori u a imm => Sys2Proof.Machine.execXori u a imm s
  | .shl u a b c => Sys2Proof.Machine.execShl u a b c s
  | .shr u a b c => Sys2Proof.Machine.execShr u a b c s
  | .sar u a b c => Sys2Proof.Machine.execSar u a b c s
  | .shli u a b n => Sys2Proof.Machine.execShli u a b n s
  | .shri u a b n => Sys2Proof.Machine.execShri u a b n s
  | .sari u a b n => Sys2Proof.Machine.execSari u a b n s
  | .fshl u a b c => Sys2Proof.Machine.execFshl u a b c s
  | .fshr u a b c => Sys2Proof.Machine.execFshr u a b c s
  | .clz u a b => Sys2Proof.Machine.execClz u a b s
  | .ctz u a b => Sys2Proof.Machine.execCtz u a b s
  | .popc u a b => Sys2Proof.Machine.execPopc u a b s
  | .min u a b c => Sys2Proof.Machine.execMin u a b c s
  | .max u a b c => Sys2Proof.Machine.execMax u a b c s
  | .minu u a b c => Sys2Proof.Machine.execMinu u a b c s
  | .maxu u a b c => Sys2Proof.Machine.execMaxu u a b c s
  | .sel u a b c => Sys2Proof.Machine.execSel u a b c s
  | .cmp u a b c k => Sys2Proof.Machine.execCmp u a b c k s
  | .cmpi u a b imm k => Sys2Proof.Machine.execCmpi u a b imm k s
  | .li u a imm => Sys2Proof.Machine.execLi u a imm s
  | .lih u a imm => Sys2Proof.Machine.execLih u a imm s
  | .mov u a b => Sys2Proof.Machine.execMov u a b s
  | .qand u a b c => Sys2Proof.Machine.execQand u a b c s
  | .qor u a b c => Sys2Proof.Machine.execQor u a b c s
  | .qxor u a b c => Sys2Proof.Machine.execQxor u a b c s
  | .qnot u a b => Sys2Proof.Machine.execQnot u a b s
  | .qfroms u a b f => Sys2Proof.Machine.execQfroms u a b f s
  | .qtos u a b => Sys2Proof.Machine.execQtos u a b s
  | .qpopc u a b => Sys2Proof.Machine.execQpopc u a b s
  | .ldb a b d => Sys2Proof.Machine.execLdb a b d s
  | .ldbz a b d => Sys2Proof.Machine.execLdbz a b d s
  | .ldh a b d => Sys2Proof.Machine.execLdh a b d s
  | .ldhz a b d => Sys2Proof.Machine.execLdhz a b d s
  | .ldw a b d => Sys2Proof.Machine.execLdw a b d s
  | .ldwz a b d => Sys2Proof.Machine.execLdwz a b d s
  | .ldd a b d => Sys2Proof.Machine.execLdd a b d s
  | .stb a b d => Sys2Proof.Machine.execStb a b d s
  | .sth a b d => Sys2Proof.Machine.execSth a b d s
  | .stw a b d => Sys2Proof.Machine.execStw a b d s
  | .std a b d => Sys2Proof.Machine.execStd a b d s
  | .ldv a b f k => Sys2Proof.Machine.execLdv a b f k s
  | .stv a b d => Sys2Proof.Machine.execStv a b d s
  | .stvb a b c => Sys2Proof.Machine.execStvb a b c s
  | .ldvt a b c => Sys2Proof.Machine.execLdvt a b c s
  | .gath a b c m => Sys2Proof.Machine.execGath a b c m s
  | .scat a b c m => Sys2Proof.Machine.execScat a b c m s
  | .stmsk a b d => Sys2Proof.Machine.execStmsk a b d s
  | .ldmsk a b d => Sys2Proof.Machine.execLdmsk a b d s
  | .gstv a g b c n => Sys2Proof.Machine.execGstv a g b c n s
  | .aadd a b c r q w => Sys2Proof.Machine.execAadd a b c r q w s
  | .amin a b c v r q w => Sys2Proof.Machine.execAmin a b c v r q w s
  | .amax a b c v r q w => Sys2Proof.Machine.execAmax a b c v r q w s
  | .aand a b c r q w => Sys2Proof.Machine.execAand a b c r q w s
  | .aor a b c r q w => Sys2Proof.Machine.execAor a b c r q w s
  | .axor a b c r q w => Sys2Proof.Machine.execAxor a b c r q w s
  | .aswp a b c r q w => Sys2Proof.Machine.execAswp a b c r q w s
  | .acas a b c r q w => Sys2Proof.Machine.execAcas a b c r q w s
  | .afadd a b c r q => Sys2Proof.Machine.execAfadd a b c r q s
  | .ared a b c o => Sys2Proof.Machine.execAred a b c o s
  | .ldaq a b w => Sys2Proof.Machine.execLdaq a b w s
  | .strl a b w => Sys2Proof.Machine.execStrl a b w s
  | .cpy a b e t => Sys2Proof.Machine.execCpy a b e t s
  | .cpysh a n => Sys2Proof.Machine.execCpysh a n s
  | .cbadv a imm => Sys2Proof.Machine.execCbadv a imm s
  | .cbwt a imm => Sys2Proof.Machine.execCbwt a imm s
  | .ownf b c d => Sys2Proof.Machine.execOwnf b c d s
  | .send a b c => Sys2Proof.Machine.execSend a b c s
  | .vadd u a b c y m => Sys2Proof.Machine.execVadd u a b c y m s
  | .vsub u a b c y m => Sys2Proof.Machine.execVsub u a b c y m s
  | .vmul u a b c y m => Sys2Proof.Machine.execVmul u a b c y m s
  | .vfma u a b c y m => Sys2Proof.Machine.execVfma u a b c y m s
  | .vfms u a b c y m => Sys2Proof.Machine.execVfms u a b c y m s
  | .vmin u a b c m => Sys2Proof.Machine.execVmin u a b c m s
  | .vmax u a b c m => Sys2Proof.Machine.execVmax u a b c m s
  | .vabs u a b y m => Sys2Proof.Machine.execVabs u a b y m s
  | .vneg u a b y m => Sys2Proof.Machine.execVneg u a b y m s
  | .vand u a b c m => Sys2Proof.Machine.execVand u a b c m s
  | .vor u a b c m => Sys2Proof.Machine.execVor u a b c m s
  | .vxor u a b c m => Sys2Proof.Machine.execVxor u a b c m s
  | .vnot u a b m => Sys2Proof.Machine.execVnot u a b m s
  | .vshl u a b c m => Sys2Proof.Machine.execVshl u a b c m s
  | .vshr u a b c m => Sys2Proof.Machine.execVshr u a b c m s
  | .vsar u a b c m => Sys2Proof.Machine.execVsar u a b c m s
  | .vfshl u a b c m => Sys2Proof.Machine.execVfshl u a b c m s
  | .vfshr u a b c m => Sys2Proof.Machine.execVfshr u a b c m s
  | .vclz u a b m => Sys2Proof.Machine.execVclz u a b m s
  | .vpopc u a b m => Sys2Proof.Machine.execVpopc u a b m s
  | .vcmp u a b c k => Sys2Proof.Machine.execVcmp u a b c k s
  | .vsel u a b c m => Sys2Proof.Machine.execVsel u a b c m s
  | .vcvt u a b c k y t => Sys2Proof.Machine.execVcvt u a b c k y t s
  | .vretag u a imm => Sys2Proof.Machine.execVretag u a imm s
  | .vexp2 a b z m => Sys2Proof.Machine.execVexp2 a b z m s
  | .vlog2 a b z m => Sys2Proof.Machine.execVlog2 a b z m s
  | .vrcp a b z m => Sys2Proof.Machine.execVrcp a b z m s
  | .vrsq a b z m => Sys2Proof.Machine.execVrsq a b z m s
  | .vredsum u a b y g => Sys2Proof.Machine.execVredsum u a b y g s
  | .vredmax u a b g => Sys2Proof.Machine.execVredmax u a b g s
  | .vredmin u a b g => Sys2Proof.Machine.execVredmin u a b g s
  | .vscan u a b y e g => Sys2Proof.Machine.execVscan u a b y e g s
  | .vbcst u a b k => Sys2Proof.Machine.execVbcst u a b k s
  | .vperm u a b c => Sys2Proof.Machine.execVperm u a b c s
  | .vslide u a b c d => Sys2Proof.Machine.execVslide u a b c d s
  | .vexts u a b c e => Sys2Proof.Machine.execVexts u a b c e s
  | .vinss u a b c => Sys2Proof.Machine.execVinss u a b c s
  | .vmov u a b m => Sys2Proof.Machine.execVmov u a b m s
  | .vli u a imm => Sys2Proof.Machine.execVli u a imm s
  | .vnfc u a => Sys2Proof.Machine.execVnfc u a s
  | .oclaim e a t => Sys2Proof.Machine.execOclaim e a t s
  | .orels a => Sys2Proof.Machine.execOrels a s
  | .oload a b c => Sys2Proof.Machine.execOload a b c s
  | .xpush a k => Sys2Proof.Machine.execXpush a k s
  | .xshft a k => Sys2Proof.Machine.execXshft a k s
  | .xacc a g n => Sys2Proof.Machine.execXacc a g n s
  | .xdrn a y m j t => Sys2Proof.Machine.execXdrn a y m j t s
  | .xdrnRaw a j t => Sys2Proof.Machine.execXdrnRaw a j t s
  | .xclr a e => Sys2Proof.Machine.execXclr a e s
  | .xnorm a => Sys2Proof.Machine.execXnorm a s
  | .xsexp a b c l => Sys2Proof.Machine.execXsexp a b c l s
  | .xgexp a b => Sys2Proof.Machine.execXgexp a b s
  | .skdef a b => Sys2Proof.Machine.execSkdef a b s
  | .skfold g a b c => Sys2Proof.Machine.execSkfold g a b c s
  | .skfoldo g a n r l => Sys2Proof.Machine.execSkfoldo g a n r l s
  | .skshr a => Sys2Proof.Machine.execSkshr a s
  | .skacc a b => Sys2Proof.Machine.execSkacc a b s
  | .skrdl a b c => Sys2Proof.Machine.execSkrdl a b c s
  | .skrdr a b c => Sys2Proof.Machine.execSkrdr a b c s
  | .skwrl a b c => Sys2Proof.Machine.execSkwrl a b c s
  | .skwrr a b c => Sys2Proof.Machine.execSkwrr a b c s
  | .sksil a b w f => Sys2Proof.Machine.execSksil a b w f s
  | .skclr a b f => Sys2Proof.Machine.execSkclr a b f s
  | .skstat a b => Sys2Proof.Machine.execSkstat a b s
  | .txpose a b y => Sys2Proof.Machine.execTxpose a b y s
  | .tunpack a b k w => Sys2Proof.Machine.execTunpack a b k w s
  | .tpack a b k w => Sys2Proof.Machine.execTpack a b k w s
  | .texpand a b k n => Sys2Proof.Machine.execTexpand a b k n s
  | .tctld a b => Sys2Proof.Machine.execTctld a b s
  | .tcvt a b c k y t => Sys2Proof.Machine.execTcvt a b c k y t s
  | .tintlv a b c o => Sys2Proof.Machine.execTintlv a b c o s
  | .resultLand core => Sys2Proof.Machine.execResultLand core s
  | .asyncLoadLand core ctx id => Sys2Proof.Machine.execAsyncLoadLand core ctx id s
  | .storeOrderingPoint core ctx id => Sys2Proof.Machine.execStoreOrderingPoint core ctx id s
  | .qover core ctx => Sys2Proof.Machine.execQover core ctx s
  | .agingPromotion core => Sys2Proof.Machine.execAgingPromotion core s
  | .contextEnd core ctx => Sys2Proof.Machine.execContextEnd core ctx s
  | .coreWakeComplete core => Sys2Proof.Machine.execCoreWakeComplete core s
  | .coreGate core => Sys2Proof.Machine.execCoreGate core s
  | .preemptSave group => Sys2Proof.Machine.execPreemptSave group s
  | .preemptResume group => Sys2Proof.Machine.execPreemptResume group s
  | .switchOutSave core ctx => Sys2Proof.Machine.execSwitchOutSave core ctx s
  | .inboxAccept msg => Sys2Proof.Machine.execInboxAccept msg s
  | .handlerStart core => Sys2Proof.Machine.execHandlerStart core s
  | .remoteMessageDelivery core key hnd sender rank wkid addr payload => Sys2Proof.Machine.execRemoteMessageDelivery core key hnd sender rank wkid addr payload s
  | .copyCommandStart core ctx => Sys2Proof.Machine.execCopyCommandStart core ctx s
  | .engineTileFinish core ctx => Sys2Proof.Machine.execEngineTileFinish core ctx s
  | .copyCommandEnd core ctx blocks => Sys2Proof.Machine.execCopyCommandEnd core ctx blocks s
  | .copyFault core ctx => Sys2Proof.Machine.execCopyFault core ctx s
  | .circuitBlockDepart core ctx => Sys2Proof.Machine.execCircuitBlockDepart core ctx s
  | .circuitBlockArrive core ctx => Sys2Proof.Machine.execCircuitBlockArrive core ctx s
  | .waitingWritePerform id => Sys2Proof.Machine.execWaitingWritePerform id s
  | .skidderBoundExpiry id => Sys2Proof.Machine.execSkidderBoundExpiry id s
  | .sketchBusyEnd core sk => Sys2Proof.Machine.execSketchBusyEnd core sk s
  | .ringSlotReceive src addr exposed data refusals => Sys2Proof.Machine.execRingSlotReceive src addr exposed data refusals s
  | .ringBounce core ctx id space => Sys2Proof.Machine.execRingBounce core ctx id space s
  | .fifoEntryArrive core ctx fi far => Sys2Proof.Machine.execFifoEntryArrive core ctx fi far s
  | .reductionContribution win addr op round rank value => Sys2Proof.Machine.execReductionContribution win addr op round rank value s
  | .claimReceive slot rank pri value start group win => Sys2Proof.Machine.execClaimReceive slot rank pri value start group win s
  | .objectionReceive slot rank value => Sys2Proof.Machine.execObjectionReceive slot rank value s
  | .blazeDecision slot => Sys2Proof.Machine.execBlazeDecision slot s
  | .memberLost rank => Sys2Proof.Machine.execMemberLost rank s
  | .linkTrainingEnd link own far => Sys2Proof.Machine.execLinkTrainingEnd link own far s
  | .flitCrcFail link seq => Sys2Proof.Machine.execFlitCrcFail link seq s
  | .creditCountSend link => Sys2Proof.Machine.execCreditCountSend link s
  | .creditCountReceive link channel free seq => Sys2Proof.Machine.execCreditCountReceive link channel free seq s
  | .routerFailure router clusters => Sys2Proof.Machine.execRouterFailure router clusters s
  | .clockAdjust watts => Sys2Proof.Machine.execClockAdjust watts s
  | .deviceReset verified => Sys2Proof.Machine.execDeviceReset verified s
  | .stage2Reached rank harvest => Sys2Proof.Machine.execStage2Reached rank harvest s
  | .doorbell q value => Sys2Proof.Machine.execDoorbell q value s
  | .queueConfigWrite q cfg value => Sys2Proof.Machine.execQueueConfigWrite q cfg value s
  | .hostBar2Read off n => Sys2Proof.Machine.execHostBar2Read off n s
  | .hostBar2Write off data => Sys2Proof.Machine.execHostBar2Write off data s
  | .unsupportedRequest kind => Sys2Proof.Machine.execUnsupportedRequest kind s
  | .dstopGo pmax => Sys2Proof.Machine.execDstopGo pmax s
  | .dtargetWrite value => Sys2Proof.Machine.execDtargetWrite value s
  | .mnqhWrite value => Sys2Proof.Machine.execMnqhWrite value s
  | .wselWrite value => Sys2Proof.Machine.execWselWrite value s
  | .fnfail value => Sys2Proof.Machine.execFnfail value s
  | .cmpctlEnable value => Sys2Proof.Machine.execCmpctlEnable value s
  | .cdisc value => Sys2Proof.Machine.execCdisc value s
  | .rdclose value => Sys2Proof.Machine.execRdclose value s
  | .hostClaim value => Sys2Proof.Machine.execHostClaim value s
  | .hostObjection value => Sys2Proof.Machine.execHostObjection value s
  | .fbindWrite core ctx fo value => Sys2Proof.Machine.execFbindWrite core ctx fo value s
  | .mckill value => Sys2Proof.Machine.execMckill value s
  | .svcFirmwareReload tgt => Sys2Proof.Machine.execSvcFirmwareReload tgt s
  | .svcHbmRecalibration tgt => Sys2Proof.Machine.execSvcHbmRecalibration tgt s
  | .svcLinkRetrain tgt => Sys2Proof.Machine.execSvcLinkRetrain tgt s
  | .svcOperationEnd ok => Sys2Proof.Machine.execSvcOperationEnd ok s
  | .pcfgWrite part value => Sys2Proof.Machine.execPcfgWrite part value s
  | .registerWrite off value => Sys2Proof.Machine.execRegisterWrite off value s
  | .fetchFault core ctx => Sys2Proof.Machine.execFetchFault core ctx s
  | .illegalBundle core ctx => Sys2Proof.Machine.execIllegalBundle core ctx s
  | .ctxsvCtxrsCompletion core ctx => Sys2Proof.Machine.execCtxsvCtxrsCompletion core ctx s
  | .linkFailure link => Sys2Proof.Machine.execLinkFailure link s
  | .slotReturn link channel => Sys2Proof.Machine.execSlotReturn link channel s
  | .nop => Sys2Proof.Machine.execNop s
  | .exit => Sys2Proof.Machine.execExit s
  | .rett => Sys2Proof.Machine.execRett s
  | .launchTake => Sys2Proof.Machine.execLaunchTake s
  | .barrierGroupStart => Sys2Proof.Machine.execBarrierGroupStart s
  | .faultNoticeWrite => Sys2Proof.Machine.execFaultNoticeWrite s
  | .skidderIteration => Sys2Proof.Machine.execSkidderIteration s
  | .presenceBeat => Sys2Proof.Machine.execPresenceBeat s
  | .softErrorCorrected => Sys2Proof.Machine.execSoftErrorCorrected s
  | .stage1Reached => Sys2Proof.Machine.execStage1Reached s
  | .dstopCancel => Sys2Proof.Machine.execDstopCancel s
  | .dstopSave => Sys2Proof.Machine.execDstopSave s
  | .cmpctlInitDone => Sys2Proof.Machine.execCmpctlInitDone s
  | .attestationStart => Sys2Proof.Machine.execAttestationStart s
  | .attestationDone => Sys2Proof.Machine.execAttestationDone s

end Sys2Proof.Machine
end

