-- ==== Sys2Proof/Machine/Units.lean ====
section
/-! DEFINITION. What moves beside the bundles: the barrier units, contexts that wait, the steps of the engines and of
the device that are due, and the end of a cycle (R92, R96, R104, R152-R154, R208, R232, R305). -/

namespace Sys2Proof.Machine

open Sys2Proof.Config

/-! ### Barrier units (R153, R154) -/

/-- A scalar result as it lands: in a register, or pushed onto an output FIFO. -/
def scalarLanding (r : Nat) (v : Dword) : Landing := if r < 32 then .scalar r v else .push (r - 32) v

/-- The destination of a promised result. -/
def Context.destOf (cx : Context) (id : Nat) : Option Nat :=
  (cx.flight ++ cx.snapshot).findSome? fun f =>
    match f.what with
    | .await d => if f.id = id then some d else none
    | _ => none

/-- TBARR reaches the unit. The accesses before it in program order stand before the arrival (R232). An arrival that the
record refuses now, of a rank that a retirement or a TBINIT has changed since the issue, records nothing, and its phase is
free. -/
def State.barArrive (s : State) (m : BarMsg) (t : Task) (i : Nat) (b : Barrier) (id : Nat) : State :=
  let cl := clusterOf m.core
  let made := s.onChip m.core m.ctx ++ (s.ctx m.core m.ctx).async ++ s.logged (.context m.core m.ctx)
  let before := (made.filter (·.id < id)).map (·.id) ++ (s.ctx m.core m.ctx).edges.map (·.1)
  let give (v : Dword) (s : State) : State :=
    match (s.ctx m.core m.ctx).destOf id with
    | some d => s.modCtx m.core m.ctx (·.fill id [scalarLanding d v])
    | none => s
  match b.arrive t.rank before with
  | none => give (s.free id) s
  | some (k, b') => (give (k.zeroExtend 64) (s.modBarrier cl i fun _ => b')).completeBarrier cl i

/-- TBINIT reaches the unit. -/
def State.barInit (s : State) (m : BarMsg) (i : Nat) (b : Barrier) (mask : Dword) : State :=
  let cl := clusterOf m.core
  let all : Word := 0xFFFFFFFF
  let s := s.releaseWaiters b (fun p => p == b.ph || p == b.ph + 1) all []
  (s.modBarrier cl i (·.reinit mask)).completeBarrier cl i

/-- TBWAIT reaches the unit: an older phase, and every phase of a record that is gone, is answered at once. -/
def State.barWait (s : State) (m : BarMsg) (b : Barrier) (p : Word) : State :=
  let tell (w : Waiting) : Waiting :=
    match w with
    | .tbwait r n p' false =>
      if n != b.name || p' != p then w
      else if older p b.ph then .released r (if p = b.ph - 1 then b.dc.zeroExtend 64 else 0xFFFFFFFF) b.beforeDone
      else if b.gone then .released r (BitVec.ofNat 64 b.members) b.beforeDone
      else .tbwait r n p true
    | w => w
  s.modCtx m.core m.ctx fun cx => { cx with wait := cx.wait.map tell }

/-- A form reaches its record, if the task that issued it still has one there. -/
def State.barApply (s : State) (m : BarMsg) : State :=
  match s.task m.task with
  | none => s
  | some t =>
    match s.barrierOf t m.name with
    | none => s
    | some (i, b) =>
      match m.op with
      | .arrive id => s.barArrive m t i b id
      | .init mask => s.barInit m i b mask
      | .wait p => if (s.ctx m.core m.ctx).task = some m.task then s.barWait m b p else s

/-- Forms that reach the units in this cycle, in ascending (core, context) order. -/
def State.barDue (s : State) : State :=
  let now := s.sclk.toNat
  let due := s.barq.filter (·.due ≤ now)
  let order := allCores.flatMap fun k => allCtxs.flatMap fun c => due.filter fun m => m.core == k && m.ctx == c
  order.foldl (fun s m => s.barApply m) { s with barq := s.barq.filter (now < ·.due) }

/-! ### Contexts that wait (R14, R100, R154, R232, R312) -/

/-- An access to local memory or the landing has not been made. -/
def State.onItsWay (s : State) (id : Nat) : Bool := allCores.any fun k => (s.core k).memq.any (·.id == id)

/-- A context goes on from a wait that has been answered; its result lands in this cycle. What stood before the answer
stands before what follows it for the agents of the cluster (R232). -/
def State.goesOn (s : State) (k : Fin 64) (c : Fin 4) (r : Nat) (v : Dword) (before : List Nat) : State :=
  let cx := s.ctx k c
  let w := scalarLanding r v
  let coming : Bool := cx.flight.any fun f => cx.waitId < f.id && meets f.what.regs w.regs
  let t := s.modCtx k c fun cx => cx.push cx.waitId 1 0 w 0 (cx.waitPassed && !coming)
  let t := if before.isEmpty then t else t.look (.context k c)
  (t.modCtx k c fun cx => { cx with edges := cx.edges ++ (before.filter s.counts).map (·, 2) }).endWait k c

/-- A WAITING context whose condition is met goes on. Accesses of the arrivals whose cycles are fixed come first. -/
def State.wakeCtx (s : State) (k : Fin 64) (c : Fin 4) : State :=
  let s := s.modCtx k c fun cx =>
    match cx.wait with
    | some (.blzwt _ n _) => cx.decided s.rank (s.claimSlot n) n
    | _ => cx
  let cx := s.ctx k c
  if cx.state != .waiting || cx.ending then s
  else
    match cx.wait with
    | some (.released r v before) => if before.any s.onItsWay then s else s.goesOn k c r v before
    | some (.oclaim n) => if (((s.core k).slots[n]?).getD Slot.reset).state = .free then s.endWait k c else s
    | _ => s

/-- The units' part of a cycle. -/
def State.unitsTurn (s : State) : State := (s.barDue.planeDue).foldCtxs fun s k c => s.wakeCtx k c

/-! ### Steps that are due -/

/-- Puts steps at the head of the agenda, to be made before anything else. -/
def State.first (s : State) (is : List Instr) : State := { s with agenda := is.map (fun i => (0, i)) ++ s.agenda }

/-- Blocks of a command of fixed duration whose cycle has come (R104). -/
def State.blocksDue (s : State) (k : Fin 64) (cmd : Command) : Nat :=
  if cmd.fixed k then
    ((List.range (cmd.blocks k)).filter fun n => cmd.done ≤ n && cmd.dueAt n ≤ s.sclk.toNat).length
  else 0

/-- The next block of a command between landings, some of which go through circuits, stays in the cluster and goes at the
engine's pace (log entry 37). -/
def State.homeBlockDue (s : State) (k : Fin 64) (cmd : Command) : Bool :=
  !cmd.src.isMain && !cmd.dst.isMain && !cmd.bad && cmd.away k && cmd.done < cmd.blocks k &&
    (cmd.awayAt k cmd.done).isNone && (s.sclk.toNat - cmd.started.getD 0) % cmd.pace == 0

/-- Steps of one channel of a core that are due in this cycle (R104, R106). -/
def State.channelDue (s : State) (k : Fin 64) (c : Fin 4) : List Instr :=
  match s.head k c with
  | none => []
  | some cmd =>
    if cmd.started.isNone then [.copyCommandStart k c]
    else if cmd.message.isSome then []
    else if (s.nextFault k c cmd).isSome then [.copyFault k c]
    else if s.homeBlockDue k cmd then [.copyCommandEnd k c 1]
    else if cmd.bad || s.blocksDue k cmd = 0 then (if s.headDone k c cmd then [.copyCommandEnd k c 0] else [])
    else [.copyCommandEnd k c (s.blocksDue k cmd)]

/-- Messages of a core whose acceptance or payload is due. That the inbox of another device has accepted one, the agenda
says. -/
def State.messagesDue (s : State) (k : Fin 64) : List Instr :=
  (s.messages.filter fun m => m.core == k && !(m.far.isSome && m.sent != 0) &&
    if !m.accepted then s.offered m
    else if m.data.isEmpty then s.payloadReady m
    else m.homeLeft && m.homeDue ≤ s.sclk.toNat).map fun m => .inboxAccept m.id

/-- Blocks that are due at a core through circuits in this cycle, after the steps of its engine (R90, R94). -/
def State.arrivals (s : State) (k : Fin 64) : List Instr :=
  let here (l : List (Nat × Nat × Nat × Fin 64)) (i : Instr) : List Instr :=
    (l.filter fun x => x.2.1 ≤ s.sclk.toNat && x.2.2.2 == k).map fun _ => i
  (allCores.flatMap fun j => allCtxs.flatMap fun c =>
    match s.head j c with
    | some cmd => here cmd.circuit (.circuitBlockArrive j c)
    | none => []) ++
  s.messages.flatMap fun m => here m.circuit (.inboxAccept m.id)

/-- The block of a core that departs in this cycle (R94). -/
def State.departure (s : State) (k : Fin 64) : List Instr :=
  match s.departing k with
  | some (.block c, _) | some (.leg c _, _) => [.circuitBlockDepart k c]
  | some (.payload id, _) => (s.messages.filter (·.id == id)).map fun m => .circuitBlockDepart k m.ctx
  | none => []

/-- What a cycle does to the channels of a core: a command that waits for a ring tile is lengthened (R104), and a block
between landings becomes ready (R94). -/
def State.channelTurn (s : State) (k : Fin 64) : State :=
  allCtxs.foldl (fun s c =>
    match s.head k c with
    | some cmd =>
      let s := if s.ringLate k cmd then s.modHead k c fun cmd => { cmd with waited := cmd.waited + 1 } else s
      if cmd.src.isMain || cmd.dst.isMain then s else s.makeReady k c
    | none => s) s

/-- A step of a core's engine that waits for the core's own writes (R90). -/
def State.engineOf (s : State) (k : Fin 64) (i : Instr) : Bool :=
  match i with
  | .copyCommandEnd j .. | .engineTileFinish j _ | .copyFault j _ | .circuitBlockDepart j _ => j == k
  | .inboxAccept id => s.messages.any fun m => m.id == id && m.core == k
  | _ => false

/-- A core's writes; the steps of its engine follow. -/
def State.storeTurn (s : State) (k : Fin 64) : State :=
  let t := ((s.storesDue k).flipsDue k).channelTurn k
  let t : State := { t with phase := .port k, late := t.late.filter (!s.engineOf k ·) }
  t.first (s.late.filter (s.engineOf k) ++ allCtxs.flatMap (t.channelDue k) ++ t.messagesDue k ++ t.departure k)

/-- What comes through a core's circuit port, after the steps of its engine (R90). -/
def State.portTurn (s : State) (k : Fin 64) : State :=
  let t : State := { s with phase := if h : k.val + 1 < 64 then .store ⟨k.val + 1, h⟩ else .units }
  t.first (t.arrivals k)

/-! ### The end of a core's cycle -/

/-- The sketch unit stands still for a descriptor whose context has trapped, is switched out or is STOPPED, until the
bundle that it re-enters issues (R209). -/
def Context.frozenUnit (cx : Context) : Bool :=
  cx.tm || cx.state == .swapped || cx.state == .stopped || cx.reentry

/-- Busy descriptors of a core come a cycle nearer their ends; those that end are named. -/
def State.sketchStep (s : State) (k : Fin 64) (runs : Busy → Bool) : State × List Instr :=
  let ends := (List.finRange 16).filter fun (n : Fin 16) =>
    match ((s.core k).sketches.get n).busy with
    | some b => runs b && b.left ≤ 1
    | none => false
  (s.modCore k fun co =>
    { co with sketches := co.sketches.map fun d =>
        { d with busy := d.busy.map fun b => if runs b && 1 < b.left then { b with left := b.left - 1 } else b } },
   ends.map fun n => .sketchBusyEnd k n)

/-- A cycle of the sketch unit, which stands still with the hold line (R58). -/
def State.sketchTurn (s : State) (k : Fin 64) : State :=
  let (t, ends) := s.sketchStep k fun b => !(s.core k).held && !(s.ctx k b.ctx).frozenUnit
  t.first ends

/-- The cycle of a TRAP still counts for what its context has running: the freeze comes in the next one (R209, R257). -/
def State.sketchLate (s : State) (k : Fin 64) (c : Fin 4) : State :=
  if (s.ctx k c).frozenUnit then s
  else
    let (t, ends) := s.sketchStep k fun b => b.ctx == c
    { t with late := t.late ++ ends }

/-- A context at the end of a cycle. A cycle of the hold line brings its next bundle no nearer (R58). -/
def Context.endCycle (held : Bool) (cx : Context) : Context :=
  { cx with
    bubble := if held then cx.bubble else cx.bubble - 1
    waitCount := if cx.state = .ready then cx.waitCount else 0
    flight := cx.flight.map fun f => { f with fresh := false }
    async := cx.async.map fun a => { a with fresh := false } }

/-- The end of a core's cycle, once its results have landed. -/
def State.landTurn (s : State) (k : Fin 64) : State :=
  let t := allCtxs.foldl (fun s c => s.modCtx k c (Context.endCycle (s.core k).held)) s
  let t : State := { t with phase := if h : k.val + 1 < 64 then .land ⟨k.val + 1, h⟩ else .tick }
  t.sketchTurn k

/-! ### The end of a cycle of the device -/

/-- Steps of the device that are due: contexts and decisions that end, handlers, wakes, gates, waiting writes and their
bounds, members that have fallen silent, credit counts. -/
def State.deviceDue (s : State) : List Instr :=
  (allCores.flatMap fun k =>
    (allCtxs.flatMap fun c =>
      (if (s.killedSaved k c).isSome then [.contextEnd k c] else []) ++
      (if (s.ctx k c).ending && s.drained k c then [.contextEnd k c] else [])) ++
    (if (s.core k).inbox.any fun m => (s.dormantOf k m.launch).isSome then [.handlerStart k] else []) ++
    (match (s.core k).wake with
      | .waking t => if t ≤ s.sclk.toNat then [.coreWakeComplete k] else []
      | _ => if s.mayGate k then [.coreGate k] else [])) ++
  ((List.finRange 16).filter fun (n : Fin 16) =>
    match (s.claims.get n).opened with
    | some o => o.t0 + o.win + o.bound ≤ s.ringTime
    | none => false).map (fun n => .blazeDecision n) ++
  s.waitingWrites.map (fun w => .waitingWritePerform w.id) ++
  (s.waitingWrites.filter fun w => w.since.any fun t => t + s.regs.skbnd.toNat ≤ s.sclk.toNat).map (fun w =>
    .skidderBoundExpiry w.id) ++
  s.losses.map .memberLost ++
  ((List.finRange 10).filter fun (l : Fin 10) => (s.links.get l).counted + 512 ≤ (s.links.get l).accepted).map
    .creditCountSend

/-- Core cycles in a unit of ring time, 10 ns, at the present clock (R305, R330). -/
def State.cyclesPerUnit (s : State) : Nat := max 1 (s.regs.mhz / 100)

/-- SCLK counts from the end of stage 2 (R92), and ring time with it (R305). -/
def State.countTime (s : State) : State :=
  let now := if s.stage = 2 then s.sclk + 1 else s.sclk
  { s with sclk := now, ringTime := if s.stage = 2 && now.toNat % s.cyclesPerUnit = 0 then s.ringTime + 1 else s.ringTime }

/-- A presence beat leaves every 10 units of ring time (R305). -/
def State.beatDue (s t : State) : State :=
  if s.ringTime < t.ringTime ∧ t.ringTime % 10 = 0 then t.sendBeat else t

/-- Rounds that every member has contributed to and that R229 held back are completed. -/
def State.roundsDue (s : State) : State :=
  ((s.rounds.map fun r => (r.win, r.addr)).eraseDups).foldl (fun s w => s.completeRounds w.1 w.2 (s.rounds.length + 1)) s

/-- The end of a cycle: time goes on, and what is due comes next. -/
def State.tickTurn (s : State) : State :=
  let t := (s.beatDue (s.countTime.settleSkidder).clearingDue).hearBeats.roundsDue.mailDue.slotsDue.repliesDue
  State.first { t with late := [], phase := .pick 0 } (t.late ++ t.deviceDue)

end Sys2Proof.Machine
end

