-- ==== Sys2Proof/Machine/Issue.lean ====
section
/-! DEFINITION. Issuing a bundle: its slots from left to right, each by `exec`, and what its completion does; and the
machine's turn in each phase of a cycle (R55-R64, R114-R121, R249, R256-R259, R334). -/

namespace Sys2Proof.Machine

open Sys2Proof.Config

/-! ### Before the slots -/

/-- Re-entry (R259): frozen results go on from the cycle in which the bundle issues. -/
def Context.replay (cx : Context) : Context :=
  if cx.reentry then { cx with flight := sortById (cx.flight ++ cx.snapshot ++ cx.held), snapshot := [], held := [] }
  else cx

/-- The bundle of a context comes to the merge stage: what its cursor holds before its first slot. A re-entered bundle
takes its pending transfer, EXIT or TRAP up again (R114, R259). A load that stands before it may have been read by now (R59, R132). -/
def State.begin (s : State) (k : Fin 64) (c : Fin 4) (b : Bundle) : State :=
  let s := s.readAhead k c
  let cx := s.ctx k c
  let header : Bool := match b.words with
    | w :: _ => isRep w
    | [] => false
  let cur : Cursor :=
    { core := k, ctx := c, addr := cx.pc, next := cx.pc + BitVec.ofNat 64 (4 * b.words.length), word := 0, unit := 0
      stopped := false, xfer := if cx.reentry && cx.xfer then cx.pending else none
      soft := if cx.reentry then cx.pendingSoft else none, exit := cx.reentry && cx.pendingExit, cut := false
      explicit := if header then b.words.tail else [], expansion := b.slots, nfc := cx.nfc }
  State.modCtx { s with cur := cur } k c fun cx => { cx.replay with blockedOn := [] }

/-- The slot word that `exec` is given, with its unit class. -/
def State.atSlot (s : State) (u : Nat) (w : Word) : State := { s with cur := { s.cur with word := w, unit := u } }

/-- A fresh draw for the next slot. -/
def State.redraw (s : State) : State := { s with draw := s.draw + 1 }

/-- Continues from a next state. -/
def andThen (o : Host.Outcome State Fault Refusal) (f : State → Host.Outcome State Fault Refusal) :
    Host.Outcome State Fault Refusal :=
  match o with
  | .next t => f t
  | .fault e => .fault e
  | .refused e => .refused e

/-- Slots from left to right; after a trap, or once the context has left, nothing further issues (R57). -/
def runSlots (s : State) : List (Nat × Word) → Host.Outcome State Fault Refusal
  | [] => .next s
  | p :: ps =>
    if s.cur.stopped then .next s
    else
      match decode p.2 with
      | none => .next s
      | some i => andThen (exec i (s.atSlot p.1 p.2)) fun t => runSlots t.redraw ps

/-! ### Completion (R114, R117-R121, R124) -/

/-- Pops entries until the target lies in the body of the innermost. -/
def popOutside (x : Dword) : List LoopEntry → List LoopEntry
  | [] => []
  | e :: es => if e.start.toNat ≤ x.toNat && x.toNat ≤ e.stop.toNat then e :: es else popOutside x es

/-- What a bundle leads to: the loop stack after it, the next bundle, whether that is reached by falling through, and
the earliest distance to it in cycles. -/
structure Onward where
  loops : List LoopEntry
  pc : Dword
  through : Bool
  distance : Nat
  deriving DecidableEq, Repr

/-- The way on from a bundle with a transfer. The length of a bundle skipped over that can no longer be read leaves the
context at that bundle, whose fetch faults (log entry 13). -/
def State.onwardBy (s : State) (loops : List LoopEntry) (x : Xfer) : Onward :=
  match x.kind with
  | .br => ⟨popOutside x.target loops, x.target, false, 1⟩
  | .brq | .jr => ⟨popOutside x.target loops, x.target, false, 3⟩
  | .call => ⟨loops, x.target, false, 1⟩
  | .callr | .ret => ⟨loops, x.target, false, 3⟩
  | .loop | .loopi =>
    if x.count = 0 then
      match s.after s.cur.core s.cur.ctx x.stop with
      | .ok a => ⟨loops, a, false, 1⟩
      | .error _ => ⟨loops, x.stop, false, 1⟩
    else ⟨⟨x.target, x.stop, x.count⟩ :: loops, x.target, true, 1⟩

/-- The way on from the bundle in hand (R118). -/
def State.onward (s : State) : Onward :=
  let loops := s.me.loops
  match s.cur.xfer with
  | some x => s.onwardBy loops x
  | none =>
    match loops with
    | e :: es =>
      if s.cur.addr = e.stop && !s.cur.exit then
        if e.count = 1 then ⟨es, s.cur.next, true, 1⟩
        else ⟨{ e with count := e.count - 1 } :: es, e.start, false, 1⟩
      else ⟨loops, s.cur.next, true, 1⟩
    | [] => ⟨loops, s.cur.next, true, 1⟩

/-- Counts a bundle that has issued without a trap (R121). -/
def Context.countBundle (cx : Context) (cut : Bool) : Context :=
  if cx.tm || cut || cx.qcount = 0xFFFFFFFF then cx else { cx with qcount := cx.qcount + 1 }

/-- The context goes on after the bundle. -/
def Context.goOn (cx : Context) (o : Onward) (slots : RepBuf) (cut : Bool) : Context :=
  let cx := cx.countBundle cut
  { cx with
    pc := o.pc, fellThrough := o.through, loops := o.loops, bubble := max cx.bubble o.distance, repbuf := slots
    reentry := false, xfer := cx.xfer && !cx.reentry, pending := if cx.reentry then none else cx.pending
    pendingExit := cx.pendingExit && !cx.reentry, pendingSoft := if cx.reentry then none else cx.pendingSoft
    blk := if cx.reentry then 0 else cx.blk }

/-- EXIT (R119): ends the context, or in trap mode kills its task with the cause in TCAUSE. -/
def State.leave (s : State) (k : Fin 64) (c : Fin 4) : State :=
  let cx := s.ctx k c
  match if cx.tm then cx.task else none with
  | some t => s.kill t (some cx.tcause.toNat)
  | none => s.modCtx k c Context.finish

/-- TRAP (R124): the handler is entered with cause SOFT. Results still in flight are none of the bundle that TEPC names. -/
def State.softTrap (s : State) (k : Fin 64) (c : Fin 4) (imm : Half) : Except Fault State :=
  let s := s.modCtx k c fun cx => { cx with flight := cx.flight.map fun f => { f with fresh := false } }
  (s.sketchLate k c).enterTrap k c ⟨.soft, imm.zeroExtend 64, (s.ctx k c).pc, 0, 0, none, 1, false, none⟩

/-- Every slot has committed: the transfer takes effect, the bundle is counted, and an EXIT or a TRAP is made good. -/
def State.complete (s : State) (slots : RepBuf) : Host.Outcome State Fault Refusal :=
  if s.cur.stopped then .next s
  else
    let k := s.cur.core
    let c := s.cur.ctx
    let t := s.modMe fun cx => cx.goOn s.onward slots s.cur.cut
    if s.cur.exit then .next (t.leave k c)
    else
      match s.cur.soft with
      | some imm => outcome (t.softTrap k c imm)
      | none => .next t

/-! ### A bundle -/

/-- Expands a REP bundle by its header (R63); other bundles hold their slots. -/
def State.header (s : State) (b : Bundle) : Host.Outcome State Fault Refusal :=
  match b.words with
  | w :: _ =>
    if isRep w then
      match decode w with
      | some i => exec i (s.atSlot 0 w)
      | none => .next s
    else .next s
  | [] => .next s

/-- The slots of a bundle that decodes. -/
def State.runBundle (s : State) (k : Fin 64) (c : Fin 4) (b : Bundle) : Host.Outcome State Fault Refusal :=
  let cx := s.ctx k c
  andThen ((s.begin k c b).header b) fun t =>
    andThen (runSlots t (cx.toIssue t.cur.expansion)) fun u => u.complete t.cur.expansion

/-- The earliest latched fault is delivered before the bundle (R334); the others stay. -/
def State.deliverFault (s : State) (k : Fin 64) (c : Fin 4) (l : Cause × Dword × Bool) : Except Fault State :=
  (s.modCtx k c fun cx => { cx with latched := cx.latched.erase l }).bundleTrap k c l.1 l.2.1

/-- A context issues its bundle, or takes the first of the traps that stand before its slots (R334). -/
def State.issueBundle (s : State) (k : Fin 64) (c : Fin 4) : Host.Outcome State Fault Refusal :=
  match (s.ctx k c).nextLatched with
  | some l => outcome (s.deliverFault k c l)
  | none =>
    match s.bundleAt k c with
    | .error (.fault f) => .fault f
    | .error (.fetch ..) => exec (.fetchFault k c) s
    | .error .illegal => exec (.illegalBundle k c) s
    | .ok b => if (s.ctx k c).overQuota then exec (.qover k c) s else s.runBundle k c b

/-- Wait counts (R249): bundles that the core issues while a context is READY and does not issue. -/
def State.countWaits (s : State) (k : Fin 64) (issuing : List (Fin 4)) : State :=
  allCtxs.foldl (fun s c => s.modCtx k c fun cx =>
    { cx with
      waitCount :=
        if issuing.contains c then 0
        else if cx.state = .ready then cx.waitCount + issuing.length else cx.waitCount }) s

/-! ### The phases of a cycle (log entry 5) -/

/-- A core chooses what it issues. -/
def State.pickTurn (s : State) (k : Fin 64) : Host.Outcome State Fault Refusal :=
  let s := s.withdrawn k
  if (s.aged k).isEmpty then .next (s.turnWith k (s.byPriority k)) else exec (.agingPromotion k) s

/-- On-chip stores and atomics of a context that are new since a name was given out. -/
def State.newStores (s : State) (k : Fin 64) (c : Fin 4) (id : Nat) : List MemOp :=
  (s.core k).memq.filter fun m => id ≤ m.id && m.ctx == c && m.act.isStore

/-- A primary that reads a head as a source, and the secondary that merges with it: the head is read at the end of the next
cycle, after what the secondary stores now (R99, R131, R187). The primary issues again with those stores on their way,
which the secondary's own turn then issues. -/
def State.issueBeside (s : State) (k : Fin 64) (c d : Fin 4) (u : State) : Host.Outcome State Fault Refusal :=
  match State.issueBundle { u with phase := afterPick k } k d with
  | .next v =>
    let new := v.newStores k d u.nextId
    if new.isEmpty then .next u
    else andThen ((s.modCore k fun co => { co with memq := co.memq ++ new }).issueBundle k c) fun w =>
      .next (w.modCore k fun co => { co with memq := co.memq.filter (!new.contains ·) })
  | _ => .next u

/-- The primary issues. -/
def State.issueTurn (s : State) (k : Fin 64) (c : Fin 4) (second : Option (Fin 4)) : Host.Outcome State Fault Refusal :=
  let t := s.countWaits k (c :: second.toList)
  let t : State := { t with phase := match second with
    | some d => .second k d
    | none => afterPick k }
  match second with
  | none => t.issueBundle k c
  | some d =>
    if (t.forms k c).any fun i => !(headSources i).isEmpty then andThen (t.issueBundle k c) (t.issueBeside k c d)
    else t.issueBundle k c

/-- The secondary issues in the same cycle. -/
def State.secondTurn (s : State) (k : Fin 64) (c : Fin 4) : Host.Outcome State Fault Refusal :=
  State.issueBundle { s with phase := afterPick k } k c

/-- One step of the machine's own. -/
def State.ownStep (s : State) : Host.Outcome State Fault Refusal :=
  match s.phase with
  | .pick k => s.pickTurn k
  | .issue k c second => s.issueTurn k c second
  | .second k c => s.secondTurn k c
  | .store k => .next (s.storeTurn k)
  | .port k => .next (s.portTurn k)
  | .units => .next { s.unitsTurn with phase := .land 0 }
  | .land k => andThen (exec (.resultLand k) s) fun t => .next (t.landTurn k)
  | .tick => .next s.tickTurn

/-- A step that the agenda names; a slot word names none. -/
def State.event (s : State) (i : Instr) : Host.Outcome State Fault Refusal :=
  if (encode i).isSome then .next s else exec i s

/-- The agenda's next step if its moment has come, else a step of the machine's own (log entry 3). -/
def State.advance (s : State) : Host.Outcome State Fault Refusal :=
  match s.agenda with
  | [] => s.ownStep
  | (0, i) :: rest => State.event { s with agenda := rest } i
  | (n + 1, i) :: rest => State.ownStep { s with agenda := (n, i) :: rest }

/-- A step of the machine: a fresh draw, then the step (log entry 4). -/
def State.go (s : State) : Host.Outcome State Fault Refusal := s.redraw.advance

/-! ### Placing a word (log entry 6) -/

/-- Where a placed word stands. -/
def placedAt : Nat := 0x10000

/-- The page that a placed word lies in: resident, with every right, at the same address of HBM. -/
def placedEntry (rank : BitVec 7) : WinEntry :=
  ⟨0, placedAt, 1, .strong, 7, true, true, false, placedAt, 1, 1, rank.toNat⟩

/-- The launch that a placed word runs under: one task of one context, whose table maps the one page. -/
def placedLaunch (rank : BitVec 7) : Launch where
  queue := 0
  prio := 0
  part := 0
  cut := 1
  counts := [1]
  entry := BitVec.ofNat 64 placedAt
  qb := 0
  key := 0
  tbset := 0
  handlers := []
  ranges := []
  crec := 0
  trapv := 0
  signal := 0
  waits := []
  args := []
  msgctx := 0
  span := 1
  table := [placedEntry rank]
  stab := 0
  slotTable := none
  nextGroup := 1
  clusters := [(0, 0)]
  started := true
  completed := false
  kills := 0
  firstKill := none
  undelivered := 0
  made := []
  reset := false
  unrouted := false
  amended := false

/-- A word of every class, for a REP header to repeat. -/
def placedRep : RepBuf :=
  #v[some 0, some (slotWord 1 0 0), some (slotWord 2 0 0), some (slotWord 3 0x23 1), some (slotWord 4 0 0),
    some (slotWord 5 0 0), some (slotWord 6 8 0), some (slotWord 7 0 0)]

/-- The state in which context 0 of core 0 issues a bundle of the one word next. -/
def State.place (s : State) (w : Word) : State :=
  let l := s.launches.length
  let t := s.tasks.length
  let s : State := { s with
    stage := 2, agenda := [], phase := .issue 0 0 none
    mem := s.mem.write placedAt (leBytes 4 (setStop w).toNat)
    launches := s.launches ++ [placedLaunch s.rank]
    tasks := s.tasks ++ [⟨l, 0, 0, 0, 0, [0], false, s.sclk.toNat, none, false, none, 0, 0⟩] }
  let s := s.modCore 0 fun co => { co with windows := co.windows ++ [(l, [placedEntry s.rank])] }
  s.modCtx 0 0 fun cx =>
    { cx with
      state := .ready, wait := none, task := some t, reservedTask := some t, ending := false, stopped := false
      heldCut := none, bubble := 0, blockedOn := [], latched := [], reentry := false, qbound := 0
      tsp := if cx.task.isNone then topOfLocal 0 else cx.tsp
      pc := BitVec.ofNat 64 placedAt, fellThrough := true, repbuf := if isRep w then placedRep else cx.repbuf }

end Sys2Proof.Machine
end

