-- ==== Sys2Proof/Machine/Step.lean ====
section
/-! DEFINITION. One step of the machine, and the state in which the next step issues a given word. -/

namespace Sys2Proof.Machine

/-- One step: what the agenda names, or one part of a cycle. -/
def step (s : State) : Host.Outcome State Fault Refusal := s.go

/-- The state in which the next step issues the word (log entry 6). -/
def State.withFetchWord (s : State) (_nbits w : Nat) : State := s.place (BitVec.ofNat 32 w)

end Sys2Proof.Machine
end

