-- ==== Sys2Proof/Certificates/Slice0/Obligations.lean ====
section
/-! DEFINITION. The statements about the machine, for the provers: what each form does when it completes, where it
traps, what it leaves alone, and what holds of every step. -/

/-! ### The words the statements use -/

namespace Sys2Proof.Spec

open Sys2Proof Sys2Proof.Machine

/-- A scalar destination field that the device takes: s0-s31, or fo0-fo3 under a binding that R300 lets go. -/
def Writable (s : State) (f : BitVec 6) : Prop :=
  f.toNat < 32 ∨ bindingOk (s.binding s.cur.core s.cur.ctx (f.toNat - 32)) = true

/-- A scalar result on its way: to s0-s31, or onto fo0-fo3 for 32-35. -/
def landS (s : State) (f : BitVec 6) (v : Dword) (latency : Nat) : State :=
  s.land (if f.toNat < 32 then .scalar f.toNat v else .push (f.toNat - 32) v) latency

/-- The value of field B. -/
def srcB (s : State) (b : BitVec 6) : Dword := (s.readS 0 b).1
/-- The state after field B has been read: a fabric source has been popped. -/
def afterB (s : State) (b : BitVec 6) : State := (s.readS 0 b).2
/-- The value of field C, read after B. -/
def srcC (s : State) (b c : BitVec 6) : Dword := ((afterB s b).readS 1 c).1
/-- The state after fields B and C have been read. -/
def afterC (s : State) (b c : BitVec 6) : State := ((afterB s b).readS 1 c).2
/-- The old value of the register that field A names. -/
def oldA (s : State) (a : BitVec 6) : Dword := s.sreg 2 a.toNat

/-- The conditions of R112. -/
def Holds (cc : Nat) (x y : Dword) : Prop :=
  match cc with
  | 0 => x = y
  | 1 => x ≠ y
  | 2 => x.toInt < y.toInt
  | 3 => x.toInt ≥ y.toInt
  | 4 => x.toNat < y.toNat
  | 5 => x.toNat ≥ y.toNat
  | 6 => x.toInt > y.toInt
  | 7 => x.toInt ≤ y.toInt
  | 8 => x.toNat > y.toNat
  | 9 => x.toNat ≤ y.toNat
  | _ => False

/-- The number of bits of x that are set below bit n. -/
def setBits (x : Dword) : Nat → Nat
  | 0 => 0
  | n + 1 => setBits x n + (if x.getLsbD n then 1 else 0)

/-- A slot's trap: the context's entry with this cause, and this address where the rule names one. -/
def traps (s : State) (w : Cause) (a : Option Dword) : Host.Outcome State Fault Refusal :=
  outcome (s.slotTrap { cause := w, addr := a })

/-- Nothing of the issuing context is on its way to any of its registers. -/
def Quiet (s : State) : Prop := s.me.flight = [] ∧ s.me.async = []

/-- Two contexts agree in everything but the results and accesses on their way and the entries of the fi registers. -/
def SameRegisters (a b : Context) : Prop :=
  { a with flight := b.flight, async := b.async, fi := b.fi } = b

end Sys2Proof.Spec

open Sys2Proof Sys2Proof.Machine Sys2Proof.Spec

/-! ### Scalar and predicate forms -/

/-- R109: the two-source forms of latency 1 and 3 give the stated value, for every source and destination field. -/
def Obligations.ScalarTwoSourceResults : Prop :=
  ∀ (s : State) (u : ScalarUnit) (a b c : BitVec 6), Writable (afterC s b c) a →
    let x := srcB s b
    let y := srcC s b c
    let t := afterC s b c
    exec (.add u a b c) s = .next (landS t a (BitVec.ofInt 64 (x.toInt + y.toInt)) 1) ∧
    exec (.sub u a b c) s = .next (landS t a (BitVec.ofInt 64 (x.toInt - y.toInt)) 1) ∧
    exec (.mul u a b c) s = .next (landS t a (BitVec.ofNat 64 (x.toNat * y.toNat)) 3) ∧
    exec (.mulh u a b c) s = .next (landS t a (BitVec.ofInt 64 ((x.toInt * y.toInt) >>> 64)) 3) ∧
    exec (.mulhu u a b c) s = .next (landS t a (BitVec.ofNat 64 ((x.toNat * y.toNat) >>> 64)) 3) ∧
    exec (.and u a b c) s = .next (landS t a (x &&& y) 1) ∧
    exec (.or u a b c) s = .next (landS t a (x ||| y) 1) ∧
    exec (.xor u a b c) s = .next (landS t a (x ^^^ y) 1) ∧
    exec (.min u a b c) s = .next (landS t a (if x.toInt ≤ y.toInt then x else y) 1) ∧
    exec (.max u a b c) s = .next (landS t a (if x.toInt ≤ y.toInt then y else x) 1) ∧
    exec (.minu u a b c) s = .next (landS t a (if x.toNat ≤ y.toNat then x else y) 1) ∧
    exec (.maxu u a b c) s = .next (landS t a (if x.toNat ≤ y.toNat then y else x) 1)

/-- R111: DIV, DIVU, REM and REMU for every operand, the corners among them. -/
def Obligations.DivisionAndItsCorners : Prop :=
  ∀ (s : State) (u : ScalarUnit) (a b c : BitVec 6), Writable (afterC s b c) a →
    let x := srcB s b
    let y := srcC s b c
    let t := afterC s b c
    (y = 0 → ∀ i ∈ [Instr.div u a b c, .divu u a b c, .rem u a b c, .remu u a b c],
      exec i s = .next (landS t a 0xFFFFFFFFFFFFFFFF 18)) ∧
    (x = 0x8000000000000000 ∧ y = 0xFFFFFFFFFFFFFFFF →
      exec (.div u a b c) s = .next (landS t a 0x8000000000000000 18) ∧
      exec (.rem u a b c) s = .next (landS t a 0 18)) ∧
    (y ≠ 0 → ¬(x = 0x8000000000000000 ∧ y = 0xFFFFFFFFFFFFFFFF) →
      exec (.div u a b c) s = .next (landS t a (BitVec.ofInt 64 (x.toInt.tdiv y.toInt)) 18) ∧
      exec (.rem u a b c) s =
        .next (landS t a (BitVec.ofInt 64 (x.toInt - x.toInt.tdiv y.toInt * y.toInt)) 18)) ∧
    (y ≠ 0 →
      exec (.divu u a b c) s = .next (landS t a (BitVec.ofNat 64 (x.toNat / y.toNat)) 18) ∧
      exec (.remu u a b c) s =
        .next (landS t a (BitVec.ofNat 64 (x.toNat - x.toNat / y.toNat * y.toNat)) 18))

/-- R110: shifts by a register amount, by an immediate, and the funnel shifts. -/
def Obligations.ShiftAndFunnelResults : Prop :=
  ∀ (s : State) (u : ScalarUnit) (a b c : BitVec 6),
    let x := srcB s b
    let y := srcC s b c
    let t := afterC s b c
    (Writable t a →
      exec (.shl u a b c) s = .next (landS t a (if y.toNat ≤ 63 then x <<< y.toNat else 0) 1) ∧
      exec (.shr u a b c) s = .next (landS t a (if y.toNat ≤ 63 then x >>> y.toNat else 0) 1) ∧
      exec (.sar u a b c) s = .next (landS t a
        (if y.toNat ≤ 63 then x.sshiftRight y.toNat else if 0 ≤ x.toInt then 0 else 0xFFFFFFFFFFFFFFFF) 1)) ∧
    (Writable (afterB s b) a → ∀ n : BitVec 6,
      exec (.shli u a b n) s = .next (landS (afterB s b) a (x <<< n.toNat) 1) ∧
      exec (.shri u a b n) s = .next (landS (afterB s b) a (x >>> n.toNat) 1) ∧
      exec (.sari u a b n) s = .next (landS (afterB s b) a (x.sshiftRight n.toNat) 1)) ∧
    (a.toNat < 32 →
      exec (.fshl u a b c) s = .next (landS t a
        (BitVec.ofNat 64 (((oldA t a).toNat * 2 ^ 64 + x.toNat) * 2 ^ (y.toNat % 64) / 2 ^ 64)) 1) ∧
      exec (.fshr u a b c) s = .next (landS t a
        (BitVec.ofNat 64 (((oldA t a).toNat * 2 ^ 64 + x.toNat) / 2 ^ (y.toNat % 64))) 1))

/-- R109: the forms of one source or of an immediate, and those that read and write d. -/
def Obligations.ScalarOneSourceResults : Prop :=
  ∀ (s : State) (u : ScalarUnit) (a b c : BitVec 6) (i : BitVec 16),
    let x := srcB s b
    let t := afterB s b
    (Writable t a →
      exec (.mov u a b) s = .next (landS t a x 1) ∧
      exec (.popc u a b) s = .next (landS t a (BitVec.ofNat 64 (setBits x 64)) 1) ∧
      (x = 0 → exec (.clz u a b) s = .next (landS t a 64 1) ∧ exec (.ctz u a b) s = .next (landS t a 64 1)) ∧
      (x ≠ 0 → ∃ n m : Nat,
        exec (.clz u a b) s = .next (landS t a (BitVec.ofNat 64 n) 1) ∧
        2 ^ (63 - n) ≤ x.toNat ∧ x.toNat < 2 ^ (64 - n) ∧ n ≤ 63 ∧
        exec (.ctz u a b) s = .next (landS t a (BitVec.ofNat 64 m) 1) ∧
        m ≤ 63 ∧ 2 ^ m ∣ x.toNat ∧ ¬ 2 ^ (m + 1) ∣ x.toNat)) ∧
    (Writable s a → exec (.li u a i) s = .next (landS s a (BitVec.ofInt 64 i.toInt) 1)) ∧
    (a.toNat < 32 →
      exec (.addi u a i) s = .next (landS s a (BitVec.ofInt 64 ((oldA s a).toInt + i.toInt)) 1) ∧
      exec (.andi u a i) s = .next (landS s a (oldA s a &&& BitVec.ofInt 64 i.toInt) 1) ∧
      exec (.ori u a i) s = .next (landS s a (oldA s a ||| BitVec.ofNat 64 i.toNat) 1) ∧
      exec (.xori u a i) s = .next (landS s a (oldA s a ^^^ BitVec.ofNat 64 i.toNat) 1) ∧
      exec (.lih u a i) s = .next (landS s a ((oldA s a <<< 16) ||| BitVec.ofNat 64 i.toNat) 1) ∧
      exec (.sel u a b c) s = .next (landS (afterC s b c) a
        (if oldA (afterC s b c) a ≠ 0 then x else srcC s b c) 1))

open Classical in
/-- R112: CMP and CMPI write 1 where the condition of their MOD field holds, else 0; a word with MOD 10 to 15 decodes
to nothing. -/
def Obligations.CompareWritesOneOrZero : Prop :=
  ∀ (s : State) (u : ScalarUnit) (a b c : BitVec 6) (k : BitVec 4),
    (encode (.cmp u a b c k) = some (slotWord u.cls 32 (a ++ b ++ c ++ k)) ∧
      encode (.cmpi u a b c k) = some (slotWord u.cls 33 (a ++ b ++ c ++ k))) ∧
    (10 ≤ k.toNat → decode (slotWord u.cls 32 (a ++ b ++ c ++ k)) = none ∧
      decode (slotWord u.cls 33 (a ++ b ++ c ++ k)) = none) ∧
    (k.toNat ≤ 9 →
      (Writable (afterC s b c) a →
        exec (.cmp u a b c k) s =
          .next (landS (afterC s b c) a (if Holds k.toNat (srcB s b) (srcC s b c) then 1 else 0) 1)) ∧
      (Writable (afterB s b) a →
        exec (.cmpi u a b c k) s =
          .next (landS (afterB s b) a (if Holds k.toNat (srcB s b) (BitVec.ofInt 64 c.toInt) then 1 else 0) 1)))

/-- R113: the predicate forms: their words, their results at latency 1, and the reserved MOD values of QFROMS. -/
def Obligations.PredicateResults : Prop :=
  ∀ (s : State) (u : ScalarUnit) (a b c : BitVec 6),
    let p := s.qreg 0 b.toNat
    let r := s.qreg 1 c.toNat
    exec (.qand u a b c) s = .next (s.land (.pred a.toNat (p &&& r)) 1) ∧
    exec (.qor u a b c) s = .next (s.land (.pred a.toNat (p ||| r)) 1) ∧
    exec (.qxor u a b c) s = .next (s.land (.pred a.toNat (p ^^^ r)) 1) ∧
    exec (.qnot u a b) s = .next (s.land (.pred a.toNat (~~~ p)) 1) ∧
    exec (.qfroms u a b 0) s = .next ((afterB s b).land (.pred a.toNat (srcB s b)) 1) ∧
    exec (.qfroms u a b 1) s = .next ((afterB s b).land
      (.pred a.toNat (if srcB s b = 0 then 0 else 0xFFFFFFFFFFFFFFFF)) 1) ∧
    (Writable s a →
      exec (.qtos u a b) s = .next (landS s a p 1) ∧
      exec (.qpopc u a b) s = .next (landS s a (BitVec.ofNat 64 (setBits p 64)) 1)) ∧
    (24 = b.toNat → p = 0xFFFFFFFFFFFFFFFF) ∧ (24 = c.toNat → r = 0xFFFFFFFFFFFFFFFF) ∧
    (∀ f ∈ ([(Instr.qand u a b c, slotWord u.cls 0x25 (a ++ b ++ c ++ 0#4)),
        (.qor u a b c, slotWord u.cls 0x26 (a ++ b ++ c ++ 0#4)), (.qxor u a b c, slotWord u.cls 0x27 (a ++ b ++ c ++ 0#4)),
        (.qnot u a b, slotWord u.cls 0x28 (a ++ b ++ 0#10)), (.qfroms u a b 0, slotWord u.cls 0x29 (a ++ b ++ 0#10)),
        (.qfroms u a b 1, slotWord u.cls 0x29 (a ++ b ++ 1#10)), (.qtos u a b, slotWord u.cls 0x2A (a ++ b ++ 0#10)),
        (.qpopc u a b, slotWord u.cls 0x2B (a ++ b ++ 0#10))] : List (Instr × Word)), encode f.1 = some f.2) ∧
    (∀ k : BitVec 4, 2 ≤ k.toNat → decode (slotWord u.cls 0x29 (a ++ b ++ 0#6 ++ k)) = none)

/-- R27, R58: with nothing on its way, a source field reads the register it names; s0 reads zero, `qall` all ones;
a fabric source gives the oldest entry of its fi register and takes it away (R54). -/
def Sys2Proof.Spec.QuietSourcesReadTheirRegisters : Prop :=
  ∀ (s : State) (pos : Nat), Quiet s →
    (∀ r : Fin 32, s.sreg pos r = if r = 0 then 0 else s.me.sregs.get r) ∧
    (∀ q : Fin 24, s.qreg pos q = s.me.preds.get q) ∧ s.qreg pos 24 = BitVec.allOnes 64 ∧
    (∀ r : Fin 32, s.vreg pos r = s.me.vregs.get r) ∧
    (∀ f : BitVec 6, f.toNat < 32 → s.readS pos f = (s.sreg pos f.toNat, s)) ∧
    (∀ (f : Fin 4) (v : Dword) (q : List Dword), s.me.fi.get f = v :: q →
      (s.readS pos (BitVec.ofNat 6 (32 + f))).1 = v ∧
      (s.readS pos (BitVec.ofNat 6 (32 + f))).2.me.fi.get f = q ∧
      SameRegisters (s.readS pos (BitVec.ofNat 6 (32 + f))).2.me s.me)

/-! ### Reset, memory, decoding and the step -/

/-- R5, R14, R28, R49, R321, R323 and the register maps that name a reset value: what reset leaves in every context, in
every circular buffer, sillage, claim slot, binding and queue, and in the registers the host reads: no context runs, every
register holds the value that its map gives for reset, the device is in stage 0. (EVBASE, whose rule gives none, and what no
map names are the model's choice: log entry 2.) -/
def Sys2Proof.Spec.ResetRegisters : Prop :=
  State.reset.stage = 0 ∧ State.reset.sclk = 0 ∧ State.reset.launches = [] ∧ State.reset.tasks = [] ∧
  (∀ (k : Fin 64) (c : Fin 4), let cx := State.reset.ctx k c
    cx.state = .free ∧
    (∀ r : Fin 32, cx.vregs.get r = ⟨0, Vector.replicate 64 0⟩) ∧ (∀ q : Fin 24, cx.preds.get q = 0) ∧
    (∀ n : Fin 16, cx.nfc.get n = 0) ∧ cx.qcount = 0 ∧ cx.qmiss = false ∧ cx.loops = [] ∧
    cx.pbsr = 0 ∧ cx.pbsw = 0 ∧ cx.pbmem = 0 ∧
    cx.copy.rows = 1 ∧ cx.copy.rowb = 256 ∧ cx.copy.ests = 0 ∧ cx.copy.estd = 0 ∧ cx.copy.ecfg = 0x8000 ∧
    cx.tm = false ∧ cx.xfer = false ∧ cx.snapshot = [] ∧ cx.blk = 0 ∧ cx.resume = 0 ∧ cx.tcause = 0 ∧ cx.ncause = 0 ∧
    cx.taddr = 0 ∧ cx.tepc = 0 ∧
    (∀ f : Fin 4, ((State.reset.fbind.get k).get c).get f = 0)) ∧
  (∀ k : Fin 64, (State.reset.core k).holdcy = 0 ∧ (State.reset.core k).engineTiles = [] ∧
    (∀ h : Fin 16, let r := (State.reset.core k).rings.get h
      r.holder = none ∧ r.role = false ∧ r.base = 0 ∧ r.len = 1 ∧ r.pp = 0 ∧ r.cp = 0 ∧ r.poff = 0 ∧ r.coff = 0 ∧
        r.tag = 0) ∧
    (∀ d : Fin 16, let e := (State.reset.core k).sketches.get d
      e.silE = 0 ∧ e.silN = 0 ∧ e.silK = 0 ∧ e.pois = false)) ∧
  (∀ n : Fin 16, (State.reset.claims.get n).status = 0) ∧
  (∀ q : Fin 64, let r := State.reset.queues.get q
    r.base = 0 ∧ r.en = false ∧ r.irq = false ∧ r.vec = 0 ∧ r.lsz = 4 ∧ r.part = 0 ∧ r.prio = 0 ∧ r.tail = 0 ∧
      r.head = 0 ∧ r.derr = false) ∧
  (let g := State.reset.regs
   g.csave = 0 ∧ g.spoolb = 0 ∧ g.spooln = 0 ∧ g.dstopGo = false ∧ g.dstopPmax = 7 ∧ g.dtarget = 0 ∧
    g.mnqb = 0 ∧ g.mnqh = 0 ∧ g.mnqt = 0 ∧ g.mnqOvf = false ∧ g.mnqDrop = 0 ∧ g.mthr = 0 ∧
    g.cmpEn = false ∧ g.cmpBusy = false ∧ g.cmpVec = 0 ∧ g.cxsize = 0 ∧ g.cmeta = 0 ∧ g.cpool = 0 ∧ g.cfree = 0 ∧
    g.cresv = 0 ∧ g.clow = 0 ∧ g.skbnd = 1400000 ∧ g.skActive = false ∧ g.skResv = false ∧ g.hdrop = 0 ∧ g.oosn = 0 ∧
    g.balPend = false ∧ g.balSect = 0 ∧ g.splb = 0 ∧ g.spln = 0 ∧ g.evqb = 0 ∧ g.evqh = 0 ∧ g.evqt = 0 ∧
    g.fnqb = 0 ∧ g.fnqh = 0 ∧ g.fnqt = 0 ∧ g.bwin = 0 ∧ (∀ i : Fin 8, g.bgrp.get i = 0) ∧
    (∀ w : Fin 8, g.rdwin.get w = ⟨0, 0⟩) ∧ g.lost = 0 ∧ g.rddup = 0 ∧ (∀ x : Fin 4, g.pexp.get x = (0, 0)) ∧
    g.hclval = 0 ∧ g.hclsel = 0 ∧ g.hclerr = 0 ∧ g.h2base = 0 ∧ g.h2key = 0 ∧ g.cecnt = 0 ∧ g.uecnt = 0 ∧
    g.svcBusy = false ∧ g.svcRes = 0 ∧ (∀ p : Fin 8, g.pcfg.get p = if p = 0 then 0xFFFF0000FFFFFFFF else 0) ∧
    g.plim = 2600 ∧ g.mhz = 1400 ∧ g.watts = 0 ∧ g.vfail = false) ∧
  (∀ l : Fin 10, (State.reset.links.get l).up = false) ∧
  State.reset.bar0 0x230 = 0 ∧ State.reset.bar0 0x700 = 0

/-- Memory after reset lists nothing and is in canonical form. -/
def Sys2Proof.Spec.ResetMemoryIsCanonical : Prop :=
  State.reset.mem.wf ∧ State.reset.mem.cells = []

/-- Every step keeps memory in canonical form: keys rise strictly and no byte is listed that reads the same
unlisted. -/
def Obligations.StepKeepsMemoryCanonical : Prop :=
  ∀ s t : State, s.mem.wf → step s = .next t → t.mem.wf

/-- R3: a byte just written reads back, a byte elsewhere reads as before, and a value of n bytes reads back. -/
def Obligations.ReadAfterWrite : Prop :=
  (∀ (m : Memory) (a : Nat) (bs : List Byte) (i : Nat) (b : Byte), bs[i]? = some b → (m.write a bs).read (a + i) = b) ∧
  (∀ (m : Memory) (a k : Nat) (bs : List Byte), k < a ∨ a + bs.length ≤ k → (m.write a bs).read k = m.read k) ∧
  (∀ (s : State) (k n v : Nat), k + n ≤ peerBase → v < 256 ^ n → (s.putValue k n v).value k n = v)

/-- R50, R52, R56: the decoder gives back every well-formed instruction from its word, with STOP clear or set; and
what it reads from a word has that word as its encoding and no reserved operand, so no other word means it. -/
def Obligations.DecodeAndEncodeAgree : Prop :=
  (∀ (i : Instr) (w : Word), encode i = some w → i.wellFormed = true → decode w = some i ∧ decode (setStop w) = some i) ∧
  (∀ (w : Word) (i : Instr), decode w = some i → encode i = some (clearStop w) ∧ i.wellFormed = true)

/-- Words that the manual works to the bit decode to the instructions it gives them. -/
def Obligations.WorkedWordsDecode : Prop :=
  decode 0x90090420 = some (.add .s0 9 1 2) ∧
  decode 0xA3070C40 = some (.xor .s1 7 3 4) ∧
  decode 0xC0C40830 = some (.vfma .v0 4 2 3 0 0) ∧
  decode 0xE18400C5 = some (.xdrn 4 0 0 3 5) ∧
  decode 0x82030064 = some (.loopi 3 100) ∧
  decode 0x82C62023 = some (.spawn 6 8 2 3) ∧
  decode 0x984507F2 = some (.cmpi .s0 5 1 0x3F 2) ∧
  decode 0xB1051002 = some (.ldw 5 4 2) ∧
  decode 0xB5061C85 = some (.aadd 6 7 8 1 0 1) ∧
  decode 0x83C20000 = some (.waitb 2 0) ∧
  decode 0x85831110 = some (.blz 3 4 2 1)

namespace Sys2Proof.Spec

/-- The state in which the bundle of a context issues: the draw and the wait counts have moved, and the phase that
follows is set. -/
def issuing (s : State) (k : Fin 64) (c : Fin 4) (second : Option (Fin 4)) : State :=
  { s.redraw.countWaits k (c :: second.toList) with phase := match second with
      | some d => .second k d
      | none => afterPick k }

/-- Slots from left to right, each by `exec` under its own word, with a fresh draw after it; nothing issues after a
slot that has trapped or has taken the context away (R57). -/
def inOrder (s : State) : List (Nat × Word × Instr) → Host.Outcome State Fault Refusal
  | [] => .next s
  | (u, w, i) :: rest =>
    if s.cur.stopped then .next s else andThen (exec i (s.atSlot u w)) fun t => inOrder t.redraw rest

/-- What stands around the bundle of a primary: one that reads a ring head, and merges with a secondary, issues beside
the stores that the secondary makes in the same cycle (R99, R131, R187); around any other nothing stands. -/
def beside (s : State) (k : Fin 64) (c : Fin 4) (second : Option (Fin 4)) (o : Host.Outcome State Fault Refusal) :
    Host.Outcome State Fault Refusal :=
  match second with
  | none => o
  | some d => if (s.forms k c).any (fun i => !(headSources i).isEmpty) then andThen o (s.issueBeside k c d) else o

end Sys2Proof.Spec

/-- R55-R57: a step that issues a bundle runs `exec` of each instruction that the words at the program counter decode
to, in ascending unit class, and then completes the bundle; a bundle of one slot is `exec` of its one instruction. Only
a primary that reads a ring head beside a secondary has more around it, and that is named. -/
def Obligations.StepRunsTheDecodedBundle : Prop :=
  ∀ (s : State) (k : Fin 64) (c : Fin 4) (second : Option (Fin 4)) (b : Bundle) (is : List (Nat × Word × Instr)),
    s.agenda = [] → s.phase = .issue k c second →
    let s0 := issuing s k c second
    (s0.ctx k c).nextLatched = none → s0.bundleAt k c = .ok b → (s0.ctx k c).overQuota = false →
    (∀ h, b.words.head? = some h → isRep h = false) →
    (s0.ctx k c).toIssue b.slots = is.map (fun p => (p.1, p.2.1)) →
    (∀ p ∈ is, decode p.2.1 = some p.2.2) →
    step s = beside s0 k c second (andThen (inOrder (s0.begin k c b) is) fun t => t.complete b.slots) ∧
    (∀ u w i, is = [(u, w, i)] →
      step s = beside s0 k c second
        (andThen (exec i ((s0.begin k c b).atSlot u w)) fun t => t.redraw.complete b.slots))

/-- R63: a step that issues a bundle behind a REP header runs `exec` of the REP first, and then the slots of the
expansion it leaves. -/
def Sys2Proof.Spec.StepRunsRepThenItsSlots : Prop :=
  ∀ (s : State) (k : Fin 64) (c : Fin 4) (second : Option (Fin 4)) (b : Bundle) (h : Word) (same : BitVec 8)
    (inc : BitVec 14),
    s.agenda = [] → s.phase = .issue k c second →
    let s0 := issuing s k c second
    (s0.ctx k c).nextLatched = none → s0.bundleAt k c = .ok b → (s0.ctx k c).overQuota = false →
    b.words.head? = some h → isRep h = true → decode h = some (.rep same inc) →
    step s = beside s0 k c second (andThen (exec (.rep same inc) ((s0.begin k c b).atSlot 0 h)) fun t =>
      andThen (runSlots t ((s0.ctx k c).toIssue t.cur.expansion)) fun u => u.complete t.cur.expansion)

/-- Log entry 3 (the model's choice): a step whose moment the agenda names runs `exec` of that event, and while the
moment is still to come the machine makes a step of its own. -/
def Obligations.StepRunsTheAgendaEvent : Prop :=
  ∀ (s : State) (i : Instr) (rest : List (Nat × Instr)),
    (s.agenda = (0, i) :: rest → encode i = none → step s = exec i { s.redraw with agenda := rest }) ∧
    (∀ n, s.agenda = (n + 1, i) :: rest → step s = State.ownStep { s.redraw with agenda := (n, i) :: rest })

namespace Sys2Proof.Spec

/-! What an access is: its bytes, what may be touched, and what issuing it does. -/

/-- What R95, R96, R133, R253 and R283 ask of one byte of an access by a context: in local memory a tile of the task that
the engine does not own; in the own landing nothing; in main memory a mapped page that is resident and grants the right,
and an exposed one only where compression is on. Bundles stand in main memory alone. -/
def MayTouch (s : State) (k : Fin 64) (c : Fin 4) (right : Right) (a : Nat) : Prop :=
  rangeOf k a ≠ .remote ∧ (right = .execute → rangeOf k a = .main) ∧
    (rangeOf k a = .loc → s.taskTile k c ((a - Config.locbase) / Config.tileBytes) = true ∧
      (a - Config.locbase) / Config.tileBytes ∉ (s.core k).engineTiles) ∧
    (rangeOf k a = .main → ∃ e ∈ s.entryOf k c a, e.perm.getLsbD right.bit = true ∧ e.res = true ∧
      (e.comp = true → s.regs.cmpEn = true))

/-- The bytes at these addresses may be accessed by a context: all lie in the range of the base and may be touched, and
memory stands behind them (R133). -/
def AccessibleBy (s : State) (k : Fin 64) (c : Fin 4) (right : Right) (base : Nat) (as : List Nat) : Prop :=
  ∀ a ∈ as, rangeOf k a = rangeOf k base ∧ MayTouch s k c right a ∧ keyAbsent (s.keyOf k c a) = false

/-- The bytes may be accessed by the issuing context. -/
def Accessible (s : State) (right : Right) (base : Nat) (as : List Nat) : Prop :=
  AccessibleBy s s.cur.core s.cur.ctx right base as

/-- The addresses of a trap record, and its keys (R257). -/
def recordRun (a : Dword) : List Nat := addrRun a.toNat 64
def recordAt (s : State) (k : Fin 64) (c : Fin 4) (a : Dword) : List Nat := (recordRun a).map (s.keyOf k c)

/-- The 64 bytes of a trap record may be accessed. -/
def RecordOpen (s : State) (k : Fin 64) (c : Fin 4) (right : Right) (a : Dword) : Prop :=
  AccessibleBy s k c right a.toNat (recordRun a)

/-- The four bytes of a slot word may be fetched, and hold this word. -/
def Fetches (s : State) (k : Fin 64) (c : Fin 4) (a : Dword) (w : Word) : Prop :=
  AccessibleBy s k c .execute a.toNat (addrRun a.toNat 4) ∧
    w = BitVec.ofNat 32 (leValue ((addrRun a.toNat 4).map fun y => s.byte (s.keyOf k c y)))

/-- The keys of the bytes at these addresses. -/
def keysAt (s : State) (as : List Nat) : List Nat := as.map (s.keyOf s.cur.core s.cur.ctx)

/-- The bytes of a store: byte i of a run goes to the key of address i. -/
def storeCellsOf (s : State) (as : List Nat) (bs : List Byte) : List (Nat × Byte) := (keysAt s as).zip bs

/-- The bytes lie in one page. -/
def OnePage (s : State) (as : List Nat) : Prop :=
  ∀ a ∈ as, ∀ b ∈ as, s.pageOf s.cur.core s.cur.ctx a = s.pageOf s.cur.core s.cur.ctx b

/-- Every context but the issuing one is as before. -/
def OthersUnmoved (s t : State) : Prop := ∀ k c, k ≠ s.cur.core ∨ c ≠ s.cur.ctx → t.ctx k c = s.ctx k c

/-- An access of the issuing context has been issued and no register has moved. In main memory it is charged and
outstanding, in one part for each page it touches (R226); in local memory and the own landing it is on its way, to be
made at the end of the next cycle or the one after it. No byte of memory has moved yet, but for a notification of the
access counters. -/
def Issued (s t : State) (as : List Nat) (act : MemAct) (charge : Nat) : Prop :=
  let main := ∀ a ∈ as, rangeOf s.cur.core a = .main
  let loc := ∀ a ∈ as, rangeOf s.cur.core a = .loc
  let own := ∀ a ∈ as, rangeOf s.cur.core a = .own
  OthersUnmoved s t ∧ SameRegisters { t.me with pbmem := s.me.pbmem } s.me ∧ t.cur = s.cur ∧
  (main → t.me.pbmem = s.me.pbmem + charge ∧ (s.regs.mthr = 0 → t.mem = s.mem) ∧
    (∀ i < as.length, ∃ a ∈ t.me.async, a.whole = s.nextId ∧ i ∈ a.places ∧ a.act = act.atPlaces a.places ∧
      ∀ j ∈ a.places, ∃ x y, as[i]? = some x ∧ as[j]? = some y ∧
        s.pageOf s.cur.core s.cur.ctx y = s.pageOf s.cur.core s.cur.ctx x) ∧
    (OnePage s as → ∃ a ∈ t.me.async, a.id = s.nextId ∧ a.places = List.range as.length ∧
      a.act = act.atPlaces a.places ∧ a.charge = charge)) ∧
  (loc ∨ own → t.me.pbmem = s.me.pbmem ∧ t.mem = s.mem ∧
    ∃ m, t.myCore.memq = s.myCore.memq ++ [m] ∧ m.id = s.nextId ∧ m.ctx = s.cur.ctx ∧ m.act = act ∧
      (loc → m.left = 2) ∧ (own → m.left = 3))

/-- A value is promised to its register at the latencies of R131. -/
def Promised (s t : State) (as : List Nat) (w : Landing) (localLat ownLat : Nat) : Prop :=
  ((∀ a ∈ as, rangeOf s.cur.core a = .loc) → ∃ f ∈ t.me.flight, f.what = w ∧ f.left = localLat) ∧
  ((∀ a ∈ as, rangeOf s.cur.core a = .own) → ∃ f ∈ t.me.flight, f.what = w ∧ f.left = ownLat)

/-- A window that is enabled and holds a device address of a device (R303). -/
def Within (w : RedWindow) (rank : BitVec 7) (d : Nat) : Prop :=
  w.dword1.getLsbD 63 = true ∧ w.dword1.extractLsb' 16 7 = rank ∧
    w.dword0.toNat / 4096 * 4096 ≤ d ∧ d < w.dword0.toNat / 4096 * 4096 + bits w.dword1 15 0 * 4096

/-- The first enabled reduction window of a device that a device address lies in. -/
def InWindow (s : State) (win : Fin 8) (rank : BitVec 7) (d : Nat) : Prop :=
  Within (s.regs.rdwin.get win) rank d ∧ ∀ j : Fin 8, j < win → ¬ Within (s.regs.rdwin.get j) rank d

end Sys2Proof.Spec

/-! ### Control forms -/

namespace Sys2Proof.Spec

/-- The state with a transfer noted for the end of the bundle. -/
def noted (s : State) (k : XferKind) (target : Dword) (count stop : Dword := 0) : State :=
  { s with cur := { s.cur with xfer := some ⟨k, target, count, stop⟩ } }

/-- The tests of BRQ (R115). -/
def Taken (t : Nat) (q : Dword) : Prop :=
  match t with
  | 0 => q ≠ 0
  | 1 => q = BitVec.allOnes 64
  | 2 => q = 0
  | _ => q ≠ BitVec.allOnes 64

/-- The address that a word offset from the bundle in hand names. -/
def wordsOn (s : State) (n : Int) : Dword := BitVec.ofInt 64 (s.cur.addr.toNat + 4 * n)

/-- A target lies outside the body of a loop entry. -/
def Outside (x : Dword) (e : LoopEntry) : Prop := x.toNat < e.start.toNat ∨ e.stop.toNat < x.toNat

/-- The bundle in hand holds no EXIT and no TRAP, and none of its slots has trapped. -/
def Completes (s : State) : Prop := s.cur.stopped = false ∧ s.cur.exit = false ∧ s.cur.soft = none

/-- The displacement of a word of class M, and the k-indices of XPUSH and XSHFT and of XDRN (R134, R177). -/
def fieldD (w : Word) : Int := (w.extractLsb' 0 10).toInt
def fieldK (w : Word) : Int := (w.extractLsb' 0 8).toNat
def fieldR (w : Word) : Int := (w.extractLsb' 6 7).toNat
/-- XPUSH and XSHFT, and XDRN, by their opcodes in class X (R177). -/
def wideK (w : Word) : Prop := wordOp w = 3 ∨ wordOp w = 4
def drainK (w : Word) : Prop := wordOp w = 6

/-- The field that a REP header moves stays in its range. -/
def StaysInRange (u : Fin 8) (w : Word) (inc : BitVec 14) : Prop :=
  (u.val = 3 → opHasD (wordOp w) = true → -512 ≤ fieldD w + inc.toInt ∧ fieldD w + inc.toInt ≤ 511) ∧
  (u.val = 6 → wideK w → 0 ≤ fieldK w + inc.toInt ∧ fieldK w + inc.toInt ≤ 255) ∧
  (u.val = 6 → drainK w → 0 ≤ fieldR w + inc.toInt ∧ fieldR w + inc.toInt ≤ 127)

/-- The tests at a loop slot (R117). -/
def LoopIllegal (s : State) (n : Dword) : Prop :=
  n.toNat < s.cur.next.toNat ∨ s.me.loops.length ≥ 4 ∨ (∃ e ∈ s.me.loops, e.stop = n) ∨
    (∃ e ∈ s.me.loops.head?, e.stop = s.cur.addr)

end Sys2Proof.Spec

/-- R115: BR, BRQ, CALL, JR, CALLR and RET note the transfer to the stated target, CALL and CALLR write the link
register, and a register target whose low two bits are not zero traps ILLEGAL with the target in TADDR. -/
def Sys2Proof.Spec.TransfersNoteTheirTarget : Prop :=
  ∀ (s : State) (i : BitVec 22) (a b : BitVec 6) (t : BitVec 2) (d : BitVec 14),
    exec (.br i) s = .next (noted s .br (wordsOn s i.toInt)) ∧
    exec (.call i) s = .next (noted (s.land (.link s.cur.next) 1) .call (wordsOn s i.toInt)) ∧
    (Taken t.toNat (s.qreg 0 a.toNat) → exec (.brq a t d) s = .next (noted s .brq (wordsOn s d.toInt))) ∧
    (¬ Taken t.toNat (s.qreg 0 a.toNat) → exec (.brq a t d) s = .next s) ∧
    let x := s.sreg 0 b.toNat
    (x.toNat % 4 = 0 →
      exec (.jr b) s = .next (noted s .jr x) ∧
      exec (.callr b) s = .next (noted (s.land (.link s.cur.next) 1) .callr x) ∧
      exec (.ret b) s = .next (noted s .ret x)) ∧
    (x.toNat % 4 ≠ 0 → ∀ j ∈ [Instr.jr b, .callr b, .ret b], exec j s = traps s .illegal (some x))

/-- R114, R118: where a bundle leads that has a transfer: the program counter takes the target, a taken BR, BRQ or JR
pops the loops whose body the target leaves, CALL, CALLR and RET keep the stack, and the next bundle is one or three
cycles on. Other contexts and memory stay as they are. -/
def Sys2Proof.Spec.TransferTakesEffectAtCompletion : Prop :=
  ∀ (s : State) (slots : RepBuf) (x : Xfer), Completes s → s.cur.xfer = some x →
    ∃ t, s.complete slots = .next t ∧ t.mem = s.mem ∧
      (∀ k c, k ≠ s.cur.core ∨ c ≠ s.cur.ctx → t.ctx k c = s.ctx k c) ∧
      t.me.sregs = s.me.sregs ∧ t.me.vregs = s.me.vregs ∧ t.me.preds = s.me.preds ∧ t.me.repbuf = slots ∧
      ((x.kind = .br ∨ x.kind = .brq ∨ x.kind = .jr) →
        t.me.pc = x.target ∧
        (∃ gone, s.me.loops = gone ++ t.me.loops ∧ (∀ e ∈ gone, Outside x.target e)) ∧
        (∀ e ∈ t.me.loops.head?, ¬ Outside x.target e)) ∧
      ((x.kind = .call ∨ x.kind = .callr ∨ x.kind = .ret) → t.me.pc = x.target ∧ t.me.loops = s.me.loops) ∧
      ((x.kind = .loop ∨ x.kind = .loopi) → x.count ≠ 0 →
        t.me.pc = x.target ∧ t.me.loops = ⟨x.target, x.stop, x.count⟩ :: s.me.loops) ∧
      ((x.kind = .loop ∨ x.kind = .loopi) → x.count = 0 →
        t.me.loops = s.me.loops ∧ ∀ a, s.after s.cur.core s.cur.ctx x.stop = .ok a → t.me.pc = a) ∧
      ((x.kind = .brq ∨ x.kind = .jr ∨ x.kind = .callr ∨ x.kind = .ret) → 3 ≤ t.me.bubble) ∧ 1 ≤ t.me.bubble

/-- R118: where a bundle leads that has no transfer: at the end of the innermost loop the count falls by one, and the
body begins again or the entry is popped; elsewhere the next bundle in memory follows. -/
def Sys2Proof.Spec.LoopEndCountsOrPops : Prop :=
  ∀ (s : State) (slots : RepBuf), Completes s → s.cur.xfer = none →
    ∃ t, s.complete slots = .next t ∧ t.mem = s.mem ∧
      (∀ k c, k ≠ s.cur.core ∨ c ≠ s.cur.ctx → t.ctx k c = s.ctx k c) ∧
      (s.me.loops = [] → t.me.pc = s.cur.next ∧ t.me.loops = []) ∧
      (∀ e es, s.me.loops = e :: es →
        (s.cur.addr ≠ e.stop → t.me.pc = s.cur.next ∧ t.me.loops = e :: es) ∧
        (s.cur.addr = e.stop → e.count = 1 → t.me.pc = s.cur.next ∧ t.me.loops = es) ∧
        (s.cur.addr = e.stop → e.count ≠ 1 →
          t.me.pc = e.start ∧ t.me.loops = { e with count := e.count - 1 } :: es ∧ t.me.fellThrough = false))

/-- R117: the tests of LOOP and LOOPI trap ILLEGAL; else a count above zero notes the push, and a count of zero the
skip, once the length of the bundle at N has been read. -/
def Sys2Proof.Spec.LoopFormsTestThenNote : Prop :=
  ∀ (s : State) (a d : BitVec 6) (i n : BitVec 16),
    let e := wordsOn s i.toNat
    let e' := wordsOn s d.toNat
    (LoopIllegal s e → exec (.loop a i) s = traps s .illegal none) ∧
    (LoopIllegal s e' → exec (.loopi d n) s = traps s .illegal none) ∧
    (¬ LoopIllegal s e →
      (s.sreg 0 a.toNat ≠ 0 ∨ (∃ x, s.after s.cur.core s.cur.ctx e = .ok x)) →
      exec (.loop a i) s = .next (noted s .loop s.cur.next (s.sreg 0 a.toNat) e)) ∧
    (¬ LoopIllegal s e' → (n ≠ 0 ∨ (∃ x, s.after s.cur.core s.cur.ctx e' = .ok x)) →
      exec (.loopi d n) s = .next (noted s .loopi s.cur.next (BitVec.ofNat 64 n.toNat) e'))

/-- R119, R151, R231: NOP has no effect; an issued WAITB moves nothing, and what its counters count and the log holds
stands before what the context does next (log entry 8): with nothing in the log, and no group defined, it changes nothing.
EXIT is noted, and at the end of its bundle the context ends, or in trap mode its task is killed with the cause in
TCAUSE. -/
def Sys2Proof.Spec.NopWaitbAndExit : Prop :=
  ∀ (s : State) (slots : RepBuf) (k : BitVec 2) (i : BitVec 16),
    exec .nop s = .next s ∧
    (∃ (t : State) (seen : List Nat), exec (.waitb k i) s = .next t ∧
      t = s.modMe (fun cx => { cx with edges := cx.edges ++ seen.map (·, 5), view := t.me.view }) ∧
      (∀ x ∈ seen, ∃ e ∈ s.log, e.acc.id = x ∧
        (e.agent = .context s.cur.core s.cur.ctx ∨ e.agent = .channel s.cur.core s.cur.ctx)) ∧
      (2 ≤ k.toNat → i = 0 → ∀ e ∈ s.log, e.agent = .context s.cur.core s.cur.ctx →
        e.acc.act.keys.any chipKey = false → e.acc.id ∈ seen) ∧
      (s.log = [] → s.grouped = false → t = s)) ∧
    exec .exit s = .next { s with cur := { s.cur with exit := true } } ∧
    (s.cur.exit = true → s.cur.stopped = false → s.me.tm = false →
      ∃ t, s.complete slots = .next t ∧ t.me.ending = true ∧ t.mem = s.mem ∧ t.me.sregs = s.me.sregs ∧
        ∀ k c, k ≠ s.cur.core ∨ c ≠ s.cur.ctx → t.ctx k c = s.ctx k c) ∧
    (∀ n tk, s.cur.exit = true → s.cur.stopped = false → s.me.tm = true → s.me.task = some n → s.task n = some tk →
      tk.killed = none →
      ∃ t, s.complete slots = .next t ∧ (t.task n).bind (·.killed) = some s.me.tcause.toNat)

/-- R151: a WAITB holds its bundle while a counter it names is above its limit in units of 256 bytes. -/
def Sys2Proof.Spec.WaitbHoldsAboveItsLimit : Prop :=
  ∀ (s : State) (k : BitVec 2) (i : BitVec 16),
    s.formWaits (.waitb k i) = true ↔
      ((k = 0 ∨ k = 3) ∧ i.toNat * 256 < s.me.pbsr) ∨ ((k = 1 ∨ k = 3) ∧ i.toNat * 256 < s.me.pbsw) ∨
      ((k = 2 ∨ k = 3) ∧ i.toNat * 256 < s.me.pbmem)

/-- R120: a quiet bundle offers its cut when nothing of the context is in flight, its three counters are zero and no
buck or accord runs; else it sets QCOUNT.MISS; in trap mode it does nothing. -/
def Sys2Proof.Spec.QuietOffersItsCutOrMisses : Prop :=
  ∀ (s : State) (b : BitVec 6) (l : BitVec 1),
    let free := s.me.flight = [] ∧ s.me.snapshot = [] ∧ s.me.held = [] ∧ s.me.pbsr = 0 ∧ s.me.pbsw = 0 ∧
      s.me.pbmem = 0 ∧ s.sketchBusy s.cur.core s.me.task = false
    (s.me.tm = true → exec (.quiet b l) s = .next s) ∧
    (s.me.tm = false → free → ∃ t, exec (.quiet b l) s = .next t ∧ t.me.qcount = 0 ∧
      t.me = { s.me with qcount := 0, lastCut := some (s.sreg 0 b.toNat).toNat } ∧ t.cur.cut = true ∧ t.mem = s.mem) ∧
    (s.me.tm = false → ¬ free → exec (.quiet b l) s = .next (s.modMe fun cx => { cx with qmiss := true }))

/-- R18, R19, R122: SPAWN starts a FREE context of its task at the entry address, with the argument registers in s1
and up and nothing else carried over; a misaligned entry traps ILLEGAL, also where the sibling is busy (log entry 73), and a
context that is not free SPAWNBUSY. Of a task that has been killed nothing starts (R23). -/
def Sys2Proof.Spec.SpawnStartsAChild : Prop :=
  ∀ (s : State) (a b : BitVec 6) (t : BitVec 2) (k : BitVec 4) (n : Nat) (tk : Task) (la : Launch) (c : Fin 4),
    s.me.task = some n → s.task n = some tk → s.launch tk.launch = some la → tk.ctxs[t.toNat]? = some c →
    let entry := s.sreg 0 a.toNat
    (entry.toNat % 4 ≠ 0 → exec (.spawn a b t k) s = traps s .illegal (some entry)) ∧
    (entry.toNat % 4 = 0 → (tk.handler = true ∨ c = s.cur.ctx ∨ (s.ctx s.cur.core c).state ≠ .free) →
      exec (.spawn a b t k) s = traps s .spawnbusy (some (t.zeroExtend 64))) ∧
    (entry.toNat % 4 = 0 → tk.handler = false → c ≠ s.cur.ctx → (s.ctx s.cur.core c).state = .free →
      tk.killed.isSome = true → exec (.spawn a b t k) s = .next s) ∧
    (entry.toNat % 4 = 0 → tk.handler = false → c ≠ s.cur.ctx → (s.ctx s.cur.core c).state = .free → tk.killed = none →
      ∃ u, exec (.spawn a b t k) s = .next u ∧ u.mem = s.mem ∧
        let ch := u.ctx s.cur.core c
        ch.state = .ready ∧ ch.pc = entry ∧ ch.task = some n ∧ ch.wkid = s.me.wkid ∧ ch.tm = false ∧ ch.loops = [] ∧
        ch.qbound = la.qb ∧ ch.bubble = 16 ∧ ch.preds = Vector.replicate 24 0 ∧
        (∀ r : Fin 32, ch.sregs.get r =
          if r.val = 0 ∨ k.toNat + 1 < r.val ∨ b.toNat + r.val = 1 then 0
          else (s.me.sregs[b.toNat + r.val - 1]?).getD 0) ∧
        (∀ j d, j ≠ s.cur.core ∨ d ≠ c → u.ctx j d = s.ctx j d))

/-- R63: a REP header expands its bundle: a unit it does not mark holds its explicit word; a marked one holds the word
of the repeat buffer, with INC added to the displacement D of class M and to the k-index of class X where the word has
one. No unit marked, an explicit word in a marked unit, a marked unit of which the buffer holds no word, and a D or K
that leaves its range trap ILLEGAL with the bundle's address. -/
def Sys2Proof.Spec.RepExpandsFromTheRepeatBuffer : Prop :=
  ∀ (s : State) (same : BitVec 8) (inc : BitVec 14),
    let buf := s.me.repbuf
    let good := same ≠ 0 ∧ (∀ e ∈ s.cur.explicit, same.getLsbD (unitOf e) = false) ∧
      ∀ u : Fin 8, same.getLsbD u = true → ∃ w, buf.get u = some w ∧ StaysInRange u w inc
    (good → ∃ out, exec (.rep same inc) s = .next { s with cur := { s.cur with expansion := out } } ∧
      ∀ u : Fin 8,
        (same.getLsbD u = false → out.get u = s.cur.explicit.find? fun e => unitOf e = u.val) ∧
        ∀ w, same.getLsbD u = true → buf.get u = some w →
          (u.val = 3 ∧ opHasD (wordOp w) = true →
            out.get u = some (w.extractLsb' 10 22 ++ BitVec.ofInt 10 (fieldD w + inc.toInt))) ∧
          (u.val = 6 ∧ wideK w → out.get u = some (w.extractLsb' 8 24 ++ BitVec.ofInt 8 (fieldK w + inc.toInt))) ∧
          (u.val = 6 ∧ drainK w →
            out.get u = some (w.extractLsb' 13 19 ++ BitVec.ofInt 7 (fieldR w + inc.toInt) ++ w.extractLsb' 0 6)) ∧
          (¬(u.val = 3 ∧ opHasD (wordOp w) = true) → ¬(u.val = 6 ∧ (wideK w ∨ drainK w)) → out.get u = some w)) ∧
    (¬ good → exec (.rep same inc) s = outcome (State.bundleTrap { s with cur := { s.cur with stopped := true } }
      s.cur.core s.cur.ctx .illegal s.cur.addr))

/-- R124: TRAP is noted, and its bundle's end enters the handler with cause SOFT, the code in TADDR and the bundle that
would have come next in TEPC; in trap mode it is NESTED and the context stops. -/
def Sys2Proof.Spec.TrapEntersTheHandlerWithSoft : Prop :=
  ∀ (s : State) (i : BitVec 16) (slots : RepBuf),
    exec (.trap i) s = .next { s with cur := { s.cur with soft := some i } } ∧
    (s.cur.soft = some i → s.cur.exit = false → s.cur.stopped = false → s.me.ending = false →
      (s.me.tm = true → ∃ t, s.complete slots = .next t ∧ t.me.state = .stopped ∧ t.me.ncause = 13 ∧
        t.me.tcause = s.me.tcause ∧ t.me.taddr = s.me.taddr ∧ t.me.tepc = s.me.tepc ∧ t.me.tsp = s.me.tsp ∧
        t.machineChecks =
          (s.machineChecks.filter fun m => m.1 != s.cur.core || m.2.1 != s.cur.ctx) ++
            [(s.cur.core, s.cur.ctx, s.sclk.toNat)]) ∧
      (s.me.tm = false → let as := addrRun (s.me.tsp - 64).toNat 64
        Accessible s .write (s.me.tsp - 64).toNat as →
        ∃ t, s.complete slots = .next t ∧ t.me.tm = true ∧ t.me.tcause = 13 ∧ t.me.taddr = i.zeroExtend 64 ∧
          t.me.tepc = s.onward.pc ∧ t.me.resume = 0 ∧ t.me.pc = s.me.tvec ∧ t.me.tsp = s.me.tsp - 64))

/-- R125, R259: RETT in trap mode restores task mode, the loop stack, the repeat buffer and the latches from the shadow,
moves TSP past the record, and re-enters the bundle at TEPC four cycles later at the earliest, with the record's
registers on their way; outside trap mode it traps ILLEGAL. -/
def Sys2Proof.Spec.RettRestoresAndReenters : Prop :=
  ∀ (s : State),
    (s.me.tm = false → exec .rett s = traps s .illegal none) ∧
    (s.me.tm = true → s.me.waitrec = none → let as := addrRun s.me.tsp.toNat 64
      Accessible s .read s.me.tsp.toNat as →
      ∃ t, exec .rett s = .next t ∧ t.me.tm = false ∧ t.me.pc = s.me.tepc ∧ t.me.loops = s.me.shadow.loops ∧
        t.me.repbuf = s.me.shadow.repbuf ∧ t.me.latchA = s.me.shadow.latchA ∧ t.me.latchB = s.me.shadow.latchB ∧
        t.me.tsp = s.me.tsp + 64 ∧ t.me.reentry = true ∧ t.me.resume = s.me.resume ∧ t.me.state = .ready ∧
        4 ≤ t.me.bubble ∧ t.me.sregs = s.me.sregs ∧ t.mem = s.mem ∧
        ((rangeOf s.cur.core s.me.tsp.toNat = .loc ∨ rangeOf s.cur.core s.me.tsp.toNat = .own) →
          ∃ m ∈ t.myCore.memq, m.ctx = s.cur.ctx ∧ m.act = .read (keysAt s as) .record) ∧
        (rangeOf s.cur.core s.me.tsp.toNat = .main → OnePage s as →
          ∃ a ∈ t.me.async, a.act = .read (keysAt s as) .record ∧ a.id ∈ t.me.blockedOn))

/-- R126, R227, R235: a FENCE whose scope is wider than the context puts in force what it orders: the accesses before it,
by class, and its MOD field, and one that orders loads before loads and before stores at the scope of an outcome that has
been read ends the note of it (log entry 8); one of scope `ctx` changes nothing. -/
def Sys2Proof.Spec.FencePutsItsOrderInForce : Prop :=
  ∀ (s : State) (p : BitVec 3) (m : BitVec 4),
    (p = 0 → exec (.fence p m) s = .next s) ∧
    (p ≠ 0 → ∃ t f, exec (.fence p m) s = .next t ∧ t.me = { s.me with fences := s.me.fences ++ [f], claimed := t.me.claimed } ∧
      (t.me.claimed = if m.getLsbD 0 = false ∧ m.getLsbD 1 = false ∧ s.me.claimed ≤ p.toNat then 0 else s.me.claimed) ∧
      t.mem = s.mem ∧ f.orderings = m ∧ f.scope = p ∧
      (∀ a ∈ s.me.async, (a.act.isLoad = true → a.id ∈ f.loads) ∧ (a.act.isStore = true → a.id ∈ f.stores)))

/-- R127-R129, R255: the value that SYSRD gives for each system register, which lands at latency 1. -/
def Sys2Proof.Spec.SysrdReadsItsRegister : Prop :=
  ∀ (s : State) (a : BitVec 6) (n : BitVec 8), Writable s a →
    ∃ v, exec (.sysrd a n) s = .next (landS s a v 1) ∧
      (n = 0x00 → v.getLsbD 63 = s.me.tm ∧ v.getLsbD 62 = s.me.xfer ∧ v.extractLsb' 8 2 = s.me.blk ∧
        v.extractLsb' 0 3 = s.me.resume ∧ v.extractLsb' 10 38 = 0 ∧ v.extractLsb' 56 6 = 0 ∧ v.extractLsb' 3 5 = 0 ∧
        (v.extractLsb' 48 8).toNat = if s.me.tm then min s.me.snapshot.length 192 else 0) ∧
      (n = 0x01 → v = s.me.tcause.zeroExtend 64) ∧ (n = 0x02 → v = s.me.taddr) ∧ (n = 0x03 → v = s.me.tepc) ∧
      (n = 0x04 → v = s.me.tvec) ∧ (n = 0x05 → v = s.me.tsp) ∧ (n = 0x06 → v = s.me.ncause.zeroExtend 64) ∧
      (n = 0x10 → v = s.me.qbound.zeroExtend 64) ∧
      (n = 0x11 → v.getLsbD 63 = s.me.qmiss ∧ v.extractLsb' 32 31 = 0 ∧ v.extractLsb' 0 32 = s.me.qcount) ∧
      (n = 0x20 → v = s.me.wkid) ∧ (n = 0x21 → v = s.me.wkfld) ∧ (n = 0x22 → v.toNat = s.cur.ctx.val) ∧
      (n = 0x23 → v.toNat = s.cur.core.val) ∧ (n = 0x24 → v.toNat = s.cur.core.val / 8) ∧
      (n = 0x25 → v.toNat = s.rank.toNat) ∧ (n = 0x26 → v = s.me.bkey.zeroExtend 64) ∧
      (∀ j : Fin 16, n.toNat = 0x30 + j.val → v = (s.cur.nfc.get j).zeroExtend 64) ∧
      (s.me.pbsr < 2 ^ 40 → n = 0x40 → v.toNat = s.me.pbsr) ∧ (s.me.pbsw < 2 ^ 40 → n = 0x41 → v.toNat = s.me.pbsw) ∧
      (s.me.pbmem < 2 ^ 40 → n = 0x42 → v.toNat = s.me.pbmem) ∧ (n = 0x50 → v = s.sclk) ∧
      (n = 0x51 → v = s.myCore.holdcy) ∧ (n = 0x60 → v = s.regs.bwin.zeroExtend 64) ∧
      (∀ j : Fin 8, n.toNat = 0x68 + j.val → v = s.regs.bgrp.get j) ∧ (n = 0x70 → v = s.regs.mthr.zeroExtend 64)

/-- R127-R129, R255: SYSWR writes an NFC counter in either mode, a trap register or a quiet register in trap mode, and
traps PERM where the register has no writable field in the present mode. -/
def Sys2Proof.Spec.SyswrWritesOrTrapsPerm : Prop :=
  ∀ (s : State) (a : BitVec 6) (n : BitVec 8),
    let v := srcB s a
    let t := afterB s a
    (∀ j : Fin 16, n.toNat = 0x30 + j.val →
      exec (.syswr a n) s = .next (t.modMe fun cx => { cx with nfc := cx.nfc.set j (v.truncate 32) })) ∧
    (s.me.tm = true →
      (n = 0x01 → exec (.syswr a n) s = .next (t.modMe fun cx => { cx with tcause := v.truncate 8 })) ∧
      (n = 0x02 → exec (.syswr a n) s = .next (t.modMe fun cx => { cx with taddr := v })) ∧
      (n = 0x03 → exec (.syswr a n) s = .next (t.modMe fun cx => { cx with tepc := BitVec.ofNat 64 (v.toNat / 4 * 4) })) ∧
      (n = 0x04 → exec (.syswr a n) s = .next (t.modMe fun cx => { cx with tvec := BitVec.ofNat 64 (v.toNat / 4 * 4) })) ∧
      (n = 0x05 → exec (.syswr a n) s = .next (t.modMe fun cx => { cx with tsp := BitVec.ofNat 64 (v.toNat / 64 * 64) })) ∧
      (n = 0x06 → exec (.syswr a n) s = .next (t.modMe fun cx => { cx with ncause := v.truncate 8 })) ∧
      (n = 0x10 → exec (.syswr a n) s = .next (t.modMe fun cx => { cx with qbound := v.truncate 32 })) ∧
      (n = 0x11 → exec (.syswr a n) s = .next (t.modMe fun cx =>
        { cx with qcount := v.truncate 32, qmiss := if v.getLsbD 63 then false else cx.qmiss })) ∧
      (n = 0x00 → ∃ u, exec (.syswr a n) s = .next u ∧ u.me.xfer = v.getLsbD 62 ∧ u.me.blk = v.extractLsb' 8 2 ∧
        u.me.resume = v.extractLsb' 0 3 ∧ u.me.tm = true)) ∧
    ((s.me.tm = false ∧ (n.toNat < 0x30 ∨ 0x40 ≤ n.toNat) ∨ (0x20 ≤ n.toNat ∧ n.toNat < 0x30) ∨ 0x40 ≤ n.toNat) →
      exec (.syswr a n) s = traps s .perm none)

/-! ### Barriers and memory -/

namespace Sys2Proof.Spec

/-- A form of a barrier on its way to its unit, seven cycles on. -/
def toBarrier (s t : State) (n : BitVec 3) (op : BarOp) : Prop :=
  t.barq = s.barq ++ [⟨s.sclk.toNat + 7, s.cur.core, s.cur.ctx, s.me.task.getD 0, n.toNat, op⟩]

end Sys2Proof.Spec

/-- R153, R154: TBINIT, TBARR and TBWAIT go to the barrier unit, which applies them seven cycles on; TBARR promises its
phase at latency 8, TBWAIT leaves the context WAITING. A name outside the launch's set, a mask of no member or of one
beyond the group, and an arrival of a rank that takes no part or has arrived in both phases trap ILLEGAL; a TBINIT on
its way to the record decides by its own mask, and two arrivals of the own rank on their way count. -/
def Obligations.BarrierFormsReachTheirUnit : Prop :=
  ∀ (s : State) (n : BitVec 3) (a b : BitVec 6) (task : Nat) (t : Task), s.me.task = some task → s.task task = some t →
    let mine (r : Barrier) : Prop := r.launch = t.launch ∧ r.group = t.group ∧ r.name = n.toNat
    let records := s.barrierList (t.core.val / 8)
    let x := srcB s b
    ((∀ r ∈ records, ¬ mine r) →
      ∀ j ∈ [Instr.tbinit n b, .tbarr a n, .tbwait a b n], exec j s = traps s .illegal none) ∧
    (∀ r ∈ records, mine r → (∀ r' ∈ records, mine r' → r' = r) →
      (1 ≤ x.toNat → x.toNat < 2 ^ r.size → ∃ u, exec (.tbinit n b) s = .next u ∧ toBarrier s u n (.init x) ∧
        u.mem = s.mem ∧ u.me = (afterB s b).me ∧ OthersUnmoved s u) ∧
      (x.toNat = 0 ∨ 2 ^ r.size ≤ x.toNat → exec (.tbinit n b) s = traps s .illegal none) ∧
      (Writable s a → ∃ u, exec (.tbwait a b n) s = .next u ∧ toBarrier s u n (.wait (x.truncate 32)) ∧
        u.me.state = .waiting ∧ u.me.wait = some (.tbwait a.toNat n.toNat (x.truncate 32) false) ∧ u.mem = s.mem ∧
        OthersUnmoved s u) ∧
      (let arrives := ∃ u, exec (.tbarr a n) s = .next u ∧ toBarrier s u n (.arrive s.nextId) ∧
          u.me = s.me.push s.nextId 8 0 (.await a.toNat) s.cur.unit ∧ u.mem = s.mem ∧ OthersUnmoved s u
       let refused := exec (.tbarr a n) s = traps s .illegal none
       let early := (∃ p ∈ r.arrived, p.1 = t.rank) ∧ ∃ p ∈ r.arrivedNext, p.1 = t.rank
       ((∀ m ∈ s.barq, m.name ≠ n.toNat) →
        (Writable s a → r.pm.testBit t.rank = true → ¬ early → arrives) ∧
        (r.pm.testBit t.rank = false ∨ early → refused)) ∧
       (∀ q m v, s.barq = q ++ [m] → m.op = .init v → m.name = n.toNat → m.task = task →
        (Writable s a → v.getLsbD t.rank = true → arrives) ∧ (v.getLsbD t.rank = false → refused)) ∧
       (∀ m m' i j, s.barq = [m, m'] → m.op = .arrive i → m'.op = .arrive j → (∀ y ∈ s.barq, y.name = n.toNat ∧ y.task = task) →
        r.arrived = [] → r.pm.testBit t.rank = true → (∃ y ∈ ranksOf r.pm, y ≠ t.rank) → refused))) ∧
    (¬ Writable s a → ∀ j ∈ [Instr.tbarr a n, .tbwait a b n], exec j s = traps s .illegal none)

/-- R134, R135, R145: the scalar loads read naturally aligned bytes at sB + D times their size; LDAQ reads at sB. -/
def Sys2Proof.Spec.ScalarLoadsReadTheirBytes : Prop :=
  ∀ (s : State) (a b : BitVec 6) (d : BitVec 10) (w : BitVec 1),
    (∀ p ∈ ([(Instr.ldb a b d, 1, true), (.ldbz a b d, 1, false), (.ldh a b d, 2, true), (.ldhz a b d, 2, false),
        (.ldw a b d, 4, true), (.ldwz a b d, 4, false), (.ldd a b d, 8, false)] : List (Instr × Nat × Bool)),
      let addr := (BitVec.ofInt 64 ((s.sreg 0 b.toNat).toInt + d.toInt * (p.2.1 : Int))).toNat
      let as := addrRun addr p.2.1
      addr % p.2.1 = 0 → Accessible s .read addr as →
      ∃ t, exec p.1 s = .next t ∧ Issued s t as (.read (keysAt s as) (.scalar a.toNat p.2.2)) p.2.1 ∧
        Promised s t as (.load (.scalar a.toNat p.2.2)) 5 22) ∧
    (let n := if w = 1 then 4 else 8
     let addr := (s.sreg 0 b.toNat).toNat
     let as := addrRun addr n
     addr % n = 0 → Accessible s .read addr as →
      ∃ t, exec (.ldaq a b w) s = .next t ∧ Issued s t as (.read (keysAt s as) (.scalar a.toNat false)) n ∧
        Promised s t as (.load (.scalar a.toNat false)) 5 22 ∧
        (∀ x ∈ t.me.async, x.whole = s.nextId → s.nextId ≤ x.id → x ∉ s.me.async → x.kind ≠ .unordered →
          x.acquire = true) ∧
        (rangeOf s.cur.core addr ≠ .main → ∃ m ∈ t.myCore.memq, m.id = s.nextId ∧ m.acquire = true))

/-- R134, R135, R145: the scalar stores put the low bytes of their source, little-endian, at sB + D times their size;
STRL puts them at sB. -/
def Sys2Proof.Spec.ScalarStoresPutTheirBytes : Prop :=
  ∀ (s : State) (a b : BitVec 6) (d : BitVec 10) (w : BitVec 1),
    let v := (s.readS 2 a).1
    (∀ p ∈ ([(Instr.stb a b d, 1), (.sth a b d, 2), (.stw a b d, 4), (.std a b d, 8)] : List (Instr × Nat)),
      let addr := (BitVec.ofInt 64 ((s.sreg 0 b.toNat).toInt + d.toInt * (p.2 : Int))).toNat
      let as := addrRun addr p.2
      addr % p.2 = 0 → Accessible s .write addr as →
      ∃ t, exec p.1 s = .next t ∧ Issued s t as (.write (storeCellsOf s as (leBytes p.2 v.toNat))) p.2) ∧
    (let n := if w = 1 then 4 else 8
     let addr := (s.sreg 0 b.toNat).toNat
     let as := addrRun addr n
     addr % n = 0 → Accessible s .write addr as →
      ∃ t, exec (.strl a b w) s = .next t ∧ Issued s t as (.write (storeCellsOf s as (leBytes n v.toNat))) n ∧
        (∀ x ∈ t.me.async, x.whole = s.nextId → s.nextId ≤ x.id → x ∉ s.me.async → x.kind ≠ .unordered →
          x.releases = true) ∧
        (rangeOf s.cur.core addr ≠ .main → ∃ m ∈ t.myCore.memq, m.id = s.nextId ∧ m.releases = true))

/-- R133, R135: a scalar access that is not naturally aligned traps ILLEGAL with the address in TADDR; one that stands a
WINDOW, PERM or PAGE takes that trap. -/
def Sys2Proof.Spec.ScalarAccessTraps : Prop :=
  ∀ (s : State) (a b : BitVec 6) (d : BitVec 10),
    ∀ p ∈ ([(Instr.ldb a b d, 1, Right.read), (.ldbz a b d, 1, .read), (.ldh a b d, 2, .read), (.ldhz a b d, 2, .read),
        (.ldw a b d, 4, .read), (.ldwz a b d, 4, .read), (.ldd a b d, 8, .read), (.stb a b d, 1, .write),
        (.sth a b d, 2, .write), (.stw a b d, 4, .write), (.std a b d, 8, .write)] : List (Instr × Nat × Right)),
      let addr := BitVec.ofInt 64 ((s.sreg 0 b.toNat).toInt + d.toInt * (p.2.1 : Int))
      (addr.toNat % p.2.1 ≠ 0 → exec p.1 s = traps s .illegal (some addr)) ∧
      (addr.toNat % p.2.1 = 0 → ∀ t,
        s.accessTrap s.cur.core s.cur.ctx p.2.2 addr.toNat (addrRun addr.toNat p.2.1) = some t →
        exec p.1 s = outcome (s.slotTrap t))

/-- R133, R253: what stands against an access: nothing, exactly when no byte meets a cause; else the first of WINDOW,
PERM and PAGE that any byte meets, at the lowest such address. -/
def Sys2Proof.Spec.AccessTrapTakesTheEarliestCause : Prop :=
  ∀ (s : State) (k : Fin 64) (c : Fin 4) (right : Right) (base : Nat) (as : List Nat),
    (∀ a ∈ as, a < 2 ^ 64 ∧ rangeOf k a = rangeOf k base) →
    (s.accessTrap k c right base as = none ↔ ∀ a ∈ as, s.byteFault k c right a = none) ∧
    (∀ t, s.accessTrap k c right base as = some t →
      ∃ a ∈ as, t.addr = some (BitVec.ofNat 64 a) ∧ s.byteFault k c right a = some t.cause ∧
        (∀ x ∈ as, s.byteFault k c right x = some t.cause → a ≤ x) ∧
        (t.cause = .perm → ∀ x ∈ as, s.byteFault k c right x ≠ some .window) ∧
        (t.cause = .page → ∀ x ∈ as, s.byteFault k c right x ≠ some .window ∧ s.byteFault k c right x ≠ some .perm))

/-- R137, R138, R142: LDV and LDMSK read, STV, STVB and STMSK store, at their addresses and sizes. -/
def Sys2Proof.Spec.VectorAndMaskAccesses : Prop :=
  ∀ (s : State) (a b c : BitVec 6) (d : BitVec 10) (f : BitVec 6) (k : BitVec 4),
    (let tag := mkTag f.toNat k.toInt
     let addr := (s.sreg 0 b.toNat).toNat
     let as := addrRun addr (imageSize tag)
     tagValid tag = true → tagCode tag ≠ 0x0F → addr % max 1 (widthOf (tagCode tag) / 8) = 0 →
     Accessible s .read addr as →
      ∃ t, exec (.ldv a b f k) s = .next t ∧
        Issued s t as (.read (keysAt s as) (.vector a.toNat tag)) (imageSize tag) ∧
        Promised s t as (.load (.vector a.toNat tag)) 5 22) ∧
    (let v := s.vreg 2 a.toNat
     let addr := (BitVec.ofInt 64 ((s.sreg 0 b.toNat).toInt + d.toInt * 64)).toNat
     let as := addrRun addr (imageSize v.tag)
     a.toNat < 32 → tagValid v.tag = true → addr % max 1 (widthOf (tagCode v.tag) / 8) = 0 →
     Accessible s .write addr as →
      ∃ t, exec (.stv a b d) s = .next t ∧ Issued s t as (.write (storeCellsOf s as v.image)) (imageSize v.tag)) ∧
    (let v := s.vreg 2 a.toNat
     let addr := (s.sreg 0 b.toNat).toNat
     let first := (s.sreg 1 c.toNat).toNat % 256
     let n := (s.sreg 1 c.toNat).toNat / 256 % 256 + 1
     let as := addrRun addr n
     tagValid v.tag = true → first + n ≤ imageSize v.tag → Accessible s .write addr as →
      ∃ t, exec (.stvb a b c) s = .next t ∧
        Issued s t as (.write (storeCellsOf s as ((v.image.drop first).take n))) n) ∧
    (let addr := (BitVec.ofInt 64 ((s.sreg 0 b.toNat).toInt + d.toInt * 8)).toNat
     let as := addrRun addr 8
     addr % 8 = 0 →
      (Accessible s .read addr as → ∃ t, exec (.ldmsk a b d) s = .next t ∧
        Issued s t as (.read (keysAt s as) (.mask a.toNat)) 8 ∧ Promised s t as (.load (.mask a.toNat)) 5 22) ∧
      (Accessible s .write addr as → ∃ t, exec (.stmsk a b d) s = .next t ∧
        Issued s t as (.write (storeCellsOf s as (leBytes 8 (s.qreg 2 a.toNat).toNat))) 8))

/-- R139-R141: the masked store, the transposing load, the gather and the scatter; of overlapping lanes of a scatter the
highest stands. -/
def Sys2Proof.Spec.LaneAccesses : Prop :=
  ∀ (s : State) (a b c : BitVec 6) (m : BitVec 4) (g : BitVec 1) (n : BitVec 4),
    let v := s.vreg 2 a.toNat
    let w := widthOf (tagCode v.tag) / 8
    let base := (s.sreg 0 b.toNat).toNat
    tagValid v.tag = true → codeWhole (tagCode v.tag) = true →
    (base % w = 0 → ∀ b' : BitVec 5, b'.toNat = b.toNat →
      let act := lanesIn (s.qreg 1 c.toNat)
      let as := act.flatMap fun i => addrRun (base + i.val * w) w
      let kept (i : Fin 64) : Nat :=
        if g = 1 ∧ isNonFinite v.tag (elem (8 * w) (v.lanes.get i)) = true then zeroPattern
        else elem (8 * w) (v.lanes.get i)
      (g = 0 → act ≠ [] → Accessible s .write base as → ∃ t, exec (.gstv a g b' c n) s = .next t ∧
        Issued s t as (.write (storeCellsOf s as (act.flatMap fun i => leBytes w (kept i)))) (act.length * w)) ∧
      (g = 0 → act = [] → exec (.gstv a g b' c n) s = .next s) ∧
      (g = 1 → act = [] → exec (.gstv a g b' c n) s = .next (s.land (.nfc n.toNat 0) 3)) ∧
      (g = 1 → act ≠ [] → Accessible s .write base as → ∃ u t, exec (.gstv a g b' c n) s = .next t ∧
        Issued s u as (.write (storeCellsOf s as (act.flatMap fun i => leBytes w (kept i)))) (act.length * w) ∧
        t = u.land (.nfc n.toNat (act.filter fun i => isNonFinite v.tag (elem (8 * w) (v.lanes.get i))).length) 3)) ∧
    (let stride := s.sreg 1 c.toNat
     base % w = 0 → stride.toNat % w = 0 → (s.me.tm = true ∨ s.me.blk = 0) →
      (∀ j < 4, Accessible s .read base (blockBytes (s.sreg 0 b.toNat) stride w j)) →
      ∃ t, exec (.ldvt a b c) s = .next t ∧ ∀ j < 4,
        let act := MemAct.read (keysAt s (blockBytes (s.sreg 0 b.toNat) stride w j)) (.block a.toNat v.tag w j)
        (rangeOf s.cur.core base = .main → OnePage s (blockBytes (s.sreg 0 b.toNat) stride w j) →
          ∃ x ∈ t.me.async, x.act = act) ∧
        (rangeOf s.cur.core base ≠ .main → ∃ f ∈ t.me.flight,
          f.what = .load (.lanes (a.toNat + j) v.tag w (List.range 64)) ∧ ∃ x ∈ t.myCore.memq, f.id = x.id + j ∧
            x.ctx = s.cur.ctx ∧ x.act = .read (keysAt s ((List.range 4).flatMap (columnBytes (s.sreg 0 b.toNat) stride w 0)))
              (.columns a.toNat v.tag w 0))) ∧
    (let idx := s.vreg 1 c.toNat
     let lanes := (lanesIn (s.mask m.toNat)).map fun i => (i, s.sreg 0 b.toNat +
       (if tagCode idx.tag = 0x06 then (idx.lanes.get i).signExtend 64 else (idx.lanes.get i).zeroExtend 64))
     idx.tag = mkTag 0x06 0 ∨ idx.tag = mkTag 0x0A 0 → (∀ l ∈ lanes, l.2.toNat % w = 0) →
      (lanes = [] → exec (.gath a b c m) s = .next s ∧ exec (.scat a b c m) s = .next s) ∧
      (lanes ≠ [] → let as := lanes.flatMap fun l => addrRun l.2.toNat w
      (Accessible s .read base as → ∃ t, exec (.gath a b c m) s = .next t ∧
        Issued s t as (.read (keysAt s as) (.lanes a.toNat v.tag w (lanes.map (·.1.val)))) (lanes.length * w)) ∧
      (Accessible s .write base as → ∃ t, exec (.scat a b c m) s = .next t ∧
        let last := lanes.filter fun l => !lanes.any fun l' => l.1 < l'.1 && l'.2 == l.2
        let at_ := last.flatMap fun l => addrRun l.2.toNat w
        Issued s t at_ (.write (storeCellsOf s at_ (last.flatMap fun l => leBytes w (elem (8 * w) (v.lanes.get l.1)))))
          (lanes.length * w))))

/-- R143, R144: the atomics go to the naturally aligned word at sB with sC as their operand, and promise the old word
to sA; ARED sends its contribution to the window that its word lies in. -/
def Sys2Proof.Spec.AtomicsReachTheirWord : Prop :=
  ∀ (s : State) (a b c : BitVec 6) (v r q w : BitVec 1) (o : BitVec 2),
    let addr := (s.sreg 0 b.toNat).toNat
    let x := s.sreg 1 c.toNat
    (∀ p ∈ [(Instr.aadd a b c r q w, AtomOp.add, w), (.amin a b c v r q w, .min (v = 1), w),
        (.amax a b c v r q w, .max (v = 1), w), (.aand a b c r q w, .and, w), (.aor a b c r q w, .or, w),
        (.axor a b c r q w, .xor, w), (.aswp a b c r q w, .swap, w),
        (.acas a b c r q w, .cas (s.sreg 2 a.toNat), w), (.afadd a b c r q, .fadd, 1)],
      let n := if p.2.2 = 1 then 4 else 8
      let as := addrRun addr n
      (addr % n ≠ 0 → exec p.1 s = traps s .illegal (some (s.sreg 0 b.toNat))) ∧
      (addr % n = 0 → Accessible s .write addr as →
        ∃ t, exec p.1 s = .next t ∧ Issued s t as (.atomic (keysAt s as) p.2.1 x a.toNat) n ∧
          Promised s t as (.await a.toNat) 5 22 ∧
          (∀ y ∈ t.me.async, y.whole = s.nextId → s.nextId ≤ y.id → y ∉ s.me.async → y.kind ≠ .unordered →
            (y.acquire = true ↔ q = 1) ∧ (y.releases = true ↔ r = 1)) ∧
          (rangeOf s.cur.core addr ≠ .main →
            ∃ m ∈ t.myCore.memq, m.id = s.nextId ∧ (m.acquire = true ↔ q = 1) ∧ (m.releases = true ↔ r = 1)))) ∧
    (let n := if o = 2 then 8 else 4
     let as := addrRun addr n
     ∀ e win, addr % n = 0 → rangeOf s.cur.core addr = .main → Accessible s .write addr as →
      s.entryOf s.cur.core s.cur.ctx addr = some e → InWindow s win (e.place addr).1 (e.place addr).2 →
      ∃ t, exec (.ared a b c o) s = .next t ∧
        Issued s t as (.contribute win.val (if e.comp then exposedBase + (e.place addr).2 else (e.place addr).2) o
          ((s.sreg 2 a.toNat).truncate 32) x) n)

/-- R39, R143: the word that each atomic leaves, on 64-bit words and on 32-bit ones; AFADD leaves the exact sum rounded
once to nearest, on 32-bit words alone. -/
def Sys2Proof.Spec.AtomicResultWords : Prop :=
  ∀ (x b e : Dword),
    (atomResult .add 8 x b = x + b ∧ atomResult .and 8 x b = x &&& b ∧ atomResult .or 8 x b = x ||| b ∧
      atomResult .xor 8 x b = x ^^^ b ∧ atomResult .swap 8 x b = b ∧
      atomResult (.cas e) 8 x b = (if x = e then b else x) ∧
      atomResult (.min false) 8 x b = (if x.toInt ≤ b.toInt then x else b) ∧
      atomResult (.max false) 8 x b = (if x.toInt ≤ b.toInt then b else x) ∧
      atomResult (.min true) 8 x b = (if x.toNat ≤ b.toNat then x else b) ∧
      atomResult (.max true) 8 x b = (if x.toNat ≤ b.toNat then b else x)) ∧
    (let x4 := x.extractLsb' 0 32
     let b4 := b.extractLsb' 0 32
     atomResult .add 4 x b = (x4 + b4).zeroExtend 64 ∧ atomResult .and 4 x b = (x4 &&& b4).zeroExtend 64 ∧
      atomResult .or 4 x b = (x4 ||| b4).zeroExtend 64 ∧ atomResult .xor 4 x b = (x4 ^^^ b4).zeroExtend 64 ∧
      atomResult .swap 4 x b = b4.zeroExtend 64 ∧
      atomResult .fadd 4 x b =
        BitVec.ofNat 64 (fp32.round ((fp32.decode x4.toNat).add (fp32.decode b4.toNat)) .rne false % 2 ^ 32) ∧
      atomResult (.cas e) 4 x b = (if x4 = e.extractLsb' 0 32 then b4 else x4).zeroExtend 64 ∧
      atomResult (.min false) 4 x b = (if x4.toInt ≤ b4.toInt then x4 else b4).zeroExtend 64 ∧
      atomResult (.max false) 4 x b = (if x4.toInt ≤ b4.toInt then b4 else x4).zeroExtend 64 ∧
      atomResult (.min true) 4 x b = (if x4.toNat ≤ b4.toNat then x4 else b4).zeroExtend 64 ∧
      atomResult (.max true) 4 x b = (if x4.toNat ≤ b4.toNat then b4 else x4).zeroExtend 64)

/-- R58, R257: a result whose cycle has come lands in its register, and one that is due later comes one cycle nearer; memory
and every other context stay as they are. One that lands in the cycle of a TRAP is in the latches set aside too. -/
def Sys2Proof.Spec.ResultsLandInTheirRegister : Prop :=
  ∀ (s : State) (k : Fin 64) (c : Fin 4) (f : Flight),
    (s.core k).held = false → (s.core k).memq = [] → (∀ d, d ≠ c → (s.ctx k d).flight = []) →
    (s.ctx k c).flight = [f] → (s.ctx k c).state ≠ .stopped → f.overtaken = false →
    ∃ t, exec (.resultLand k) s = .next t ∧
      (f.what.ofContext = true → (∀ n v, f.what ≠ .push n v) → t.mem = s.mem ∧ ∀ j d, j ≠ k ∨ d ≠ c → t.ctx j d = s.ctx j d) ∧
      (2 ≤ f.left → (t.ctx k c) = { s.ctx k c with flight := [{ f with left := f.left - 1 }] }) ∧
      (f.left ≤ 1 → (s.ctx k c).tm = true → f.id < (s.ctx k c).tmFrom →
        (∀ (r : Fin 32) v, f.what = .scalar r v → r.val ≠ 0 → (t.ctx k c).sregs = (s.ctx k c).sregs.set r v) ∧
        (∀ l, f.what = .latch false l → (t.ctx k c).latchA = l ∧ (t.ctx k c).shadow.latchA = l) ∧
        (∀ l, f.what = .latch true l → (t.ctx k c).latchB = l ∧ (t.ctx k c).shadow.latchB = l)) ∧
      (f.left ≤ 1 → ((s.ctx k c).tm = false ∨ (s.ctx k c).tmFrom ≤ f.id) →
        (∀ (r : Fin 32) v, f.what = .scalar r v → r.val ≠ 0 →
          t.ctx k c = { s.ctx k c with flight := [], sregs := (s.ctx k c).sregs.set r v }) ∧
        (∀ v, f.what = .scalar 0 v → t.ctx k c = { s.ctx k c with flight := [] }) ∧
        (∀ v, f.what = .link v → t.ctx k c = { s.ctx k c with flight := [], sregs := (s.ctx k c).sregs.set 31 v }) ∧
        (∀ (q : Fin 24) v, f.what = .pred q v →
          t.ctx k c = { s.ctx k c with flight := [], preds := (s.ctx k c).preds.set q v }) ∧
        (∀ (r : Fin 32) tag lanes, f.what = .vector r tag lanes allLanes →
          t.ctx k c = { s.ctx k c with flight := [], vregs := (s.ctx k c).vregs.set r ⟨tag, lanes⟩ }))

/-- Two contexts agree but for the moment of the last access (log entry 8). -/
def Sys2Proof.Spec.SameButView (a b : Context) : Prop := { a with view := b.view } = b

/-- R131: the stores of local memory and of the own landing that are due put exactly their bytes; every other byte of
memory reads as before, where no access is ahead of its order. -/
def Sys2Proof.Spec.OnChipStorePutsExactlyItsBytes : Prop :=
  ∀ (s : State) (k : Fin 64) (m : MemOp) (cells : List (Nat × Byte)), (s.core k).held = false →
    (s.core k).memq = [m] → m.left ≤ 1 → s.log = [] →
    m.act = .write cells → (cells.map (·.1)).Nodup →
    (∀ c ∈ cells, (s.storesDue k).mem.read c.1 = c.2) ∧
    (∀ a, (∀ c ∈ cells, c.1 ≠ a) → (s.storesDue k).mem.read a = s.mem.read a) ∧
    ((s.storesDue k).core k).memq = [] ∧ (∀ j d, SameButView ((s.storesDue k).ctx j d) (s.ctx j d))

/-- An access of main memory stands behind nothing: it has issued before this cycle, it is not suspended, no access is
ordered before it, no uncorrectable error stands in memory, and no other access is ahead of its order (R222-R229). -/
def Sys2Proof.Spec.Free (s : State) (a : Async) : Prop :=
  a.whole = a.id ∧ a.fresh = false ∧ a.suspended = false ∧ a.after = [] ∧ a.within = [] ∧ s.poison = [] ∧ s.log = []

/-- R132, R229: an asynchronous scalar load of this device's HBM before which nothing stands lands the bytes of memory in
its register and takes its charge off PBMEM; a context that has read the outcome of a claim and issued no FENCE may find
earlier bytes (R235), any other finds those. -/
def Sys2Proof.Spec.AsyncLoadLandsAndPaysBack : Prop :=
  ∀ (s : State) (k : Fin 64) (c : Fin 4) (a : Async) (keys : List Nat) (r : Fin 32) (signed : Bool),
    (s.ctx k c).async = [a] → a.act = .read keys (.scalar r signed) → keys ≠ [] → (∀ x ∈ keys, x < Config.hbmBytes) →
    Free s a → a.unit = keys.length → a.places = List.range keys.length → a.got = [] → a.overtaken = false →
    (s.ctx k c).flight = [] → r.val ≠ 0 → (s.ctx k c).claimed = 0 →
    ∃ t, exec (.asyncLoadLand k c a.id) s = .next t ∧
      let v := leValue (keys.map s.byte)
      SameButView (t.ctx k c) { s.ctx k c with
        async := [], pbmem := (s.ctx k c).pbmem - a.charge
        sregs := (s.ctx k c).sregs.set r
          (if signed then BitVec.ofInt 64 (if 2 ^ (8 * keys.length) ≤ 2 * v then (v : Int) - 2 ^ (8 * keys.length) else v)
           else BitVec.ofNat 64 v) } ∧
      t.mem = s.mem ∧ ∀ j d, j ≠ k ∨ d ≠ c → t.ctx j d = s.ctx j d

/-- R132, R143: a posted store to this device's HBM that reaches its ordering point puts exactly its bytes and leaves
PBMEM; an atomic there leaves its new word, gives the old one to its register, and leaves PBMEM. -/
def Sys2Proof.Spec.StoreOrderingPointPutsItsBytes : Prop :=
  ∀ (s : State) (k : Fin 64) (c : Fin 4) (a : Async), (s.ctx k c).async = [a] → Free s a →
    (∀ cells : List (Nat × Byte), a.act = .write cells → cells ≠ [] → a.unit = cells.length →
      (∀ x ∈ cells, x.1 < Config.hbmBytes) → (cells.map (·.1)).Nodup →
      ∃ t, exec (.storeOrderingPoint k c a.id) s = .next t ∧
        (∀ x ∈ cells, t.mem.read x.1 = x.2) ∧ (∀ n, (∀ x ∈ cells, x.1 ≠ n) → t.mem.read n = s.mem.read n) ∧
        SameButView (t.ctx k c) { s.ctx k c with async := [], pbmem := (s.ctx k c).pbmem - a.charge } ∧
        ∀ j d, j ≠ k ∨ d ≠ c → SameButView (t.ctx j d) (s.ctx j d)) ∧
    (∀ (keys : List Nat) (op : AtomOp) (v : Dword) (r : Fin 32), a.act = .atomic keys op v r →
      (keys.length = 4 ∨ keys.length = 8) → (∀ x ∈ keys, x < Config.hbmBytes) → keys.Nodup → a.overtaken = false →
      a.got = [] → (s.ctx k c).flight = [] → r.val ≠ 0 →
      let old := BitVec.ofNat 64 (leValue (keys.map s.byte))
      ∃ t, exec (.storeOrderingPoint k c a.id) s = .next t ∧
        keys.map t.byte = leBytes keys.length (atomResult op keys.length old v).toNat ∧
        (∀ n, n ∉ keys → t.mem.read n = s.mem.read n) ∧
        SameButView (t.ctx k c) { s.ctx k c with
          async := [], pbmem := (s.ctx k c).pbmem - a.charge, sregs := (s.ctx k c).sregs.set r old } ∧
        ∀ j d, j ≠ k ∨ d ≠ c → SameButView (t.ctx j d) (s.ctx j d))

/-- R133, R270: a scalar load whose bytes hold an uncorrectable error writes nothing; POISON is latched for the context's next
bundle, with the lowest address of the access, as it was issued, in TADDR (log entry 67). -/
def Sys2Proof.Spec.PoisonNamesTheAddress : Prop :=
  ∀ (s : State),
    (∀ (a b : BitVec 6) (d : BitVec 10), ∀ p ∈ ([(Instr.ldb a b d, 1), (.ldbz a b d, 1), (.ldh a b d, 2), (.ldhz a b d, 2),
        (.ldw a b d, 4), (.ldwz a b d, 4), (.ldd a b d, 8)] : List (Instr × Nat)),
      let addr := BitVec.ofInt 64 ((s.sreg 0 b.toNat).toInt + d.toInt * (p.2 : Int))
      addr.toNat % p.2 = 0 → Accessible s .read addr.toNat (addrRun addr.toNat p.2) →
      ∃ t, exec p.1 s = .next t ∧
        (rangeOf s.cur.core addr.toNat = .main → ∃ x ∈ t.me.async, x.id = s.nextId ∧ x.addr = addr) ∧
        (rangeOf s.cur.core addr.toNat ≠ .main → ∃ m ∈ t.myCore.memq, m.id = s.nextId ∧ m.addr = addr)) ∧
    (∀ (k : Fin 64) (c : Fin 4) (keys : List Nat) (r : Fin 32) (signed : Bool), (∃ x ∈ keys, x ∈ s.poison) →
      let cx := s.ctx k c
      let latched (a : Dword) (id : Nat) := cx.latched ++ [(Cause.poison, a, cx.tm && decide (cx.tmFrom ≤ id))]
      let others (t : State) := t.mem = s.mem ∧ ∀ j d, j ≠ k ∨ d ≠ c → t.ctx j d = s.ctx j d
      (∀ a, cx.async = [a] → a.act = .read keys (.scalar r signed) → (∀ x ∈ keys, x < Config.hbmBytes) → a.whole = a.id →
        a.fresh = false → a.suspended = false → a.after = [] → a.within = [] → s.log = [] → a.unit = keys.length →
        a.places = List.range keys.length → a.got = [] → a.id ∉ cx.blockedOn → ∃ t, exec (.asyncLoadLand k c a.id) s = .next t ∧
          t.ctx k c = { cx with async := [], pbmem := cx.pbmem - a.charge, latched := latched a.addr a.id } ∧ others t) ∧
      (∀ m f, (s.core k).held = false → (s.core k).memq = [m] → m.ctx = c → m.left ≤ 1 → m.act = .read keys (.scalar r signed) →
        (∀ d, d ≠ c → (s.ctx k d).flight = []) → cx.flight = [f] → f.id = m.id → f.what = .load (.scalar r signed) →
        cx.snapshot = [] → m.id ∉ cx.blockedOn → ∃ t, exec (.resultLand k) s = .next t ∧
          t.ctx k c = { cx with flight := [], latched := latched m.addr m.id } ∧ others t))

/-! ### Streams, the copy engine, messages and claims -/

/-- R102, R105, R106, R146: CPY with settings that R102 and R103 allow enters a command on the context's channel with its
sides, the whole shadow set and its key, and charges the bytes of each side to its counter; memory does not move yet.
Other settings are a fault at acceptance: no command, no charge, and COPYFLT for the context's next bundle. A full
channel, or a charge past 40 bits, traps COPYFLT with the source address; an operand slot that the task does not hold
traps PERM. -/
def Sys2Proof.Spec.CpyEntersACommandAndCharges : Prop :=
  ∀ (s : State) (a b : BitVec 6) (e : BitVec 1) (x : BitVec 2),
    let k := s.cur.core
    let c := s.cur.ctx
    let r := s.me.copy
    let ring := s.ring r.handle
    let srcA := s.sreg 0 b.toNat
    let dstA := s.sreg 1 a.toNat
    let src0 := sideOf k srcA
    let dst0 := if e = 1 then Side.slot (bits dstA 4 0) (bits dstA 31 16) else sideOf k dstA
    let src := if r.bound && ring.role then Side.ringBuf r.handle else src0
    let dst := if r.bound && !ring.role then Side.ringBuf r.handle else dst0
    let n := r.rows * r.rowb
    let toMem := (if src.isMain then n else 0) + (if dst.isMain then n else 0)
    let toSrc := if src.isMain then 0 else n
    let toDst := if dst.isMain then 0 else n
    let fits := s.me.pbmem + toMem < 2 ^ 40 ∧ s.me.pbsr + toSrc < 2 ^ 40 ∧ s.me.pbsw + toDst < 2 ^ 40
    let named := e = 1 → dstA &&& 0xFFFFFFFF0000FFE0 = 0 ∧ s.holdsSlot (bits dstA 4 0) = true
    let allowed := r.rows ≠ 0 ∧ r.rowb ≠ 0 ∧ r.egeoReserved = 0 ∧ r.ecfg &&& ~~~0xF0FB = 0 ∧
      1 ≤ r.sizeClass ∧ r.sizeClass ≤ 8 ∧ r.policy < 2 ∧ (x ≠ 0 → r.rowb % 256 = 0) ∧
      (r.bound = true → s.holdsRing r.handle = true ∧ n % 4096 = 0 ∧ (if ring.role then dst0 else src0).isLocal = false) ∧
      (x = 1 → src.isLocal = true ∧ ∃ y, dst = .landing y) ∧ (x = 2 → dst.isLocal = true ∧ ∃ y, src = .landing y)
    (32 ≤ (s.channel k c).length ∨ ¬ fits → exec (.cpy a b e x) s = traps s .copyflt (some srcA)) ∧
    ((s.channel k c).length < 32 → fits → ¬ named → exec (.cpy a b e x) s = traps s .perm none) ∧
    (∀ task, s.me.task = some task → (s.channel k c).length < 32 → fits → named →
      (¬ allowed → ∃ t, exec (.cpy a b e x) s = .next t ∧ (∀ d, t.channel k d = s.channel k d) ∧
        t.me = { s.me with latched := s.me.latched ++ [(.copyflt, srcA, s.me.tm && decide (s.me.tmFrom ≤ s.nextId))] } ∧
        t.mem = s.mem ∧ OthersUnmoved s t) ∧
      (allowed → ∃ t cmd, exec (.cpy a b e x) s = .next t ∧ (t.channel k c).getLast? = some cmd ∧
        (t.channel k c).length = (s.channel k c).length + 1 ∧
        cmd.src = src ∧ cmd.dst = dst ∧ cmd.regs = r ∧ cmd.xform = x ∧ cmd.key = s.me.bkey ∧ cmd.task = task ∧
        cmd.srcAddr = srcA ∧ cmd.done = 0 ∧ cmd.message = none ∧ cmd.bad = false ∧
        (s.channel k c = [] → cmd.started = some s.sclk.toNat) ∧
        t.me.pbmem = s.me.pbmem + toMem ∧ t.me.pbsr = s.me.pbsr + toSrc ∧ t.me.pbsw = s.me.pbsw + toDst ∧
        t.me.sregs = s.me.sregs ∧ t.me.copy = s.me.copy ∧ t.mem = s.mem ∧ OthersUnmoved s t ∧
        (∀ m off, dst = .slot m off → m < 32 → (t.myCore.slots[m]?).map (·.state) = some .filling)))

/-- R98, R102, R147: CPYSH writes a register of the shadow set, or claims a circular buffer, or gives one up, which keeps
what the write says in its other fields. -/
def Sys2Proof.Spec.CpyshWritesItsRegister : Prop :=
  ∀ (s : State) (a n : BitVec 6),
    let v := s.sreg 0 a.toNat
    let set (r : CopyRegs) : Host.Outcome State Fault Refusal := .next (s.modMe fun cx => { cx with copy := r })
    (n = 0 → exec (.cpysh a n) s = set { s.me.copy with
      rows := v.toNat / 2 ^ 48, rowb := v.toNat % 2 ^ 32, egeoReserved := v.extractLsb' 32 16 }) ∧
    (n = 1 → exec (.cpysh a n) s = set { s.me.copy with ests := v }) ∧
    (n = 2 → exec (.cpysh a n) s = set { s.me.copy with estd := v }) ∧
    (n = 3 → exec (.cpysh a n) s = set { s.me.copy with ecfg := v }) ∧
    (∀ (h : Fin 16) (task : Nat), n.toNat = 16 + h.val → s.me.task = some task → v.getLsbD 63 = true →
      tagValid (v.extractLsb' 0 16) = true → tagCode (v.extractLsb' 0 16) ≠ 0x0F →
      (s.ring h).holder = none → s.boundTo s.cur.core s.cur.ctx h = false →
      let base := (v.extractLsb' 50 9).toNat
      let len := (v.extractLsb' 44 6).toNat + 1
      base + len ≤ 512 → (∀ i < len, s.taskTile s.cur.core s.cur.ctx (base + i) = true) →
      ∃ t, exec (.cpysh a n) s = .next t ∧ t.mem = s.mem ∧
        t.ring h = ⟨some task, v.getLsbD 62, base, len, 0, 0, 0, 0, v.extractLsb' 0 16⟩ ∧
        (∀ i < len, base + i ∈ t.myCore.engineTiles ↔ v.getLsbD 62 = false) ∧ ∀ j d, t.ctx j d = s.ctx j d) ∧
    (∀ (h : Fin 16) (task : Nat), n.toNat = 16 + h.val → s.me.task = some task → v.getLsbD 63 = false →
      ((s.ring h).holder = none ∨ (s.ring h).holder = some task) → s.boundTo s.cur.core s.cur.ctx h = false →
      ∃ t, exec (.cpysh a n) s = .next t ∧ t.mem = s.mem ∧ t.myCore.engineTiles = s.myCore.engineTiles ∧
        t.ring h = { s.ring h with
          holder := none, role := v.getLsbD 62, base := (v.extractLsb' 50 9).toNat
          len := (v.extractLsb' 44 6).toNat + 1, tag := v.extractLsb' 0 16 } ∧ ∀ j d, t.ctx j d = s.ctx j d)

/-- R99, R148: CBADV moves the context's pointer on by n tiles and passes them to the engine; past what is ready it
traps COPYFLT. CBWT that has issued changes nothing; a count outside 1 to N traps COPYFLT and a handle of nobody's
PERM. -/
def Sys2Proof.Spec.RingFormsAdvanceAndWait : Prop :=
  ∀ (s : State) (a : BitVec 6) (i : BitVec 16), a.toNat < 16 →
    let r := s.ring a.toNat
    (s.holdsRing a.toNat = false → ∀ j ∈ [Instr.cbadv a i, .cbwt a i], exec j s = traps s .perm none) ∧
    (s.holdsRing a.toNat = true → (i.toNat = 0 ∨ r.len < i.toNat) →
      ∀ j ∈ [Instr.cbadv a i, .cbwt a i], exec j s = traps s .copyflt none) ∧
    (s.holdsRing a.toNat = true → 1 ≤ i.toNat → i.toNat ≤ r.len →
      exec (.cbwt a i) s = .next s ∧
      (r.ready < i.toNat → exec (.cbadv a i) s = traps s .copyflt none) ∧
      (i.toNat ≤ r.ready → ∃ t, exec (.cbadv a i) s = .next t ∧ t.mem = s.mem ∧
        (r.role = true → t.ring a.toNat = { r with pp := (r.pp + i.toNat) % (2 * r.len), poff := 0 }) ∧
        (r.role = false → t.ring a.toNat = { r with cp := (r.cp + i.toNat) % (2 * r.len), coff := 0 }) ∧
        (∃ f, t.myCore.flips = s.myCore.flips ++ [f] ∧ f.engine = true ∧
          f.tiles = (List.range i.toNat).map fun j => r.base + ((if r.role then r.pp else r.cp) + j) % r.len) ∧
        ∀ j d, t.ctx j d = s.ctx j d))

/-- R97, R149: OWNF flips the owner bits of a run of the task's tiles at the end of a cycle; a tile beyond the task's
traps WINDOW, one in an enabled ring PERM, and `ownf.ctx` of one that an accepted, unfinished command of the channel
touches PERM. -/
def Sys2Proof.Spec.OwnfFlipsItsTiles : Prop :=
  ∀ (s : State) (b c : BitVec 6) (d : BitVec 1),
    let first := (s.sreg 0 b.toNat).toNat
    let tiles := (List.range (c.toNat + 1)).map (first + ·)
    let ringed := ∃ t ∈ tiles, ∃ r ∈ s.myCore.rings.toList, r.holder.isSome = true ∧ ∃ i < r.len, t = r.base + i % r.len
    let used := ∃ t ∈ tiles, ∃ cmd ∈ s.channel s.cur.core s.cur.ctx, t ∈ s.commandTiles s.cur.core cmd
    ((∃ t ∈ tiles, s.taskTile s.cur.core s.cur.ctx t = false) → exec (.ownf b c d) s = traps s .window none) ∧
    ((∀ t ∈ tiles, s.taskTile s.cur.core s.cur.ctx t = true) →
      (ringed ∨ (d = 1 ∧ used) → exec (.ownf b c d) s = traps s .perm none) ∧
      (¬ ringed → (d = 1 → ¬ used) → ∃ t, exec (.ownf b c d) s = .next t ∧ t.mem = s.mem ∧
        (∃ f, t.myCore.flips = s.myCore.flips ++ [f] ∧ f.tiles = tiles ∧ (f.engine = true ↔ d = 0)) ∧
        ∀ j e, t.ctx j e = s.ctx j e))

/-- R107, R150: SEND of a payload that the task may read enters a message for the core and handler that sC names,
charges its bytes to PBMEM and goes through the channel; one to another device carries the handler's number. Reserved
bits, and a handler beyond the launch's list, trap ILLEGAL. -/
def Obligations.SendEntersAMessage : Prop :=
  ∀ (s : State) (a b c : BitVec 6) (task : Nat) (tk : Task) (la : Launch),
    let k := s.cur.core
    let ctx := s.cur.ctx
    let x := s.sreg 2 c.toNat
    let dst := s.sreg 1 a.toNat
    let srcA := s.sreg 0 b.toNat
    let n := bits x 19 8 + 1
    let as := addrRun srcA.toNat n
    let rank := BitVec.ofNat 7 (bits x 38 32)
    s.me.task = some task → s.task task = some tk → s.launch tk.launch = some la →
    (x &&& sendReserved ≠ 0 ∨ la.handlers.length ≤ bits x 27 24 → exec (.send a b c) s = traps s .illegal none) ∧
    (∀ handler, x &&& sendReserved = 0 → la.handlers[bits x 27 24]? = some handler →
      (∀ y ∈ addrRun dst.toNat n, Config.lbase ≤ y ∧ y < Config.lbase + Config.landingRange ∧
        (rank = s.rank → s.samePartition k ((y - Config.lbase) / Config.landingBytes) = true)) →
      (rangeOf k srcA.toNat = .loc ∨ rangeOf k srcA.toNat = .own) →
      (∀ y ∈ as, rangeOf k y = rangeOf k srcA.toNat ∧ MayTouch s k s.cur.ctx .read y) →
      (s.channel k ctx).length < 32 → s.me.pbmem + n < 2 ^ 40 →
      ∃ t m, exec (.send a b c) s = .next t ∧ t.messages = s.messages ++ [m] ∧ m.target.val = bits x 5 0 ∧
        m.dst = dst ∧ m.src = keysAt s as ∧ m.launch = tk.launch ∧ m.charge = n ∧ m.accepted = false ∧
        (rank = s.rank → m.far = none ∧ m.handler = handler) ∧
        (rank ≠ s.rank → m.far = some rank ∧ m.handler.toNat = bits x 27 24) ∧
        m.key = s.me.bkey ∧ m.wkid = s.me.wkid ∧
        t.me.pbmem = s.me.pbmem + n ∧ t.me.sregs = s.me.sregs ∧ t.mem = s.mem ∧ OthersUnmoved s t ∧
        (∃ cmd, (t.channel k ctx).getLast? = some cmd ∧ cmd.message = some m.id))

/-- R308-R310: a claim on a closed slot opens its set with this device's claim, and with the objections that have come
before, and sends it; on an open slot it is
refused; a group the device may not claim for traps ILLEGAL. An objection to an open set counts and goes out; past its
time it traps LATEOBJ. -/
def Sys2Proof.Spec.ClaimsAndObjections : Prop :=
  ∀ (s : State) (l : BitVec 4) (b : BitVec 6) (p g : BitVec 3),
    let v := s.sreg 0 b.toNat
    let d := s.blazeGroup g.toNat
    (s.mayClaim g.toNat = false → exec (.blz l b p g) s = traps s .illegal none) ∧
    (s.mayClaim g.toNat = true → (s.claimSlot l.toNat).opened = none → ∃ t o, exec (.blz l b p g) s = .next t ∧
      (t.claimSlot l.toNat) = { s.claimSlot l.toNat with opened := some o, early := [] } ∧
      o.claims = [⟨s.rank, p, v, s.ringTime⟩] ∧ o.t0 = s.ringTime ∧ o.win = s.regs.bwin.toNat ∧ o.group = d ∧
      o.objections = min 255 (s.claimSlot l.toNat).early.length ∧
      (∃ m, t.plane = s.plane ++ [m] ∧ m.slot = l.toNat ∧ m.origin = some (s.cur.core, s.cur.ctx) ∧
        m.what = .claimOut l.toNat ⟨s.rank, p, v, s.ringTime⟩ d s.regs.bwin.toNat) ∧
      t.mem = s.mem ∧ ∀ j e, t.ctx j e = s.ctx j e) ∧
    (s.mayClaim g.toNat = true → ∀ o, (s.claimSlot l.toNat).opened = some o → ∃ t, exec (.blz l b p g) s = .next t ∧
      (t.claimSlot l.toNat).opened = some { o with refused := true } ∧ t.plane = s.plane ∧ t.mem = s.mem) ∧
    (∀ o, (s.claimSlot l.toNat).opened = some o → (groupMembers o.group).contains s.rank = true →
      s.ringTime < o.t0 + o.win → ∃ t o', exec (.blzobj l b) s = .next t ∧ (t.claimSlot l.toNat).opened = some o' ∧
        o'.objections = min 255 (o.objections + 1) ∧ o'.maxv.toNat = max o.maxv.toNat v.toNat ∧ o'.claims = o.claims ∧
        (∀ r, o.lowobj = some r → o'.lowobj = some (if s.rank.toNat < r.toNat then s.rank else r)) ∧
        (o.lowobj = none → o'.lowobj = some s.rank) ∧
        (∃ m, t.plane = s.plane ++ [m] ∧ m.slot = l.toNat ∧ m.what = .objectionOut l.toNat v) ∧ t.mem = s.mem) ∧
    (((s.claimSlot l.toNat).opened = none ∨
        ∃ o, (s.claimSlot l.toNat).opened = some o ∧ o.t0 + o.win ≤ s.ringTime) →
      exec (.blzobj l b) s = traps s .lateobj (some ((s.claimSlot l.toNat).seq ++ 0#28 ++ l)))

/-- R311, R312: BLZRD gives the status word, the winning value or the largest objection of its slot; BLZWT gives the
status word once the slot has counted to its sequence, and else leaves the context WAITING. The context is noted as one
that has read an outcome, with the scope that contains the group's members (log entry 8). -/
def Sys2Proof.Spec.ClaimSlotsAreReadAndAwaited : Prop :=
  ∀ (s : State) (a b : BitVec 6) (l : BitVec 4),
    let r := s.claimSlot l.toNat
    let want : Word := (s.sreg 0 b.toNat).truncate 32
    let read (x : State) : State := x.modMe fun cx => { cx with claimed := max cx.claimed (groupScope s.rank r.group) }
    (Writable s a →
      exec (.blzrd a 0 l) s = .next (read (landS s a r.status 2)) ∧
      exec (.blzrd a 1 l) s = .next (read (landS s a r.value 2)) ∧
      exec (.blzrd a 2 l) s = .next (read (landS s a r.maxv 2))) ∧
    (r.status.extractLsb' 32 32 = r.seq ∧ r.status.getLsbD 31 = r.opened.isSome ∧ r.status.getLsbD 30 = r.miss ∧
      r.status.extractLsb' 28 2 = BitVec.ofNat 2 r.code ∧ r.status.extractLsb' 16 7 = r.winner ∧
      r.status.extractLsb' 8 7 = r.lowobj ∧ r.status.extractLsb' 0 8 = BitVec.ofNat 8 r.nobj) ∧
    (Writable s a → (r.seq - want).toNat < 2 ^ 31 → ∃ t, exec (.blzwt a b l) s = .next t ∧
      t = (read (landS s a r.status 2)).modMe fun cx => { cx with bubble := max 2 cx.bubble }) ∧
    (2 ^ 31 ≤ (r.seq - want).toNat → ∃ t, exec (.blzwt a b l) s = .next t ∧ t.me.state = .waiting ∧
      t.me.wait = some (.blzwt a.toNat l.toNat want) ∧ t.me.sregs = s.me.sregs ∧ t.mem = s.mem ∧ OthersUnmoved s t)

/-- R104-R106: the copy engine's steps on the one command of a channel: an idle one starts; the block of a plain copy in
local memory moves once its cycle has come, and with it the command leaves and its counters are paid back; a block whose
source bytes the engine may not read takes the command off, its counters with it, and latches COPYFLT for the context's
next bundle. A step that comes at another moment than the core's own writes waits for them (R90, R97). -/
def Obligations.CopyCommandsStartMoveEndAndFault : Prop :=
  ∀ (s : State) (k : Fin 64) (c : Fin 4) (cmd : Command), s.channel k c = [cmd] → cmd.message = none →
    let ours (y : Nat) : Prop := rangeOf k y = .loc ∧ s.taskTile k c ((y - Config.locbase) / Config.tileBytes) = true ∧
      (y - Config.locbase) / Config.tileBytes ∈ (s.core k).engineTiles
    (cmd.started = none → ∃ t, exec (.copyCommandStart k c) s = .next t ∧
      t.channel k c = [{ cmd with started := some s.sclk.toNat }] ∧ t.mem = s.mem ∧ ∀ j d, t.ctx j d = s.ctx j d) ∧
    (s.portCore ≠ some k → ∀ j ∈ [Instr.copyCommandEnd k c 1, .copyFault k c],
      exec j s = .next { s with late := s.late ++ [j] }) ∧
    (∀ src dst n, s.portCore = some k → cmd.ahead = [] → cmd.got = [] → cmd.edges = [] → cmd.unread = n → cmd.unwritten = n → cmd.started.isSome = true → cmd.bad = false → cmd.xform = 0 →
      cmd.regs.policy = 0 → cmd.regs.bound = false → cmd.regs.rows = 1 → cmd.regs.rowb = n → 1 ≤ n → n ≤ 256 →
      cmd.done = 0 → cmd.circuit = [] → cmd.legs = [] → cmd.dirty = [] → cmd.before = [] → s.poison = [] →
      s.waitingWrites = [] → cmd.src = .localMem src → cmd.dst = .localMem dst → src < 2 ^ 63 → dst < 2 ^ 63 →
      (s.ctx k c).pbsr = n → (s.ctx k c).pbsw = n →
      (s.log = [] → cmd.dueAt 0 ≤ s.sclk.toNat → (∀ y ∈ addrRun src n ++ addrRun dst n, ours y) →
        (∀ y ∈ addrRun src n, y ∉ addrRun dst n) →
        ∃ t, exec (.copyCommandEnd k c 1) s = .next t ∧ t.channel k c = [] ∧ (t.ctx k c).pbsr = 0 ∧
          (t.ctx k c).pbsw = 0 ∧
          t.mem = s.mem.writeCells (((addrRun dst n).map fun y => localKey k (y - Config.locbase)).zip
            ((addrRun src n).map fun y => s.byte (localKey k (y - Config.locbase))))) ∧
      ((∃ y ∈ addrRun src n, ¬ ours y) → ∃ t, exec (.copyFault k c) s = .next t ∧ t.channel k c = [] ∧
        t.ctx k c = { s.ctx k c with
          pbsr := 0, pbsw := 0
          latched := (s.ctx k c).latched ++
            [(.copyflt, BitVec.ofNat 64 src, (s.ctx k c).tm && decide ((s.ctx k c).tmFrom ≤ cmd.id))] } ∧
        t.mem = s.mem))

/-- R93, R94, R99, R105: a block that is ready departs in the cycle in which the slot table opens a circuit to its landing,
by the lowest core it opens to, with the bytes it then reads, which come off PBSR, and is noted with its arrival; once due it
arrives through the circuit port and is written, and the command ends with the last; and a bound command's engine finishes a ring tile, which goes back to the context as the engine's pointer
steps. -/
def Obligations.CircuitsAndRingTiles : Prop :=
  ∀ (s : State) (k : Fin 64) (c : Fin 4) (cmd : Command), s.channel k c = [cmd] →
    cmd.message = none → cmd.bad = false → cmd.xform = 0 → cmd.legs = [] → cmd.ahead = [] → cmd.edges = [] →
    cmd.before = [] → cmd.dirty = [] → s.log = [] → s.poison = [] → s.waitingWrites = [] →
    (∀ src dst ready b cl p keys dks (entries : List (Nat × Nat × Nat)), s.portCore = some k → cmd.src = .localMem src →
      cmd.dst = .landing dst → cmd.done < cmd.blocks k →
      rangeOf k (cmd.addressAt k dst cmd.regs.estd false cmd.done) = .remote →
      (cmd.addressAt k dst cmd.regs.estd false cmd.done - Config.lbase) / Config.landingBytes = cl →
      cmd.readyAt = some ready → cmd.circuit = [] → (∀ d, d ≠ c → s.channel k d = []) →
      (∀ m ∈ s.messages, m.core ≠ k) → s.slotTableOf k c = some (p, entries) →
      (s.sclk.toNat % p, k.val, (b : Fin 64).val) ∈ entries → b.val / 8 = cl →
      (∀ e ∈ entries, e.1 = s.sclk.toNat % p → e.2.1 = k.val → e.2.2 / 8 = b.val / 8 → b.val ≤ e.2.2) →
      cmd.got = [] → keys ≠ [] → s.blockKeys k c cmd false cmd.done = .ok keys → s.blockKeys k c cmd true cmd.done = .ok dks →
      ∃ t cmd', exec (.circuitBlockDepart k c) s = .next t ∧ t.channel k c = [cmd'] ∧ cmd'.done = cmd.done + 1 ∧
        cmd'.got.lookup cmd.done = some (keys.map fun y => some (s.byte y)) ∧
        cmd'.circuit = [(s.sclk.toNat, s.sclk.toNat + (if k.val / 32 = b.val / 32 then 32 else 56), cmd.done, b)] ∧
        t.mem = s.mem ∧ t.ctx k c = { s.ctx k c with pbsr := (s.ctx k c).pbsr - min keys.length cmd.unread } ∧
        ∀ j e, j ≠ k ∨ e ≠ c → t.ctx j e = s.ctx j e) ∧
    (∀ src dst d arr b bs, cmd.src = .localMem src → cmd.dst = .landing dst → rangeOf k dst = .remote →
      cmd.circuit = [(d, arr, 0, b)] → arr ≤ s.sclk.toNat → s.circuitCore = some b →
      cmd.started.isSome = true → cmd.regs.bound = false → cmd.regs.policy = 0 → cmd.regs.rows = 1 →
      1 ≤ cmd.regs.rowb → dst % 256 + cmd.regs.rowb ≤ 256 → cmd.done = 1 → s.regs.cmpBusy = false →
      cmd.got = [(0, bs.map some)] → bs.length = cmd.regs.rowb →
      s.samePartition k ((dst - Config.lbase) / Config.landingBytes) = true →
      ∃ t, exec (.circuitBlockArrive k c) s = .next t ∧ t.channel k c = [] ∧
        t.mem = s.mem.writeCells (((addrRun dst cmd.regs.rowb).map fun y => landingKey (y - Config.lbase) cmd.key).zip bs)) ∧
    (∀ (h : Fin 16) dst, let r := s.ringOf k h
      s.portCore = some k → cmd.started.isSome = true → cmd.circuit = [] → cmd.got = [] → cmd.regs.bound = true → cmd.regs.rows = 1 → cmd.regs.rowb = 4096 → cmd.done = 15 →
      cmd.finished = 0 → cmd.dueAt 15 ≤ s.sclk.toNat → cmd.src = .ringBuf h → cmd.dst = .landing dst →
      (∀ i < 4096, rangeOf k (dst + i) = .own) → r.role = true → 1 ≤ r.len → r.base + r.len ≤ 512 →
      let tile := r.base + r.cp % r.len
      tile ∈ (s.core k).engineTiles →
      ∃ t, exec (.engineTileFinish k c) s = .next t ∧ t.channel k c = [] ∧
        t.mem = s.mem.writeCells ((List.range 256).map fun i =>
          (landingKey (dst + 3840 + i - Config.lbase) cmd.key, s.byte (localKey k (4096 * tile + 3840 + i)))) ∧
        t.ringOf k h = { r with cp := (r.cp + 1) % (2 * r.len) } ∧ tile ∉ (t.core k).engineTiles ∧
        (∀ x, x ≠ tile → (x ∈ (t.core k).engineTiles ↔ x ∈ (s.core k).engineTiles)))

/-! ### Vector forms -/

namespace Sys2Proof.Spec

/-- Both registers bear one floating code. -/
def FloatPair (x y : VReg) : Prop := codeFloat (tagCode x.tag) = true ∧ tagCode y.tag = tagCode x.tag

/-- Both registers bear one tag of an integer code. -/
def IntPair (x y : VReg) : Prop := codeInt (tagCode x.tag) = true ∧ y.tag = x.tag

/-- A lane mask may be used: it is the full one, or inactive lanes keep elements of the result's tag (R156). -/
def MaskFits (s : State) (a : BitVec 6) (m : BitVec 3) (tag : Half) : Prop := m = 0 ∨ (s.vreg 2 a.toNat).tag = tag

/-- A vector result on its way. -/
def landV (s : State) (a : BitVec 6) (tag : Half) (f : Fin 64 → Word) (latency : Nat) : State :=
  s.land (.vector a.toNat tag (Vector.ofFn f) (BitVec.allOnes 64)) latency

/-- The lanes of a form under a mask: active lanes take the elements given, the others keep those of the old register
(R156); each is of the width of the tag (R32). -/
def landE (s : State) (a : BitVec 6) (m : BitVec 3) (tag : Half) (latency : Nat) (f : Fin 64 → Nat) : State :=
  landV s a tag (fun i => laneOf (laneWidth (tagCode tag)) (if (s.mask m.toNat).getLsbD i then f i
    else ((s.vreg 2 a.toNat).lanes.get i).toNat)) latency

/-- All 64 lanes of a form, each of the width of the tag. -/
def landAll (s : State) (a : BitVec 6) (tag : Half) (latency : Nat) (f : Fin 64 → Nat) : State :=
  landV s a tag (fun i => laneOf (laneWidth (tagCode tag)) (f i)) latency

/-- A code of 8, 16 or 32 bits. -/
def WholeCode (x : VReg) : Prop := codeWhole (tagCode x.tag) = true

/-- Amounts: an integer code with scale 0. -/
def Amounts (y : VReg) : Prop := codeInt (tagCode y.tag) = true ∧ tagScale y.tag = 0

/-- The width of a register's elements. -/
def widthOfReg (x : VReg) : Nat := laneWidth (tagCode x.tag)

end Sys2Proof.Spec

/-- R156-R159: the arithmetic forms. Floating elements take the exact result rounded once to nearest; integers the
exact result modulo 2^w, or clamped with `.sat`; VMUL adds the scales and VFMA and VFMS want scale 0; registers of
different formats trap FORMAT. -/
def Obligations.VectorArithmeticResults : Prop :=
  ∀ (s : State) (u : VecUnit) (a b c : BitVec 6) (t : BitVec 1) (m : BitVec 3),
    let x := s.vreg 0 b.toNat
    let y := s.vreg 1 c.toNat
    let z := s.vreg 2 a.toNat
    let sat := decide (t = 1)
    tagValid x.tag = true → tagValid y.tag = true → tagValid z.tag = true →
    (FloatPair x y → MaskFits s a m x.tag →
      let fl (sat : Bool) (f : Machine.Num → Machine.Num → Machine.Num) := landE s a m x.tag 4 fun i => enc x.tag (f (x.num i) (y.num i)) .rne sat
      exec (.vadd u a b c t m) s = .next (fl sat fun p q => p.add q) ∧
      exec (.vsub u a b c t m) s = .next (fl sat fun p q => p.add q.neg) ∧
      exec (.vmul u a b c t m) s = .next (fl sat fun p q => p.mul q) ∧
      exec (.vmin u a b c m) s =
        .next (fl false fun p q => if p.isNan || q.isNan then .nan else if q.ltZ p then q else p) ∧
      exec (.vmax u a b c m) s =
        .next (fl false fun p q => if p.isNan || q.isNan then .nan else if p.ltZ q then q else p)) ∧
    (FloatPair x y → tagCode z.tag = tagCode x.tag →
      exec (.vfma u a b c t m) s = .next (landE s a m z.tag 4 fun i =>
        enc z.tag (((x.num i).mul (y.num i)).add (z.num i)) .rne sat) ∧
      exec (.vfms u a b c t m) s = .next (landE s a m z.tag 4 fun i =>
        enc z.tag (((x.num i).mul (y.num i)).add (z.num i).neg) .rne sat)) ∧
    (codeFloat (tagCode x.tag) = true → MaskFits s a m x.tag →
      exec (.vabs u a b t m) s = .next (landE s a m x.tag 4 fun i => enc x.tag (x.num i).abs .rne sat) ∧
      exec (.vneg u a b t m) s = .next (landE s a m x.tag 4 fun i => enc x.tag (x.num i).neg .rne sat)) ∧
    (IntPair x y → MaskFits s a m x.tag →
      let it (sat : Bool) (f : Int → Int → Int) :=
        landE s a m x.tag 2 fun i => intResult (tagCode x.tag) sat (f (x.int i) (y.int i))
      exec (.vadd u a b c t m) s = .next (it sat fun p q => p + q) ∧
      exec (.vsub u a b c t m) s = .next (it sat fun p q => p - q) ∧
      exec (.vmin u a b c m) s = .next (it false fun p q => if p ≤ q then p else q) ∧
      exec (.vmax u a b c m) s = .next (it false fun p q => if p ≤ q then q else p) ∧
      exec (.vabs u a b t m) s = .next (it sat fun p _ => if 0 ≤ p then p else -p) ∧
      exec (.vneg u a b t m) s = .next (it sat fun p _ => -p) ∧
      (z.tag = x.tag → tagScale x.tag = 0 →
        exec (.vfma u a b c t m) s = .next (landE s a m x.tag 2 fun i =>
          intResult (tagCode x.tag) sat (x.int i * y.int i + z.int i)) ∧
        exec (.vfms u a b c t m) s = .next (landE s a m x.tag 2 fun i =>
          intResult (tagCode x.tag) sat (x.int i * y.int i - z.int i)))) ∧
    (IntPair x y →
      let sc := tagScale x.tag + tagScale y.tag
      (-128 ≤ sc ∧ sc ≤ 127 → MaskFits s a m (mkTag (tagCode x.tag) sc) →
        exec (.vmul u a b c t m) s = .next (landE s a m (mkTag (tagCode x.tag) sc) 2 fun i =>
          intResult (tagCode x.tag) sat (x.int i * y.int i))) ∧
      (¬(-128 ≤ sc ∧ sc ≤ 127) → exec (.vmul u a b c t m) s = traps s .format none)) ∧
    (¬ FloatPair x y → ¬ IntPair x y → ∀ j ∈ [Instr.vadd u a b c t m, .vsub u a b c t m, .vmul u a b c t m,
        .vfma u a b c t m, .vfms u a b c t m, .vmin u a b c m, .vmax u a b c m], exec j s = traps s .format none)

/-- R160: the bitwise forms, the shifts by the amounts of vC, the funnel shifts over the old vA above vB, and the
counts of bits. -/
def Obligations.VectorBitAndShiftResults : Prop :=
  ∀ (s : State) (u : VecUnit) (a b c : BitVec 6) (m : BitVec 3),
    let x := s.vreg 0 b.toNat
    let y := s.vreg 1 c.toNat
    let z := s.vreg 2 a.toNat
    let w := widthOfReg x
    tagValid x.tag = true → tagValid y.tag = true → tagValid z.tag = true → WholeCode x →
    (tagCode y.tag = tagCode x.tag → MaskFits s a m x.tag →
      exec (.vand u a b c m) s = .next (landE s a m x.tag 2 fun i => x.bits i &&& y.bits i) ∧
      exec (.vor u a b c m) s = .next (landE s a m x.tag 2 fun i => x.bits i ||| y.bits i) ∧
      exec (.vxor u a b c m) s = .next (landE s a m x.tag 2 fun i => x.bits i ^^^ y.bits i)) ∧
    (MaskFits s a m x.tag → exec (.vnot u a b m) s = .next (landE s a m x.tag 2 fun i => 2 ^ w - 1 - x.bits i)) ∧
    (MaskFits s a m (mkTag 0x0A 0) →
      (∃ n : Fin 64 → Nat, exec (.vclz u a b m) s = .next (landE s a m (mkTag 0x0A 0) 2 n) ∧
        ∀ i, n i ≤ w ∧ (x.bits i = 0 → n i = w) ∧
          (x.bits i ≠ 0 → 2 ^ (w - 1 - n i) ≤ x.bits i ∧ x.bits i < 2 ^ (w - n i))) ∧
      exec (.vpopc u a b m) s = .next (landE s a m (mkTag 0x0A 0) 2 fun i => setBits (BitVec.ofNat 64 (x.bits i)) 64)) ∧
    (Amounts y → MaskFits s a m x.tag →
      exec (.vshl u a b c m) s = .next (landE s a m x.tag 2 fun i => x.bits i * 2 ^ y.bits i) ∧
      exec (.vshr u a b c m) s = .next (landE s a m x.tag 2 fun i => x.bits i / 2 ^ y.bits i) ∧
      exec (.vsar u a b c m) s = .next (landE s a m x.tag 2 fun i =>
        ((toSigned w (x.bits i) >>> y.bits i) % 2 ^ w).toNat)) ∧
    (Amounts y → tagCode z.tag = tagCode x.tag → MaskFits s a m x.tag →
      exec (.vfshl u a b c m) s = .next (landE s a m x.tag 2 fun i =>
        (z.bits i * 2 ^ w + x.bits i) * 2 ^ (y.bits i % w) / 2 ^ w) ∧
      exec (.vfshr u a b c m) s = .next (landE s a m x.tag 2 fun i =>
        (z.bits i * 2 ^ w + x.bits i) / 2 ^ (y.bits i % w))) ∧
    (¬ Amounts y → ∀ j ∈ [Instr.vshl u a b c m, .vshr u a b c m, .vsar u a b c m], exec j s = traps s .format none)

/-- R161-R164: comparison into a predicate, selection under one, conversion, and the change of a tag. -/
def Obligations.VectorCompareSelectConvertResults : Prop :=
  ∀ (s : State) (u : VecUnit) (a b c : BitVec 6) (k t : BitVec 1) (q : BitVec 4) (mode : BitVec 2) (i : BitVec 16),
    let x := s.vreg 0 b.toNat
    let y := s.vreg 1 c.toNat
    let z := s.vreg 2 a.toNat
    tagValid x.tag = true → tagValid y.tag = true →
    (FloatPair x y → q.toNat ≤ 6 → ∃ p : Dword, exec (.vcmp u a b c q) s = .next (s.land (.pred a.toNat p) 2) ∧
      ∀ n : Fin 64, let v := x.num n
        let w := y.num n
        let un := v.isNan || w.isNan
        p.getLsbD n = match q.toNat with
          | 0 => !un && !v.lt w && !w.lt v
          | 1 => un || v.lt w || w.lt v
          | 2 => !un && v.lt w
          | 3 => !un && !w.lt v
          | 4 => !un && w.lt v
          | 5 => !un && !v.lt w
          | _ => un) ∧
    (IntPair x y → q.toNat ≤ 6 → ∃ p : Dword, exec (.vcmp u a b c q) s = .next (s.land (.pred a.toNat p) 2) ∧
      ∀ n : Fin 64, (p.getLsbD n = true ↔ match q.toNat with
          | 0 => x.int n = y.int n
          | 1 => x.int n ≠ y.int n
          | 2 => x.int n < y.int n
          | 3 => x.int n ≤ y.int n
          | 4 => y.int n < x.int n
          | 5 => y.int n ≤ x.int n
          | _ => False)) ∧
    (x.tag = y.tag → exec (.vsel u a b c q) s =
      .next (landAll s a x.tag 2 fun n => if (s.qreg 6 q.toNat).getLsbD n then x.bits n else y.bits n)) ∧
    (x.tag ≠ y.tag → exec (.vsel u a b c q) s = traps s .format none) ∧
    (∀ tag, tag = mkTag c.toNat (if k = 1 then tagScale z.tag else 0) → WholeCode x →
      (tagValid tag = true → (k = 1 → tagValid z.tag = true) → exec (.vcvt u a b c k t mode) s =
        .next (landAll s a tag 4 fun n => enc tag (x.num n) (modeOf mode) (decide (t = 1)))) ∧
      (tagValid tag = false ∨ (k = 1 ∧ tagValid z.tag = false) →
        exec (.vcvt u a b c k t mode) s = traps s .format none)) ∧
    (tagValid z.tag = true → tagValid i = true → retagWidth (tagCode z.tag) = retagWidth (tagCode i) →
      exec (.vretag u a i) s = .next (landV s a i (fun n => z.lanes.get n) 2)) ∧
    (tagValid z.tag = true → (tagValid i = false ∨ retagWidth (tagCode z.tag) ≠ retagWidth (tagCode i)) →
      exec (.vretag u a i) s = traps s .format none)

/-- R165-R167: the transcendental forms round one value once, their special cases as the rule lists them. The value before
rounding is exact for 2^x of an integer and log2 of a power of two; of other finite values 2^x and log2 x lie in their binade,
log2 x on its side of the half as well, and 1/sqrt x within one unit of at least 100 bits; how the bits below come about is
the model's (log entry 9). Reductions fold the lanes of a group, and the scan the lanes of the group up to the lane or before
it. -/
def Obligations.VectorTranscendentalAndFoldResults : Prop :=
  ∀ (s : State) (u : VecUnit) (a b : BitVec 6) (z t e : BitVec 1) (m : BitVec 3) (g : BitVec 2),
    let x := s.vreg 0 b.toNat
    let zero := Num.fin false 0 0
    tagValid x.tag = true →
    (tagCode x.tag < 3 → let tag := mkTag (tagCode x.tag) 0
      MaskFits s a m tag →
      let fx := exp2Of (decide (z = 1))
      let fl := log2Of (decide (z = 1))
      let fr := recipOf (decide (z = 1))
      let fq := rsqrtOf (decide (z = 1))
      exec (.vexp2 a b z m) s = .next (landE s a m tag 10 fun i => enc tag (fx (x.num i)) .rne false) ∧
      exec (.vlog2 a b z m) s = .next (landE s a m tag 10 fun i => enc tag (fl (x.num i)) .rne false) ∧
      exec (.vrcp a b z m) s = .next (landE s a m tag 10 fun i => enc tag (fr (x.num i)) .rne false) ∧
      exec (.vrsq a b z m) s = .next (landE s a m tag 10 fun i => enc tag (fq (x.num i)) .rne false) ∧
      fx (.inf true) = zero ∧ fx (.inf false) = .inf false ∧ fl (.inf false) = .inf false ∧ fl (.inf true) = .nan ∧
      fq (.inf false) = zero ∧ fq (.inf true) = .nan ∧ fr .nan = .nan ∧ fq .nan = .nan ∧
      (∀ n k, fx (.fin n 0 k) = .fin false 1 0) ∧
      (∀ i : Int, -8192 < i → i < 8192 → fx (.ofInt i) = .fin false 1 i) ∧
      (∀ i : Int, 128 ≤ i → enc tag (fx (.ofInt i)) .rne false = enc tag (.inf false) .rne false) ∧
      (∀ n k l (i : Int), -8191 ≤ i → i < 8192 → let v := Num.fin n k l
        v.lt (.ofInt i) = false → v.lt (.ofInt (i + 1)) = true →
        (fx v).lt (.fin false 1 i) = false ∧ (fx v).lt (.fin false 1 (i + 1)) = true) ∧
      (∀ (j : Nat) (l : Int), fl (.fin false (2 ^ j) l) = .ofInt (l + j)) ∧
      (∀ (k : Nat) (l : Int), k ≠ 0 → k < 2 ^ 64 → let v := Num.fin false k l
        let whole := l + (k.log2 : Int)
        (fl v).lt (.ofInt whole) = false ∧ (fl v).lt (.ofInt (whole + 1)) = true ∧
          ((fl v).lt (.ofScaled (2 * whole + 1) (-1) false) = false ↔ 2 ^ (2 * k.log2 + 1) ≤ k ^ 2) ∧
          ∃ p q, fq v = .fin false p q ∧ 2 ^ 100 ≤ p ∧
            (Num.fin false 1 0).lt (((Num.fin false (p - 1) q).mul (.fin false (p - 1) q)).mul v) = false ∧
            (((Num.fin false (p + 1) q).mul (.fin false (p + 1) q)).mul v).lt (.fin false 1 0) = false) ∧
      (∀ n k, fl (.fin n 0 k) = .inf true) ∧ (∀ n k, n ≠ 0 → fl (.fin true n k) = .nan ∧ fq (.fin true n k) = .nan) ∧
      (z = 1 → fx .nan = zero ∧ fl .nan = zero ∧ ∀ n k, fr (.fin n 0 k) = zero ∧ fq (.fin n 0 k) = zero) ∧
      (z = 0 → fx .nan = .nan ∧ fl .nan = .nan ∧ ∀ n k, fr (.fin n 0 k) = .inf n ∧ fq (.fin n 0 k) = .inf n) ∧
      (∀ v, (∀ n k, v ≠ .fin n 0 k) → fr v = (Num.fin false 1 0).div v)) ∧
    (codeFloat (tagCode x.tag) = true →
      let fold (sat : Bool) (which : Fin 64 → List (Fin 64)) (f : List Machine.Num → Machine.Num) :=
        landAll s a x.tag 6 fun i => enc x.tag (f ((which i).map x.num)) .rne sat
      exec (.vredsum u a b t g) s = .next (fold (decide (t = 1)) (groupOf g) sumNum) ∧
      exec (.vredmax u a b g) s = .next (fold false (groupOf g) (foldFirst Num.greatest .nan)) ∧
      exec (.vredmin u a b g) s = .next (fold false (groupOf g) (foldFirst Num.least .nan)) ∧
      exec (.vscan u a b t e g) s = .next (fold (decide (t = 1)) (fun i => (groupOf g i).filter fun j =>
        if e = 1 then j.val < i.val else j.val ≤ i.val) sumNum)) ∧
    (codeInt (tagCode x.tag) = true →
      let fold (sat : Bool) (which : Fin 64 → List (Fin 64)) (f : List Int → Int) :=
        landAll s a x.tag 6 fun i => intResult (tagCode x.tag) sat (f ((which i).map x.int))
      exec (.vredsum u a b t g) s = .next (fold (decide (t = 1)) (groupOf g) List.sum) ∧
      exec (.vredmax u a b g) s = .next (fold false (groupOf g) (foldFirst max 0)) ∧
      exec (.vredmin u a b g) s = .next (fold false (groupOf g) (foldFirst min 0)) ∧
      exec (.vscan u a b t e g) s = .next (fold (decide (t = 1)) (fun i => (groupOf g i).filter fun j =>
        if e = 1 then j.val < i.val else j.val ≤ i.val) List.sum)) ∧
    (∀ i j : Fin 64, j ∈ groupOf g i ↔ j.val / groupSize g = i.val / groupSize g) ∧
    (codeFloat (tagCode x.tag) = false → codeInt (tagCode x.tag) = false →
      ∀ j ∈ [Instr.vredsum u a b t g, .vredmax u a b g, .vredmin u a b g, .vscan u a b t e g],
        exec j s = traps s .format none)

/-- R168-R170: lane moves between registers, to and from scalar registers, under a mask, constants, and the counters of
the context as they stood before the bundle. -/
def Obligations.VectorMoveResults : Prop :=
  ∀ (s : State) (u : VecUnit) (a b c n : BitVec 6) (d : BitVec 1) (m : BitVec 3) (i : BitVec 16),
    let x := s.vreg 0 b.toNat
    let y := s.vreg 1 c.toNat
    let z := s.vreg 2 a.toNat
    let sc := srcC s 0 c
    tagValid x.tag = true → tagValid z.tag = true →
    exec (.vbcst u a b n) s = .next (landAll s a x.tag 2 fun _ => x.bits (Fin.ofNat 64 n.toNat)) ∧
    (tagValid y.tag = true → Amounts y →
      exec (.vperm u a b c) s = .next (landAll s a x.tag 2 fun l => x.bits (Fin.ofNat 64 (y.bits l % 64)))) ∧
    (retagWidth (tagCode x.tag) = retagWidth (tagCode z.tag) → c.toNat < 32 → let k := sc.toNat % 64
      exec (.vslide u a b c d) s = .next (landAll s a x.tag 2 fun l =>
        if d = 0 then (if l.val + k ≤ 63 then x.bits (Fin.ofNat 64 (l + k)) else z.bits (Fin.ofNat 64 (l + k - 64)))
        else (if k ≤ l.val then x.bits (Fin.ofNat 64 (l - k)) else z.bits (Fin.ofNat 64 (64 + l - k))))) ∧
    (c.toNat < 32 → Writable s a → let v := x.bits (Fin.ofNat 64 (sc.toNat % 64))
      exec (.vexts u a b c 0) s = .next (landS s a (BitVec.ofNat 64 v) 2) ∧
      exec (.vexts u a b c 1) s = .next (landS s a (BitVec.ofInt 64 (toSigned (widthOfReg x) v)) 2)) ∧
    (b.toNat < 32 → c.toNat < 32 → exec (.vinss u a b c) s = .next (landAll s a z.tag 2 fun l =>
        if l.val = sc.toNat % 64 then (srcB s b).toNat else z.bits l)) ∧
    (a.toNat < 32 → b.toNat < 32 → MaskFits s a m x.tag →
      exec (.vmov u a b m) s = .next (landE s a m x.tag 2 x.bits)) ∧
    exec (.vli u a i) s = .next (landAll s a 0 2 fun _ => i.toNat * 65536) ∧
    exec (.vnfc u a) s = .next (landAll s a 0x0A 2 fun l => ((s.cur.nfc[l.val]?).getD 0).toNat)

/-! ### Operand slots, accumulator tiles and the T unit -/

namespace Sys2Proof.Spec

open Sys2Proof Sys2Proof.Machine

/-- A byte of the key space keeps its value. -/
def KeepsByte (s t : State) (k : Nat) : Prop := t.mem.read k = s.mem.read k

/-- A result on its way to an engine, under the generation of the resource it is bound for. -/
def landAt (s : State) (gen : Nat) (w : Landing) (latency : Nat) : State := s.landGen gen w latency

/-- Element (i, k) of the A latch, or (k, j) of the B latch, of a beat of depth d, as the beat uses it. -/
def latchValue (l : Latch) (g : BitVec 1) (n : Nat) : Machine.Num :=
  if g = 1 ∧ (l.value n).isFinite = false then .fin false 0 0 else l.value n

end Sys2Proof.Spec

/-- R179, R180, R181: OCLAIM takes a FREE slot with its side and tag, ORELS gives it back, OLOAD sends an image to a
slot, and XPUSH and XSHFT latch a slice of a B or an A slot; what is not held traps PERM, an image or a slice that does
not fit its slot, or a slot of the other side, ILLEGAL, and another tag, or one that is not valid, FORMAT. -/
def Obligations.OperandSlotForms : Prop :=
  ∀ (s : State) (e : BitVec 1) (n : BitVec 5) (t : BitVec 16) (a b c : BitVec 6) (k : BitVec 8) (task : Nat),
    s.me.task = some task →
    (slotTag t = true → (s.slot n.toNat).state = .free → ∃ u, exec (.oclaim e n t) s = .next u ∧
      u.slot n.toNat = ⟨.held, task, decide (e = 1), t, (s.slot n.toNat).gen + 1⟩ ∧
      (∀ m, m ≠ n.toNat → u.slot m = s.slot m) ∧
      (∀ key, (key < slotKey s.cur.core n.toNat 0 ∨ slotKey s.cur.core n.toNat 0 + Config.slotBytes ≤ key) → KeepsByte s u key) ∧
      ∀ j d, u.ctx j d = s.ctx j d) ∧
    (slotTag t = true → (s.slot n.toNat).state = .held → (s.slot n.toNat).holder ≠ task →
      ∃ u, exec (.oclaim e n t) s = .next u ∧ u.me.state = .waiting ∧ u.me.wait = some (.oclaim n.toNat) ∧
        u.cur.stopped = true ∧ u.mem = s.mem ∧ ∀ m, u.slot m = s.slot m) ∧
    (slotTag t = false → exec (.oclaim e n t) s = traps s .format none) ∧
    (s.holdsSlot n.toNat = true → slotTag t = true → exec (.oclaim e n t) s = traps s .illegal none) ∧
    (a.toNat < 32 → s.holdsSlot a.toNat = true → ∃ u, exec (.orels a) s = .next u ∧ (u.slot a.toNat).state = .free ∧
      (∀ m, m ≠ a.toNat → u.slot m = s.slot m) ∧
      (∀ key, (key < slotKey s.cur.core a.toNat 0 ∨ slotKey s.cur.core a.toNat 0 + Config.slotBytes ≤ key) → KeepsByte s u key) ∧
      ∀ j d, u.ctx j d = s.ctx j d) ∧
    (s.holdsSlot a.toNat = false → exec (.orels a) s = traps s .perm none ∧ exec (.xpush a k) s = traps s .perm none ∧
      exec (.xshft a k) s = traps s .perm none) ∧
    (s.holdsSlot b.toNat = false → exec (.oload a b c) s = traps s .perm none) ∧
    (let img := imageSize (s.vreg 0 a.toNat).tag
      let off := 64 * (s.readS 2 c).1.toNat
      s.holdsSlot b.toNat = true → tagValid (s.vreg 0 a.toNat).tag = true →
      (s.vreg 0 a.toNat).tag = (s.slot b.toNat).tag →
      (off % img = 0 → off + img ≤ Config.slotBytes → exec (.oload a b c) s =
        .next (landAt (s.readS 2 c).2 (s.slot b.toNat).gen (.slotBytes b.toNat off (s.vreg 0 a.toNat).image) 2)) ∧
      ((off % img ≠ 0 ∨ Config.slotBytes < off + img) → exec (.oload a b c) s = traps s .illegal none)) ∧
    (s.holdsSlot b.toNat = true →
      (tagValid (s.vreg 0 a.toNat).tag = false ∨ (s.vreg 0 a.toNat).tag ≠ (s.slot b.toNat).tag) →
      exec (.oload a b c) s = traps s .format none) ∧
    (let sl := s.slot a.toNat
     s.holdsSlot a.toNat = true →
      (tagValid sl.tag = false → (sl.sideB = true → exec (.xpush a k) s = traps s .format none) ∧
        (sl.sideB = false → exec (.xshft a k) s = traps s .format none)) ∧
      (tagValid sl.tag = true → Config.slotBytes / sliceBytes sl.sideB sl.tag ≤ k.toNat →
        exec (.xpush a k) s = traps s .illegal none ∧ exec (.xshft a k) s = traps s .illegal none)) ∧
    (let sl := s.slot a.toNat
      let len := sliceBytes sl.sideB sl.tag
      s.holdsSlot a.toNat = true → tagValid sl.tag = true → s.poison = [] → k.toNat < Config.slotBytes / len →
      (∀ l, l = Latch.mk sl.tag (s.bytes (slotKey s.cur.core a.toNat (k.toNat * len)) len) false →
        (sl.sideB = true → exec (.xpush a k) s = .next (s.land (.latch true l) 1) ∧
          exec (.xshft a k) s = traps s .illegal none) ∧
        (sl.sideB = false → exec (.xshft a k) s = .next (s.land (.latch false l) 1) ∧
          exec (.xpush a k) s = traps s .illegal none)))

/-- R172, R182-R186: the accumulator forms on a tile that the task holds, with nothing on its way to it: a beat of the
latches, a clear, normalisation and the setting of row exponents go on their way to the tile with their latencies; the
exponents and a column's values, converted or raw, go to vector registers. A tile of another holder traps PERM. -/
def Sys2Proof.Spec.AccumulatorForms : Prop :=
  ∀ (s : State) (a b c : BitVec 6) (g l : BitVec 1) (n : BitVec 4) (e : BitVec 16) (task : Nat),
    let k := s.cur.core
    let t := a.toNat
    let gen := s.tileGen t
    s.me.task = some task → s.tilePending t = [] → s.poison = [] →
    (s.myCore.tiles[t]? = some (.held task) →
      (∀ d, beatDepth (tagCode s.me.latchA.tag) (tagCode s.me.latchB.tag) = some d →
        tagValid s.me.latchA.tag = true → tagValid s.me.latchB.tag = true → s.me.latchA.poison = false → s.me.latchB.poison = false →
        exec (.xacc a 0 n) s = .next (landAt s gen (.beat t s.me.latchA s.me.latchB false) 6) ∧
        exec (.xacc a 1 n) s = .next ((landAt s gen (.beat t s.me.latchA s.me.latchB true) 6).land
          (.nfc n.toNat (beatReplaced s.me.latchA s.me.latchB d)) 7)) ∧
      (beatDepth (tagCode s.me.latchA.tag) (tagCode s.me.latchB.tag) = none ∨ tagValid s.me.latchA.tag = false ∨
          tagValid s.me.latchB.tag = false →
        exec (.xacc a g n) s = traps s .format none) ∧
      exec (.xnorm a) s = .next (landAt s gen (.norm t) 12) ∧
      exec (.xsexp a b c 1) s =
        .next (landAt (s.readS 1 b).2 gen (.setExp t none ((s.readS 1 b).1.truncate 16)) 2) ∧
      (b.toNat < 32 → c.toNat < 32 → exec (.xsexp a b c 0) s = .next (landAt s gen
        (.setExp t (some ((s.sreg 2 c.toNat).toNat % 64)) ((s.sreg 1 b.toNat).truncate 16)) 2)) ∧
      exec (.xgexp b a) s = .next (landV s b (mkTag 0x06 0) (fun i => (s.accExp k t i).signExtend 32) 8)) ∧
    (s.myCore.tiles[t]? = some (.held task) ∨ s.myCore.tiles[t]? = some .free →
      ∃ u, exec (.xclr a e) s = .next u ∧ u.myCore.tiles[t]? = some (.held task) ∧
        (∀ m, m ≠ t → u.myCore.tiles[m]? = s.myCore.tiles[m]?) ∧ u.mem = s.mem ∧
        u.me = (landAt s gen (.clearTile t e) 2).me ∧ OthersUnmoved s u) ∧
    (s.myCore.tiles[t]? ≠ some (.held task) → ∀ j ∈ [Instr.xnorm a, .xsexp a b c l, .xgexp b a],
      exec j s = traps s .perm none)

/-- R186: XDRN drains column j under the destination's tag, and XDRN.raw its words into a register pair; a column
beyond 95 traps ILLEGAL. -/
def Sys2Proof.Spec.DrainForms : Prop :=
  ∀ (s : State) (v : BitVec 5) (p : BitVec 4) (sat : BitVec 1) (m : BitVec 2) (j : BitVec 7) (a : BitVec 6) (task : Nat),
    let k := s.cur.core
    let t := a.toNat
    let old := s.vreg 2 v.toNat
    s.me.task = some task → s.tilePending t = [] → s.poison = [] → s.myCore.tiles[t]? = some (.held task) →
    (95 < j.toNat → exec (.xdrn v sat m j a) s = traps s .illegal none ∧ exec (.xdrnRaw p j a) s = traps s .illegal none) ∧
    (j.toNat ≤ 95 → tagValid old.tag = true → WholeCode old →
      exec (.xdrn v sat m j a) s = .next (landV s (v.zeroExtend 6) old.tag (fun i => laneOf (widthOfReg old)
        (enc old.tag (drainValue (s.accWord k t i j.toNat) (s.accExp k t i)) (modeOf m) (decide (sat = 1)))) 8)) ∧
    (j.toNat ≤ 95 → exec (.xdrnRaw p j a) s = .next (landV
      (landV s (BitVec.ofNat 6 (2 * p.toNat)) 0x0F (fun i => (s.accWord k t i j.toNat).extractLsb' 0 32) 8)
      (BitVec.ofNat 6 (2 * p.toNat + 1)) 0x0F (fun i => (s.accWord k t i j.toNat).extractLsb' 32 32) 8))

/-- R44, R183-R185: what the results make of their tile: a clear gives zero words and one exponent, a beat of finite
elements adds the products rounded to the row's unit, and a word with its NaN flag stays. -/
def Sys2Proof.Spec.TileResults : Prop :=
  ∀ (v : TileView) (t : Nat) (e : Half) (r : Nat) (a b : Latch) (g : BitVec 1) (d i j : Nat),
    (Landing.clearTile t e).onTile v = ⟨fun _ _ => 0, fun _ => e⟩ ∧
    ((Landing.setExp t none e).onTile v).word = v.word ∧ ((Landing.setExp t none e).onTile v).exp i = e ∧
    ((Landing.setExp t (some r) e).onTile v).word = v.word ∧
    ((Landing.setExp t (some r) e).onTile v).exp i = (if i = r then e else v.exp i) ∧
    (beatDepth (tagCode a.tag) (tagCode b.tag) = some d →
      let w := v.word i j
      let u := ((Landing.beat t a b (decide (g = 1))).onTile v).word i j
      ((Landing.beat t a b (decide (g = 1))).onTile v).exp = v.exp ∧
      (w.getLsbD 58 = true → u = w) ∧
      (w.getLsbD 58 = false → (∃ k < d, (latchValue a g (i * d + k)).isFinite = false ∨
          (latchValue b g (k * Config.tileCols + j)).isFinite = false) → u = w ||| (1#64 <<< 58)) ∧
      (w.getLsbD 58 = false →
        ∀ q : Nat → Int × Bool, (∀ k < d, ∃ n x y n' x' y', latchValue a g (i * d + k) = .fin n x y ∧
            latchValue b g (k * Config.tileCols + j) = .fin n' x' y' ∧
            q k = rneInt ((if n = n' then 1 else -1) * (x * x' : Nat)) (y + y' - (v.exp i).toInt)) →
          let sum := accMant w + ((List.range d).map fun k => (q k).1).sum
          accMant u = max (-(2 ^ 55)) (min sum (2 ^ 55 - 1)) ∧
          (u.getLsbD 57 = true ↔ w.getLsbD 57 = true ∨ sum < -(2 ^ 55) ∨ 2 ^ 55 - 1 < sum) ∧
          (u.getLsbD 56 = true ↔ w.getLsbD 56 = true ∨ ∃ k < d, (q k).2 = false)))

/-- R46: normalisation. Words with the NaN flag stay, and the others keep their flags but for IX. A row whose greatest
magnitude is below 2^46 is shifted left, each word exactly, and one whose greatest is 2^47 or more right, each word rounded
once to nearest, with IX where that is not exact; the row's exponent moves by the shift, within its range. Where the range
allows the shift, the greatest magnitude then has its leading one at bit 46; a row of zeros keeps its exponent. -/
def Sys2Proof.Spec.NormalisedRowFillsTheField : Prop :=
  ∀ (v : TileView) (t i : Nat),
    let row (x : TileView) := rowMax ((List.range Config.tileCols).map (x.word i))
    let u := (Landing.norm t).onTile v
    let counted (j : Nat) : Prop := j < Config.tileCols ∧ (v.word i j).getLsbD 58 = false
    let old (j : Nat) : Int := accMant (v.word i j)
    let new (j : Nat) : Int := accMant (u.word i j)
    let exp := (v.exp i).toInt
    let inexact (x : TileView) (j : Nat) : Prop := (x.word i j).getLsbD 56 = true
    (∀ j, (v.word i j).getLsbD 58 = true → u.word i j = v.word i j) ∧
    (∀ j, counted j → (u.word i j).getLsbD 58 = false ∧ (u.word i j).getLsbD 57 = (v.word i j).getLsbD 57) ∧
    (row v = 0 → u.exp i = v.exp i ∧ row u = 0) ∧
    (row v ≠ 0 → row v < 2 ^ 46 → ∃ k k' : Nat, 2 ^ 46 ≤ row v * 2 ^ k ∧ row v * 2 ^ k < 2 ^ 47 ∧
      (k' : Int) = min (k : Int) (exp + 32768) ∧ (u.exp i).toInt = exp - k' ∧
      ∀ j, counted j → new j = old j * 2 ^ k' ∧ (inexact u j ↔ inexact v j)) ∧
    (2 ^ 46 ≤ row v → row v < 2 ^ 47 →
      u.exp i = v.exp i ∧ ∀ j, counted j → new j = old j ∧ (inexact u j ↔ inexact v j)) ∧
    (2 ^ 47 ≤ row v → ∃ k k' : Nat, (∀ j, counted j → (rneInt (old j) (-(k : Int))).1.natAbs < 2 ^ 47) ∧
      (∀ l < k, ∃ j, counted j ∧ 2 ^ 47 ≤ (rneInt (old j) (-(l : Int))).1.natAbs) ∧
      (k' : Int) = min (k : Int) (32767 - exp) ∧ (u.exp i).toInt = exp + k' ∧
      ∀ j, counted j → new j = (rneInt (old j) (-(k' : Int))).1 ∧
        (inexact u j ↔ inexact v j ∨ (rneInt (old j) (-(k' : Int))).2 = false)) ∧
    (row v ≠ 0 → -32768 < exp + normShift (row v) exp → exp + normShift (row v) exp < 32767 →
      2 ^ 46 ≤ row u ∧ row u < 2 ^ 47)

namespace Sys2Proof.Spec

/-- The addresses of a head: the image of the ring's tag from offset `off`, in units of 64 bytes, in the tile of ring
index p (R98). -/
def headAddrs (r : Ring) (p off : Nat) : List Nat :=
  (List.range (imageSize r.tag)).map fun i => Config.locbase + (r.base + p % r.len) * 4096 + (off * 64 + i) % 4096

/-- The bytes lie in local memory, in tiles that the engine does not own. -/
def Reachable (s : State) (as : List Nat) : Prop :=
  ∀ y ∈ as, rangeOf s.cur.core y = .loc ∧ (y - Config.locbase) / 4096 ∉ s.myCore.engineTiles

/-- The keys of bytes of local memory. -/
def localKeys (s : State) (as : List Nat) : List Nat := as.map fun y => localKey s.cur.core (y - Config.locbase)

/-- A source of a T form: a vector register, or what stands at a consumer head of the task, which the read moves on
(R99, R187); the read is one of the context's accesses (R222). -/
def Source (s : State) (b : BitVec 6) (task : Nat) (x : VReg) (v : State) : Prop :=
  (b.toNat < 32 ∧ tagValid (s.vreg 0 b.toNat).tag = true ∧ x = s.vreg 0 b.toNat ∧ v = s) ∨
  (32 ≤ b.toNat ∧
    let h := b.toNat - 32
    let r := s.ring h
    let as := headAddrs r r.cp r.coff
    r.holder = some task ∧ r.role = false ∧ Reachable s as ∧ (∀ y ∈ localKeys s as, y ∉ s.poison) ∧
      tagValid r.tag = true ∧
      x = ⟨r.tag, lanesOfImage r.tag (s.localNow (localKeys s as))⟩ ∧
      v = ((s.modRing h fun q => { q with coff := (q.coff + imageSize r.tag / 64) % 64 }).issueOnChip s.cur.core
        s.cur.ctx .loc ((minimum as).getD 0) (.read (localKeys s as) .head) {}).fresh)

end Sys2Proof.Spec

/-- R99, R187-R192: the T unit's forms on registers and on circular-buffer heads, which take five cycles more:
transposition by shape, interleaving, unpacking and packing of index streams, loading of a codebook table, expansion
through tables, and conversion. -/
def Obligations.TransformForms : Prop :=
  ∀ (s v : State) (x : VReg) (a b c : BitVec 6) (sh op : BitVec 2) (k : BitVec 5) (m n mode : BitVec 2) (h e : BitVec 1)
    (task : Nat), s.me.task = some task → Source s b task x v →
    let late := if b.toNat < 32 then 0 else 5
    (laneMoveTag x.tag = true →
      exec (.txpose a b sh) s = .next (landAll v a x.tag (6 + late) fun i => x.bits (Fin.ofNat 64 (match sh.toNat with
        | 0 => i % 8 * 8 + i / 8
        | 1 => i % 4 * 16 + i / 4
        | _ => i % 16 * 4 + i / 16)))) ∧
    (b.toNat < 32 → ∀ y, y = s.vreg 1 c.toNat → laneMoveTag x.tag = true → y.tag = x.tag →
      exec (.tintlv a b c op) s = .next (landAll s a x.tag 3 fun i => match op.toNat with
        | 0 => if i.val % 2 = 0 then x.bits (Fin.ofNat 64 (i / 2)) else y.bits (Fin.ofNat 64 (i / 2))
        | 1 => if i.val % 2 = 0 then x.bits (Fin.ofNat 64 (32 + i / 2)) else y.bits (Fin.ofNat 64 (32 + i / 2))
        | 2 => if i.val < 32 then x.bits (Fin.ofNat 64 (2 * i)) else y.bits (Fin.ofNat 64 (2 * (i - 32)))
        | _ => if i.val < 32 then x.bits (Fin.ofNat 64 (2 * i + 1)) else y.bits (Fin.ofNat 64 (2 * (i - 32) + 1)))) ∧
    (laneMoveTag x.tag = false → exec (.txpose a b sh) s = traps s .format none) ∧
    (∀ stream w, ((tagCode x.tag = 0x0C ∨ tagCode x.tag = 0x0D ∨ tagCode x.tag = 0x0E) ∧ m = 0 ∧
          stream = streamOf 32 x.lanes ∧ w = widthOf (tagCode x.tag)) ∨
        (tagCode x.tag = 0x08 ∧ m ≠ 0 ∧ stream = streamOf 8 x.lanes ∧ w = packWidth m) →
      exec (.tunpack a b k m) s =
        .next (landAll v a 0x08 (3 + late) fun i => stream / 2 ^ (w * (64 * k.toNat + i)) % 2 ^ w)) ∧
    (tagValid (s.vreg 2 a.toNat).tag = false → exec (.tpack a b k m) s = traps s .format none) ∧
    (x.tag = 0x08 → m ≠ 0 → tagValid (s.vreg 2 a.toNat).tag = true → let w := packWidth m
      let tag : Half := BitVec.ofNat 16 (packCode w)
      ∃ f : Fin 64 → Nat, exec (.tpack a b k m) s = .next (landAll v a tag (3 + late) f) ∧
        (w * (64 * k.toNat + 64) ≤ 2048 → ∀ i : Fin 64,
          streamOf 32 (Vector.ofFn fun l => BitVec.ofNat 32 (f l)) / 2 ^ (w * (64 * k.toNat + i)) % 2 ^ w =
            x.bits i % 2 ^ w) ∧
        ((s.vreg 2 a.toNat).tag = tag → ∀ n, (n < w * 64 * k.toNat ∨ w * 64 * (k.toNat + 1) ≤ n) → n < 2048 →
          (streamOf 32 (Vector.ofFn fun l => BitVec.ofNat 32 (f l))).testBit n =
            (streamOf 32 (s.vreg 2 a.toNat).lanes).testBit n)) ∧
    (tagCode x.tag = 0x01 → a.toNat < 4 →
      ((s.table a.toNat).holder = none ∨ (s.table a.toNat).holder = some task →
        ∃ u, exec (.tctld a b) s = .next u ∧ (u.table a.toNat).holder = some task ∧ u.mem = s.mem ∧
          (∀ q, q ≠ a.toNat → u.table q = s.table q) ∧ OthersUnmoved s u ∧
          u.me = (landAt v (u.table a.toNat).gen
            (.table a.toNat ((List.range 8).map fun i => ((x.lanes[i]?).getD 0).truncate 16) (tagScale x.tag))
            (4 + late)).me) ∧
      (∀ q, (s.table a.toNat).holder = some q → q ≠ task → exec (.tctld a b) s = traps s .perm none)) ∧
    ((tagCode x.tag = 0x0C ∨ tagCode x.tag = 0x0D ∨ tagCode x.tag = 0x08 ∧ k = 0) →
      (∀ q < 4, (s.table q).holder = some task) → (∀ j d, (s.ctx j d).flight = [] ∧ (s.ctx j d).held = []) →
      exec (.texpand a b k n) s = .next (landAll v a (mkTag 0x01 (s.table n.toNat).scale) (4 + late) fun i =>
        let e := expandIndex x k i
        ((((s.table ((n.toNat + e / 8) % 4)).entries[e % 8]?).getD 0)).toNat)) ∧
    (∀ tag, tag = mkTag c.toNat (if h = 1 then tagScale (s.vreg 2 a.toNat).tag else 0) → WholeCode x →
      tagValid tag = true → (h = 1 → tagValid (s.vreg 2 a.toNat).tag = true) → exec (.tcvt a b c h e mode) s =
        .next (landAll v a tag (5 + late) fun i => enc tag (x.num i) (modeOf mode) (decide (e = 1))))

/-- R98, R99: VMOV from a consumer head reads the tile at the context's pointer and steps the offset in it; VMOV to a
producer head writes there; a register of another tag, and a head whose tag is no valid one, trap FORMAT, and a ring that
the task does not hold, or of the other role, PERM, of a producer head whatever the register's tag (log entry 84). A T form
reads the head's image as the register it would fill. -/
def Obligations.CircularBufferHeads : Prop :=
  ∀ (s : State) (u : VecUnit) (a b : BitVec 6) (m : BitVec 3) (h task : Nat),
    let r := s.ring h
    let n := imageSize r.tag
    let at_ := headAddrs r
    let mine := Reachable s
    let keys := localKeys s
    s.me.task = some task → h < 16 →
    (b.toNat = 32 + h → r.holder = some task → r.role = false → mine (at_ r.cp r.coff) → tagValid r.tag = false →
      exec (.vmov u a b m) s = traps s .format none ∧ exec (.txpose a b 0) s = traps s .format none) ∧
    (b.toNat = 32 + h → r.holder = some task → r.role = false → n ≠ 0 → mine (at_ r.cp r.coff) → tagValid r.tag = true →
      (∃ t, exec (.vmov u a b m) s = .next t ∧ t.ring h = { r with coff := (r.coff + n / 64) % 64 } ∧ t.mem = s.mem ∧
        (∃ q, t.myCore.memq = s.myCore.memq ++ [q] ∧ q.left = 2 ∧ q.ctx = s.cur.ctx ∧
          q.act = .read (keys (at_ r.cp r.coff)) (.vector a.toNat r.tag)) ∧
        (∃ f, t.me.flight.getLast? = some f ∧ f.what = .load (.vector a.toNat r.tag) ∧ f.left = 5) ∧
        t.me.vregs = s.me.vregs ∧ t.me.sregs = s.me.sregs ∧ OthersUnmoved s t) ∧
      ((∀ y ∈ keys (at_ r.cp r.coff), y ∉ s.poison) → ∃ t,
        s.readVAny 0 b = .ok (some ⟨r.tag, lanesOfImage r.tag (s.localNow (keys (at_ r.cp r.coff)))⟩, t) ∧
        t.ring h = { r with coff := (r.coff + n / 64) % 64 } ∧ ∀ j d, t.ctx j d = s.ctx j d)) ∧
    (b.toNat < 32 → tagValid (s.vreg 0 b.toNat).tag = true → a.toNat = 32 + h → r.holder = some task → r.role = true →
      n ≠ 0 → mine (at_ r.pp r.poff) →
      ((s.vreg 0 b.toNat).tag = r.tag → ∃ t, exec (.vmov u a b m) s = .next t ∧
        t.ring h = { r with poff := (r.poff + n / 64) % 64 } ∧ t.mem = s.mem ∧
        (∃ q, t.myCore.memq = s.myCore.memq ++ [q] ∧ q.left = 2 ∧ q.ctx = s.cur.ctx ∧
          q.act = .write ((keys (at_ r.pp r.poff)).zip (s.vreg 0 b.toNat).image)) ∧
        (∀ j d, t.ctx j d = s.ctx j d)) ∧
      ((s.vreg 0 b.toNat).tag ≠ r.tag → exec (.vmov u a b m) s = traps s .format none)) ∧
    (b.toNat = 32 + h → (r.holder ≠ some task ∨ r.role = true) → exec (.vmov u a b m) s = traps s .perm none) ∧
    (b.toNat < 32 → tagValid (s.vreg 0 b.toNat).tag = true → a.toNat = 32 + h →
      (r.holder ≠ some task ∨ r.role = false) → exec (.vmov u a b m) s = traps s .perm none)

/-! ### Sketch accumulators -/

namespace Sys2Proof.Spec

open Sys2Proof Sys2Proof.Machine

/-- A descriptor of the task that a form may use, with nothing on its way to it and no error in its tiles. -/
def SketchReady (s : State) (n task : Nat) : Prop :=
  s.me.task = some task ∧ (s.sketch n).holder = some task ∧ (s.sketch n).defined = true ∧ (s.sketch n).busy = none ∧
    s.sketchPending n = [] ∧ s.poison = [] ∧ n < 16

/-- Descriptor n alone has changed, and it is d. -/
def SketchIs (s t : State) (n : Nat) (d : Sketch) : Prop :=
  t.sketch n = d ∧ (∀ m, m ≠ n → t.sketch m = s.sketch m) ∧ t.mem = s.mem ∧ OthersUnmoved s t ∧
    t.me.sregs = s.me.sregs ∧ t.me.vregs = s.me.vregs

/-- One result more is on its way. -/
def Sends (t : State) (what : Landing) (left gen : Nat) : Prop :=
  ∃ f ∈ t.me.flight, f.what = what ∧ f.left = left ∧ f.gen = gen ∧ f.fresh = true

/-- A byte that belongs to no word and no row exponent of an accumulator tile of the core (R43). -/
def OutsideTile (s : State) (i : Fin 64) (key : Nat) : Prop :=
  (key < accKey s.cur.core i 0 0 ∨ accKey s.cur.core i 0 0 + 49152 ≤ key) ∧
    (key < expKey s.cur.core i 0 ∨ expKey s.cur.core i 0 + Config.tileBytes ≤ key)

/-- The words of a definition value (R194, R195): rows, columns, rank and capacity limits. -/
def definitionOf (v : Dword) : Sketch := { Sketch.reset with definition := v }

end Sys2Proof.Spec

/-- R195, R216-R218: SKDEF takes a FREE descriptor and its tiles and clears it two cycles on; SKCLR clears to a column
count or frees the descriptor and its tiles, whose contents alone are lost; SKSTAT gives its status word and SKSIL reads
or writes its sillage. That COLS of SKCLR is set at issue, two cycles before the rest is cleared, is the model's choice (log
entry 34). -/
def Obligations.SketchDefinitionForms : Prop :=
  ∀ (s : State) (n : BitVec 4) (a b : BitVec 6) (f : BitVec 2) (task : Nat),
    let d := s.sketch b.toNat
    let v := (s.readS 1 b).1
    let new := definitionOf v
    (s.me.task = some task → (s.sketch n.toNat).holder = none → v &&& 0xFFC0F0FE00000000 = 0 →
      new.base + new.nt ≤ 64 →
      (∀ i ∈ new.tiles, s.myCore.tiles[i]? = some .free ∨ s.myCore.tiles[i]? = some (.held task)) →
      ∃ t, exec (.skdef n b) s = .next t ∧
        SketchIs s t n.toNat { new with holder := some task, gen := (s.sketch n.toNat).gen + 1 } ∧
        Sends t (.skClear n.toNat 0) 2 ((s.sketch n.toNat).gen + 1) ∧
        ∀ i, t.myCore.tiles[i]? = if i ∈ new.tiles then some (.sketch n.toNat) else s.myCore.tiles[i]?) ∧
    (s.me.task = some task → ((s.sketch n.toNat).holder = some task ∨ v &&& 0xFFC0F0FE00000000 ≠ 0 ∨
      64 < new.base + new.nt) → exec (.skdef n b) s = traps s .illegal none) ∧
    (SketchReady s b.toNat task →
      (Writable s a →
        exec (.skstat a b) s = .next (landS s a (BitVec.ofNat 64 (d.cap * 2 ^ 40 + d.rank * 2 ^ 32 + d.nt * 2 ^ 16 +
          d.base * 2 ^ 10 + (if d.pois then 2 ^ 9 else 0) + 2 ^ 8 + d.cols)) 2) ∧
        (f = 0 → exec (.sksil a b 0 f) s = .next (landS s a d.silE 2)) ∧
        (f = 1 → exec (.sksil a b 0 f) s = .next (landS s a d.silN 2)) ∧
        (f = 2 → exec (.sksil a b 0 f) s = .next (landS s a (d.silK.zeroExtend 64) 2))) ∧
      exec (.sksil a b 1 f) s = .next (landAt (s.readS 2 a).2 d.gen (.skSil b.toNat f.toNat (s.readS 2 a).1) 2)) ∧
    (SketchReady s a.toNat task → let e := s.sketch a.toNat
      (∃ t, exec (.skclr a b 1) s = .next t ∧ t.sketch a.toNat = { Sketch.reset with gen := e.gen + 1 } ∧
        (∀ m, m ≠ a.toNat → t.sketch m = s.sketch m) ∧ (∀ j c, t.ctx j c = s.ctx j c) ∧
        (∀ i : Fin 64, t.myCore.tiles.get i =
          if s.myCore.tiles.get i = .sketch a.toNat then .free else s.myCore.tiles.get i) ∧
        ∀ key, (∀ i : Fin 64, s.myCore.tiles.get i = .sketch a.toNat → OutsideTile s i key) → KeepsByte s t key) ∧
      (v.toNat ≤ e.cap → ∃ t, exec (.skclr a b 0) s = .next t ∧ SketchIs s t a.toNat { e with cols := v.toNat } ∧
        Sends t (.skClear a.toNat v.toNat) 2 e.gen) ∧
      (e.cap < v.toNat → exec (.skclr a b 0) s = traps s .illegal none)) ∧
    (d.holder = none → exec (.skstat a b) s = traps s .illegal none ∧ exec (.sksil a b 0 f) s = traps s .illegal none) ∧
    (s.me.task = some task → d.holder ≠ none → d.holder ≠ some task →
      exec (.skstat a b) s = traps s .perm none ∧ exec (.sksil a b 0 f) s = traps s .perm none) ∧
    (s.me.task = some task → d.holder = some task → (d.defined = false ∨ d.busy ≠ none) →
      exec (.skstat a b) s = traps s .illegal none ∧ exec (.sksil a b 0 f) s = traps s .illegal none)

/-- R300: a push to an fo register whose binding is not enabled, or names a virtual channel below 2, traps ILLEGAL and
pushes nothing, whichever form it is: those of two sources, of one, of none, VEXTS, SKSTAT, SKSIL, BLZRD and BLZWT; of
TBARR and TBWAIT another statement says it. -/
def Sys2Proof.Spec.UnboundPushTrapsIllegal : Prop :=
  ∀ (s : State) (u : ScalarUnit) (v : VecUnit) (a b c n : BitVec 6) (i : BitVec 16) (k l : BitVec 4) (r : BitVec 8)
    (e : BitVec 1) (f : BitVec 2) (task : Nat),
    (¬ Writable s a →
      ∀ j ∈ [Instr.li u a i, .qtos u a b, .qpopc u a b, .sysrd a r, .blzrd a f l], exec j s = traps s .illegal none) ∧
    (¬ Writable (afterB s b) a →
      ∀ j ∈ [Instr.mov u a b, .popc u a b, .clz u a b, .ctz u a b, .shli u a b n, .shri u a b n, .sari u a b n,
        .cmpi u a b c k], exec j s = traps s .illegal none) ∧
    (¬ Writable (afterC s b c) a →
      ∀ j ∈ [Instr.add u a b c, .sub u a b c, .mul u a b c, .mulh u a b c, .mulhu u a b c, .div u a b c, .divu u a b c,
        .rem u a b c, .remu u a b c, .and u a b c, .or u a b c, .xor u a b c, .shl u a b c, .shr u a b c, .sar u a b c,
        .min u a b c, .max u a b c, .minu u a b c, .maxu u a b c, .cmp u a b c k], exec j s = traps s .illegal none) ∧
    (tagValid (s.vreg 0 b.toNat).tag = true → ¬ Writable (s.readS 1 c).2 a →
      exec (.vexts v a b c e) s = traps s .illegal none) ∧
    (SketchReady s b.toNat task → ¬ Writable s a →
      exec (.skstat a b) s = traps s .illegal none ∧ exec (.sksil a b 0 f) s = traps s .illegal none) ∧
    (((s.claimSlot l.toNat).seq - (s.sreg 0 b.toNat).truncate 32).toNat < 2 ^ 31 → ¬ Writable s a →
      exec (.blzwt a b l) s = traps s .illegal none)

/-- R194, R198-R200: a fold of one column from registers or of a block from two slots appends its columns where they
fit, four cycles on or after the block's time; where they do not it bucks first and is busy; an element that is not
finite poisons the descriptor, or with `.g` counts and takes zero. -/
def Obligations.SketchFolds : Prop :=
  ∀ (s : State) (g : BitVec 1) (n : BitVec 4) (b c w : BitVec 6) (r l : BitVec 5) (task : Nat),
    let d := s.sketch n.toNat
    let x := s.groupElems b d.m
    let y := s.groupElems c d.n
    let k := w.toNat + 1
    let xs := (List.range k).map (s.slotColumn l.toNat d.m)
    let ys := (List.range k).map (s.slotColumn r.toNat d.n)
    let late := 4 + k * ((d.m + 63) / 64 + (d.n + 63) / 64)
    let size (slot h : Nat) : Nat := k * h * (widthOf (tagCode (s.slot slot).tag) / 8)
    SketchReady s n.toNat task → d.pois = false →
    ((∀ q ∈ groupRegs b d.m ++ groupRegs c d.n, q < 32 ∧ foldTag (s.vreg 0 q).tag = true) →
      (∀ cl cr, foldColumns d.bf16 (decide (g = 1)) [x] = some cl → foldColumns d.bf16 (decide (g = 1)) [y] = some cr →
        (d.cols < d.cap → ∃ t, exec (.skfold g n b c) s = .next t ∧ SketchIs s t n.toNat { d with cols := d.cols + 1 } ∧
          Sends t (.skColumns n.toNat d.cols cl cr) 4 d.gen ∧
          (g = 1 → Sends t (.nfc d.tens (replacedIn [x] + replacedIn [y])) 5 0)) ∧
        (d.cap ≤ d.cols → ∃ t, exec (.skfold g n b c) s = .next t ∧
          SketchIs s t n.toNat { d with
            cols := min d.rank (min d.n d.cols) + 1
            busy := some ⟨s.cur.ctx, buckCycles d.m d.n d.cols + 4, d.cols, none, .fold cl cr false,
              if g = 1 then some s.nextId else none⟩ } ∧
          (g = 1 → Sends t (.nfc d.tens (replacedIn [x] + replacedIn [y])) (buckCycles d.m d.n d.cols + 5) 0))) ∧
      (foldColumns d.bf16 (decide (g = 1)) [x] = none → d.cols < d.cap → ∃ t, exec (.skfold g n b c) s = .next t ∧
        SketchIs s t n.toNat d ∧ Sends t (.skPoison n.toNat true) 4 d.gen)) ∧
    (s.holdsSlot l.toNat = true → s.holdsSlot r.toNat = true → foldTag (s.slot l.toNat).tag = true →
      foldTag (s.slot r.toNat).tag = true → k ≤ d.cap - d.rank → size l.toNat d.m ≤ Config.slotBytes →
      size r.toNat d.n ≤ Config.slotBytes →
      ∀ cl cr, foldColumns d.bf16 (decide (g = 1)) xs = some cl → foldColumns d.bf16 (decide (g = 1)) ys = some cr →
        d.cols + k ≤ d.cap → ∃ t, exec (.skfoldo g n w r l) s = .next t ∧
          SketchIs s t n.toNat { d with cols := d.cols + k } ∧ Sends t (.skColumns n.toNat d.cols cl cr) late d.gen ∧
          (g = 1 → Sends t (.nfc d.tens (replacedIn xs + replacedIn ys)) (late + 1) 0)) ∧
    (s.holdsSlot l.toNat = false → exec (.skfoldo g n w r l) s = traps s .perm none) ∧
    ((∃ q ∈ groupRegs b d.m ++ groupRegs c d.n, q < 32 ∧ foldTag (s.vreg 0 q).tag = false) →
      exec (.skfold g n b c) s = traps s .format none)

/-- R204, R207-R211: SKSHR makes the descriptor busy with a buck and SKACC both descriptors with an accord for the stated
cycles; at the end of the last one the buck's factors and its discarded energy, or the source's columns and its sillage,
are there. That COLS is set at issue (log entry 34), and where the descriptor is or becomes poisoned is the count without the
poison (log entry 75), are the model's choices. -/
def Obligations.SketchBucksAndAccords : Prop :=
  ∀ (s : State) (a b : BitVec 6) (core : Fin 64) (sk : Fin 16) (task : Nat),
    let x := s.sketch a.toNat
    let y := s.sketch b.toNat
    (SketchReady s a.toNat task → ∃ t, exec (.skshr a) s = .next t ∧ SketchIs s t a.toNat { x with
      cols := if x.pois then x.cols else min x.rank (min x.n x.cols)
      busy := some ⟨s.cur.ctx, buckCycles x.m x.n x.cols, x.cols, none, .buck, none⟩ }) ∧
    (SketchReady s a.toNat task → SketchReady s b.toNat task → a ≠ b → x.m = y.m → x.n = y.n →
      y.cols ≤ x.cap - x.rank →
      let first := x.cap < x.cols + y.cols
      let p := if first then buckCycles x.m x.n x.cols else 0
      let mid := (if first then min x.rank (min x.n x.cols) else x.cols) + y.cols
      let q := if x.rank < mid then buckCycles x.m x.n mid else 0
      ∃ t u v, exec (.skacc a b) s = .next t ∧ (t.sketch a.toNat).busy = some u ∧ (t.sketch b.toNat).busy = some v ∧
        t.sketch a.toNat = { x with cols := if x.rank < mid then min x.rank (min x.n mid) else mid, busy := some u } ∧
        t.sketch b.toNat = { y with busy := some v } ∧ v.op = .source ∧ v.left = u.left ∧ u.cols = x.cols ∧
        u.left = p + 8 + y.cols * ((x.m + 63) / 64 + (x.n + 63) / 64) + q ∧
        (∃ l r, u.op = .accord y.bf16 y.pois l r y.silE y.silN y.silK b.toNat ∧
          (∀ i j, i < y.m → j < y.cols → elemAt l i j = elemAt y.left i j) ∧
          (∀ i j, i < y.n → j < y.cols → elemAt r i j = elemAt y.right i j)) ∧ t.mem = s.mem ∧ OthersUnmoved s t) ∧
    (a = b → exec (.skacc a b) s = traps s .illegal none) ∧
    (let d := (s.core core).sketches.get sk
      let set (e : Sketch) : State := s.modCore core fun co => { co with sketches := co.sketches.set sk e }
      (d.busy = none → exec (.sketchBusyEnd core sk) s = .next s) ∧
      (∀ w, d.busy = some w → 1 < w.left → exec (.sketchBusyEnd core sk) s = .next s) ∧
      (∀ w, d.busy = some w → w.left ≤ 1 → w.early = none → s.poison = [] → d.pois = false →
        (w.op = .source → exec (.sketchBusyEnd core sk) s = .next (set { d with busy := none })) ∧
        (w.op = .buck → d.left.length = w.cols → d.right.length = w.cols →
          (buck d.bf16 d.m d.n d.rank d.left d.right = none →
            ∃ l r, exec (.sketchBusyEnd core sk) s =
              .next (set { d with left := l, right := r, pois := true, busy := none })) ∧
          (∀ o, buck d.bf16 d.m d.n d.rank d.left d.right = some o → exec (.sketchBusyEnd core sk) s =
            .next (set { d with
              left := o.left, right := o.right, busy := none, silE := add64 d.silE o.energy
              silN := add64 d.silN (toF64 (f64 o.energy).sqrt)
              silK := if d.silK = 0xFFFFFFFF then d.silK else d.silK + 1 }))) ∧
        (∀ bf l r e n k src al ar, w.op = .accord bf false l r e n k src → w.cols + l.length ≤ d.cap →
          w.cols + l.length ≤ d.rank → accordColumns bf d.bf16 l = some al → accordColumns bf d.bf16 r = some ar →
          exec (.sketchBusyEnd core sk) s = .next (set { d with
            left := putColumns d.left d.m w.cols al, right := putColumns d.right d.n w.cols ar, busy := none
            silE := add64 d.silE e, silN := add64 d.silN n
            silK := BitVec.ofNat 32 (min (d.silK.toNat + k.toNat) 0xFFFFFFFF) }))))

/-- R205, R215: SKRDL and SKRDR read a block of 64 rows of a factor's column under the storage tag, zeros below its last
row and NaNs of a poisoned descriptor; SKWRL and SKWRR send a block to it, and an element that is not finite poisons. -/
def Obligations.SketchFactorMoves : Prop :=
  ∀ (s : State) (a b c : BitVec 6) (task j blk : Nat),
    let x := (s.readS 2 c).1
    let t := (s.readS 2 c).2
    let d := s.sketch b.toNat
    let e := s.sketch a.toNat
    let v := s.vreg 1 b.toNat
    x &&& ~~~(0xF7F#64) = 0 → j = x.toNat % 128 → blk = x.toNat / 256 % 16 →
    (SketchReady s b.toNat task → j < d.cols →
      let lanes (h : Nat) (f : List (List Word)) (i : Fin 64) : Word :=
        if h ≤ 64 * blk + i then 0 else if d.pois then (if d.bf16 then 0x7FC0 else 0x7FC00000)
        else elemAt f (64 * blk + i) j
      (64 * blk < d.m → exec (.skrdl a b c) s = .next (landV t a (storageTag d.bf16) (lanes d.m d.left) 5)) ∧
      (64 * blk < d.n → exec (.skrdr a b c) s = .next (landV t a (storageTag d.bf16) (lanes d.n d.right) 5)) ∧
      (d.m ≤ 64 * blk → exec (.skrdl a b c) s = traps s .illegal none) ∧
      (d.n ≤ 64 * blk → exec (.skrdr a b c) s = traps s .illegal none)) ∧
    (SketchReady s a.toNat task → j < e.cols → tagValid v.tag = true → v.tag = storageTag e.bf16 →
      let finite (h : Nat) : Prop := ∀ i : Fin 64, 64 * blk + i.val < h → isNonFinite v.tag (v.lanes.get i).toNat = false
      let write (right : Bool) : State := landAt t e.gen (.skWrite a.toNat right j blk
        (Vector.ofFn fun i => laneOf (widthOfReg v) (v.bits i))) 2
      (64 * blk < e.m → finite e.m → exec (.skwrl a b c) s = .next (write false)) ∧
      (64 * blk < e.m → ¬ finite e.m →
        exec (.skwrl a b c) s = .next (landAt (write false) e.gen (.skPoison a.toNat false) 2)) ∧
      (64 * blk < e.n → finite e.n → exec (.skwrr a b c) s = .next (write true)) ∧
      (64 * blk < e.n → ¬ finite e.n →
        exec (.skwrr a b c) s = .next (landAt (write true) e.gen (.skPoison a.toNat false) 2))) ∧
    (SketchReady s a.toNat task → tagValid v.tag = true → v.tag ≠ storageTag e.bf16 →
      exec (.skwrl a b c) s = traps s .format none ∧ exec (.skwrr a b c) s = traps s .format none)

/-! ### Frames, traps and images -/

namespace Sys2Proof.Spec

open Sys2Proof Sys2Proof.Machine

/-- Forms whose whole effect is a result on its way to a scalar, predicate or vector register. -/
def RegisterForm : Instr → Prop
  | .add .. | .sub .. | .mul .. | .mulh .. | .mulhu .. | .div .. | .divu .. | .rem .. | .remu .. | .and .. | .or ..
  | .xor .. | .shl .. | .shr .. | .sar .. | .shli .. | .shri .. | .sari .. | .addi .. | .andi .. | .ori .. | .xori ..
  | .li .. | .lih .. | .mov .. | .sel .. | .cmp .. | .cmpi .. | .min .. | .max .. | .minu .. | .maxu .. | .popc ..
  | .clz .. | .ctz .. | .fshl .. | .fshr .. | .qand .. | .qor .. | .qxor .. | .qnot .. | .qfroms .. | .qtos ..
  | .qpopc .. | .sysrd .. | .vadd .. | .vsub .. | .vmul .. | .vfma .. | .vfms .. | .vmin .. | .vmax .. | .vabs ..
  | .vneg .. | .vand .. | .vor .. | .vxor .. | .vnot .. | .vshl .. | .vshr .. | .vsar .. | .vfshl .. | .vfshr ..
  | .vclz .. | .vpopc .. | .vcmp .. | .vsel .. | .vcvt .. | .vretag .. | .vexp2 .. | .vlog2 .. | .vrcp .. | .vrsq ..
  | .vredsum .. | .vredmax .. | .vredmin .. | .vscan .. | .vbcst .. | .vperm .. | .vslide .. | .vexts .. | .vinss ..
  | .vli .. | .vnfc .. | .tintlv .. | .skstat .. | .skrdl .. | .skrdr .. | .blzrd .. => True
  | _ => False

/-- The scalar source fields of a register form, each of which pops its fi register where it names one (R54). -/
def scalarSources : Instr → List (BitVec 6)
  | .add _ _ b c | .sub _ _ b c | .mul _ _ b c | .mulh _ _ b c | .mulhu _ _ b c | .div _ _ b c | .divu _ _ b c
  | .rem _ _ b c | .remu _ _ b c | .and _ _ b c | .or _ _ b c | .xor _ _ b c | .shl _ _ b c | .shr _ _ b c
  | .sar _ _ b c | .min _ _ b c | .max _ _ b c | .minu _ _ b c | .maxu _ _ b c | .sel _ _ b c | .fshl _ _ b c
  | .fshr _ _ b c | .cmp _ _ b c _ | .vinss _ _ b c => [b, c]
  | .shli _ _ b _ | .shri _ _ b _ | .sari _ _ b _ | .mov _ _ b | .popc _ _ b | .clz _ _ b | .ctz _ _ b
  | .cmpi _ _ b _ _ | .qfroms _ _ b _ => [b]
  | .vslide _ _ _ c _ | .vexts _ _ _ c _ | .skrdl _ _ c | .skrdr _ _ c => [c]
  | _ => []

/-- Results or accesses on their way, of which some may have been passed by a later one to their register (R59). -/
def PassedAtMost {α : Type} (pass : α → α) (old new : List α) : Prop :=
  new.length = old.length ∧ ∀ p ∈ old.zip new, p.2 = p.1 ∨ p.2 = pass p.1

/-- One result more of a context is on its way; what was on its way still is; and the sources have popped their fi
registers. Nothing else of the context has changed, but for two notes of the model's own: that a wait has been passed by a
later result, and that an outcome of a claim has been read (log entries 8 and 63). -/
def OneResultOnItsWay (s : State) (i : Instr) (a b : Context) : Prop :=
  { b with flight := a.flight, async := a.async, fi := a.fi, waitPassed := a.waitPassed, claimed := a.claimed } = a ∧
    (∃ old f, b.flight = old ++ [f] ∧ PassedAtMost (fun g => { g with overtaken := true }) a.flight old ∧
      f.id = s.nextId ∧ f.unit = s.cur.unit ∧ f.fresh = true ∧ f.overtaken = false ∧ f.what.ofContext = true) ∧
    PassedAtMost (fun g => { g with overtaken := true }) a.async b.async ∧
    ∀ n : Fin 4, b.fi.get n = (a.fi.get n).drop ((scalarSources i).filter fun x => x.toNat == 32 + n.val).length

/-- The host's function is served: a host link is up, or the device is in stage 0 (R321, R324). -/
def HostServed (s : State) : Prop := s.stage = 0 ∨ (s.links.get 0).up = true ∨ (s.links.get 1).up = true

/-- What the host sends through its function (R318, R319). -/
def FromHost : Instr → Prop
  | .hostBar2Read .. | .hostBar2Write .. | .unsupportedRequest .. | .registerWrite .. | .doorbell .. | .queueConfigWrite ..
  | .dstopGo .. | .dstopCancel | .dstopSave | .dtargetWrite .. | .mnqhWrite .. | .fnfail .. | .cmpctlEnable .. | .cdisc ..
  | .hostClaim .. | .hostObjection .. | .fbindWrite .. | .mckill .. | .svcFirmwareReload .. | .svcHbmRecalibration ..
  | .svcLinkRetrain .. | .pcfgWrite .. | .attestationStart => True
  | _ => False

/-- Everything of a state but the contexts and the resources of the cores, and the next name. -/
def SameDevice (s t : State) : Prop := { t with cores := s.cores, nextId := s.nextId } = s

/-- Everything of a core but its contexts. -/
def SameCore (a b : Core) : Prop := { a with ctxs := b.ctxs } = b

/-- The context trap registers after an entry for a cause, with the bundle to resume (R254, R257). -/
def Entered (cx t : Context) (w : Cause) (addr tepc : Dword) (resume : BitVec 3) : Prop :=
  t.tm = true ∧ t.tcause = BitVec.ofNat 8 w.num ∧ t.taddr = addr ∧ t.tepc = tepc ∧ t.resume = resume ∧
    t.pc = cx.tvec ∧ t.tsp = cx.tsp - 64 ∧ t.state = .ready ∧ t.loops = [] ∧
    t.shadow = ⟨cx.loops, cx.repbuf, cx.latchA, cx.latchB⟩ ∧ 4 ≤ t.bubble ∧ t.sregs = cx.sregs ∧ t.vregs = cx.vregs ∧
    t.preds = cx.preds ∧ t.nfc = cx.nfc ∧ t.ncause = cx.ncause ∧ t.tvec = cx.tvec ∧ t.qbound = cx.qbound ∧
    t.qcount = cx.qcount ∧ t.qmiss = cx.qmiss

end Sys2Proof.Spec

/-- R109, R156, the frame: a form that only writes registers, when it does not trap, leaves memory, every register of
every kind, every flag, the program counter, the trap registers, the counters, the loop stack and the latches of its
context, every other context, its core and the rest of the device as they are; one result is appended to what is on its
way, of which it may pass some, and the fi registers lose what the sources have popped. -/
def Obligations.RegisterFormsKeepTheFrame : Prop :=
  ∀ (s t : State) (i : Instr), RegisterForm i → exec i s = .next t → t.cur.stopped = false →
    SameDevice s t ∧ OneResultOnItsWay s i s.me t.me ∧ OthersUnmoved s t ∧ (∀ k, SameCore (t.core k) (s.core k)) ∧
      ∀ a, t.mem.read a = s.mem.read a

/-- R254-R262: what the trap of a slot does. In trap mode the context is STOPPED with the cause in NCAUSE; in task mode
WINDOW kills the task, PAGE switches the context out with a notice, and every other cause writes the trap record and
enters the handler, or stops where the record may not be written. -/
def Obligations.TrapEntryByDisposition : Prop :=
  ∀ (s : State) (w : Cause) (a : Option Dword),
    let k := s.cur.core
    let c := s.cur.ctx
    let addr := a.getD (s.cur.word.zeroExtend 64)
    s.me.ending = false →
    (s.me.tm = true → ∃ t, traps s w a = .next t ∧ t.cur.stopped = true ∧
      t.me = { s.me with ncause := BitVec.ofNat 8 w.num, state := .stopped, wait := none } ∧
      t.machineChecks = (s.machineChecks.filter fun m => m.1 != k || m.2.1 != c) ++ [(k, c, s.sclk.toNat)] ∧ t.outputs = s.outputs ++ [.machineCheck] ∧ t.mem = s.mem ∧
      OthersUnmoved s t) ∧
    (s.me.tm = false → w = .window → ∀ n tk, s.me.task = some n → s.task n = some tk → tk.core = k → c ∈ tk.ctxs →
      ∃ t, traps s w a = .next t ∧ t.me.ending = true ∧ t.mem = s.mem ∧
        (t.task n).bind (·.killed) = tk.killed.or (some 3) ∧ ∀ j d, j ≠ k ∨ d ∉ tk.ctxs → t.ctx j d = s.ctx j d) ∧
    (s.me.tm = false → w = .page → ∃ t, traps s w a = .next t ∧ t.me.state = .swapped ∧ t.me.tcause = 4 ∧
      t.me.taddr = addr ∧ t.me.swapAddr = addr ∧ t.me.tepc = s.cur.addr ∧ t.me.resume = BitVec.ofNat 3 s.cur.unit ∧
      t.me.xfer = s.cur.xfer.isSome ∧ t.me.pending = s.cur.xfer ∧ t.me.tm = false ∧ t.me.sregs = s.me.sregs ∧
      t.me.vregs = s.me.vregs ∧ t.me.shadow.loops = s.me.loops ∧ t.mem = s.mem ∧ OthersUnmoved s t ∧
      (∃ n ∈ t.notices, n.2.1 = addr ∧ n.2.2.1 = c ∧ n.2.2.2.1 = k) ∧ (∀ n ∈ s.notices, n ∈ t.notices)) ∧
    (s.me.tm = false → w ≠ .window → w ≠ .page →
      (∀ keys, RecordOpen s k c .write (s.me.tsp - 64) → keys = recordAt s k c (s.me.tsp - 64) → ∃ t, traps s w a = .next t ∧
        Entered s.me t.me w addr s.cur.addr (BitVec.ofNat 3 s.cur.unit) ∧ t.me.xfer = s.cur.xfer.isSome ∧
        t.me.pending = s.cur.xfer ∧
        ((∀ f ∈ s.me.flight, 1 ≤ f.left) → t.me.flight = [] ∧
          t.me.snapshot = s.me.snapshot ++ s.me.flight.filter (·.what.ofContext) ∧
          t.me.held = s.me.held ++ s.me.flight.filter (!·.what.ofContext)) ∧
        (rangeOf k (s.me.tsp - 64).toNat ≠ .main → t.mem = s.mem ∧ ∃ m ∈ t.myCore.memq, m.ctx = c ∧
          m.act = .write (keys.zip ((dwords [s.me.sregs.get 28, s.me.sregs.get 29, s.me.sregs.get 30, s.me.sregs.get 31,
            s.me.preds.get 23]) ++ List.replicate 24 0))) ∧
        (rangeOf k (s.me.tsp - 64).toNat = .main → OnePage s (recordRun (s.me.tsp - 64)) → t.mem = s.mem ∧
          ∃ x ∈ t.me.async, x.id ∈ t.me.blockedOn ∧ x.charge = 0 ∧
          x.act = .write (keys.zip ((dwords [s.me.sregs.get 28, s.me.sregs.get 29, s.me.sregs.get 30, s.me.sregs.get 31,
            s.me.preds.get 23]) ++ List.replicate 24 0))) ∧ OthersUnmoved s t) ∧
      (∀ e, s.recordKeys k c .write (s.me.tsp - 64).toNat = .error (.trap e) → ∃ t, traps s w a = .next t ∧
        t.me.state = .stopped ∧ t.me.tm = true ∧ t.me.tcause = BitVec.ofNat 8 w.num ∧
        t.me.ncause = BitVec.ofNat 8 e.cause.num ∧ t.me.tsp = s.me.tsp ∧ OthersUnmoved s t))

/-- R56, R121, R334: a context whose fetch faults, whose bundle breaks the decode rules, or that has reached its quiet
bound takes that trap before any slot of the bundle, with resume class 0; one that can issue takes none. The first word of
the bundle where nothing is mapped, where fetching is not granted and where the page is not resident, a bundle of one word
that is no instruction, and a bundle of one instruction are said besides on their own. -/
def Obligations.TrapsBeforeABundle : Prop :=
  ∀ (s : State) (k : Fin 64) (c : Fin 4),
    let cx := s.ctx k c
    let first := addrRun cx.pc.toNat 4
    let fetch := exec (.fetchFault k c) s
    let bad := exec (.illegalBundle k c) s
    let full := exec (.qover k c) s
    cx.ending = false → cx.tm = false → cx.reentry = false →
    (RecordOpen s k c .write (cx.tsp - 64) →
      (∀ w a, s.bundleAt k c = .error (.fetch w a) → w ≠ .window → w ≠ .page →
        ∃ t, fetch = .next t ∧ Entered cx (t.ctx k c) w a cx.pc 0) ∧
      (s.bundleAt k c = .error .illegal → ∃ t, bad = .next t ∧ Entered cx (t.ctx k c) .illegal cx.pc cx.pc 0) ∧
      (∀ b, s.bundleAt k c = .ok b → cx.nextLatched = none → cx.qbound ≠ 0 → cx.qbound.toNat ≤ cx.qcount.toNat →
        ∃ t, full = .next t ∧ Entered cx (t.ctx k c) .qover (cx.qcount.zeroExtend 64) cx.pc 0) ∧
      (cx.pc.toNat % 4 = 0 → (∀ y ∈ first, rangeOf k y = .main ∧ ∃ e ∈ s.entryOf k c y,
          (e.comp = true → s.regs.cmpEn = true) ∧ e.perm.getLsbD 2 = false) →
        ∃ t, fetch = .next t ∧ Entered cx (t.ctx k c) .perm cx.pc cx.pc 0) ∧
      (∀ w, Fetches s k c cx.pc w → wordStop w = true → isRep w = false → decode w = none →
        ∃ t, bad = .next t ∧ Entered cx (t.ctx k c) .illegal cx.pc cx.pc 0) ∧
      (∀ w, Fetches s k c cx.pc w → wordStop w = true → isRep w = false → (decode w).isSome = true →
        cx.latched = [] → cx.qbound ≠ 0 → cx.qbound.toNat ≤ cx.qcount.toNat →
        ∃ t, full = .next t ∧ Entered cx (t.ctx k c) .qover (cx.qcount.zeroExtend 64) cx.pc 0)) ∧
    (∀ a, s.bundleAt k c = .error (.fetch .page a) → ∃ t, fetch = .next t ∧
      (t.ctx k c).state = .swapped ∧ (t.ctx k c).taddr = a ∧ (t.ctx k c).tepc = cx.pc ∧ t.mem = s.mem) ∧
    (cx.pc.toNat % 4 = 0 → (∀ y ∈ first, rangeOf k y = .main ∧ ∃ e ∈ s.entryOf k c y,
        (e.comp = true → s.regs.cmpEn = true) ∧ e.perm.getLsbD 2 = true ∧ e.res = false) → ∃ t, fetch = .next t ∧
      (t.ctx k c).state = .swapped ∧ (t.ctx k c).taddr = cx.pc ∧ (t.ctx k c).tepc = cx.pc ∧ t.mem = s.mem) ∧
    (∀ n tk, (∀ y ∈ first, rangeOf k y = .main → s.entryOf k c y = none) → cx.task = some n → s.task n = some tk →
      tk.core = k → c ∈ tk.ctxs → ∃ t, fetch = .next t ∧ (t.ctx k c).ending = true ∧
        (t.task n).bind (·.killed) = tk.killed.or (some 3) ∧ t.mem = s.mem) ∧
    (∀ b, s.bundleAt k c = .ok b → fetch = .next s ∧ bad = .next s ∧
      ((cx.qbound = 0 ∨ cx.qcount.toNat < cx.qbound.toNat) → full = .next s))

/-- R31, R33, R265, R266: CTXSV and CTXRS leave the context WAITING in trap mode and trap PERM outside it; a CTXSV of a
context with an invalid tag in a vector register traps FORMAT. Over the time in which it waits CTXSV writes the image of the
trapped task, some units at a time, and CTXRS reads one; with the last the context goes on, and CTXRS has installed the
image, or stopped the context where it is not valid. -/
def Obligations.ContextImagesAreSavedAndLoaded : Prop :=
  ∀ (s : State) (b : BitVec 6) (k : Fin 64) (c : Fin 4),
    let a := s.sreg 0 b.toNat
    let tags := ∀ r : Fin 32, tagValid (s.me.vregs.get r).tag = true
    (s.me.tm = false → exec (.ctxsv b) s = traps s .perm none ∧ exec (.ctxrs b) s = traps s .perm none) ∧
    (s.me.tm = true → ¬ tags → exec (.ctxsv b) s = traps s .format none) ∧
    (s.me.tm = true → a.toNat % 65536 ≠ 0 →
      (tags → exec (.ctxsv b) s = traps s .illegal (some a)) ∧ exec (.ctxrs b) s = traps s .illegal (some a)) ∧
    (s.me.tm = true → a.toNat % 65536 = 0 →
      ((rangeOf s.cur.core a.toNat = .loc ∧ ∀ i < 16,
          s.taskTile s.cur.core s.cur.ctx ((a.toNat - Config.locbase) / 4096 + i) = true ∧
          s.myCore.engineTiles.contains ((a.toNat - Config.locbase) / 4096 + i) = false) ∨
        (rangeOf s.cur.core a.toNat = .main ∧ ∃ e ∈ s.entryOf s.cur.core s.cur.ctx a.toNat,
          e.covers (a.toNat + 65535) = true ∧ (e.comp = true → s.regs.cmpEn = true) ∧ e.pin = true ∧ e.res = true ∧
          e.perm.getLsbD 0 = true ∧ e.perm.getLsbD 1 = true)) →
      let waits (w : Waiting) := s.modMe fun cx => { cx with state := .waiting, wait := some w, imageCells := [] }
      (tags → exec (.ctxsv b) s = .next (waits (.ctxsv a))) ∧ exec (.ctxrs b) s = .next (waits (.ctxrs a))) ∧
    (∀ cx x, cx = s.ctx k c → cx.state = .waiting → cx.async = [] → cx.inherited = [] → cx.edges = [] → s.log = [] →
      s.poison = [] → (∀ m ∈ (s.core k).memq, m.ctx ≠ c) → (∀ m ∈ s.plane, m.origin ≠ some (k, c)) → s.regs.mthr = 0 →
      (∀ y ∈ s.imageKeys k c x, isExposed y = false ∧ y < peerBase) →
      let gone (t : State) := ∀ j d, j ≠ k ∨ d ≠ c → SameButView (t.ctx j d) (s.ctx j d)
      (∀ cells, cx.wait = some (.ctxsv x) → (∀ f ∈ cx.snapshot, ∀ sh r, f.what ≠ .load sh ∧ f.what ≠ .await r) →
        (cx.imageCells = [] ∧ RecordOpen s k c .read cx.tsp ∧ cells = (s.imageKeys k c x).zip (cx.image (s.clean k c) false
            (some ((List.range 5).map fun i => dwordAt ((recordAt s k c cx.tsp).map s.byte) (8 * i)))) ∨
          cx.imageCells ≠ [] ∧ cells = cx.imageCells) →
        (∀ y ∈ cells, isExposed y.1 = false ∧ y.1 < peerBase) →
        ∃ t done, exec (.ctxsvCtxrsCompletion k c) s = .next t ∧ t.mem = s.mem.writeCells done ∧ gone t ∧
          (∀ y ∈ done, y ∈ cells) ∧
          let left := cells.filter fun y => !done.any (·.1 == y.1)
          (cells.length ≤ 8 → left = []) ∧
          SameButView (t.ctx k c) (if left = [] then { cx with state := .ready, wait := none, waitCount := 0, imageCells := [] }
            else { cx with imageCells := left })) ∧
      (cx.wait = some (.ctxrs x) →
        let missing := ((s.imageKeys k c x).zipIdx.filter fun y => (cx.imageCells.lookup y.2).isNone).map fun y =>
          (y.2, s.byte y.1)
        ∃ t new, exec (.ctxsvCtxrsCompletion k c) s = .next t ∧ (∀ y ∈ new, y ∈ missing) ∧
          (missing.length ≤ 8 → new = missing) ∧
          let got := cx.imageCells ++ new
          (got.length < 65536 → t.mem = s.mem ∧ SameButView (t.ctx k c) { cx with imageCells := got } ∧ gone t) ∧
          (∀ img, 65536 ≤ got.length → img = (List.range 65536).map (fun i => (got.lookup i).getD 0) →
            (imageValid img = false → (t.ctx k c).state = .stopped ∧ (t.ctx k c).ncause = 1 ∧ t.mem = s.mem) ∧
            (imageValid img = true → RecordOpen s k c .write (dwordAt img 0x20 &&& 0xFFFFFFFFFFFFFFC0) →
              ∀ keys, keys = recordAt s k c (dwordAt img 0x20 &&& 0xFFFFFFFFFFFFFFC0) →
              (∀ y ∈ keys, isExposed y = false ∧ y < peerBase) →
              t.mem = s.mem.writeCells (keys.zip (imageRecord img)) ∧ gone t ∧
              let u := t.ctx k c
              u.state = .ready ∧ u.wait = none ∧ u.tm = cx.tm ∧ u.pc = cx.pc ∧ u.loops = cx.loops ∧ u.imageCells = [] ∧
              u.tepc = dwordAt img 8 &&& 0xFFFFFFFFFFFFFFFC ∧ u.tsp = dwordAt img 0x20 &&& 0xFFFFFFFFFFFFFFC0 ∧
              u.tvec = dwordAt img 0x18 &&& 0xFFFFFFFFFFFFFFFC ∧ u.resume = (dwordAt img 0x10).extractLsb' 0 3 ∧
              u.blk = (dwordAt img 0x10).extractLsb' 8 2 ∧ u.qbound = (dwordAt img 0x28).extractLsb' 0 32 ∧
              u.qcount = (dwordAt img 0x30).extractLsb' 0 32 ∧ u.qmiss = (dwordAt img 0x30).getLsbD 63 ∧
              (∀ n : Fin 16, u.nfc.get n = (dwordAt img (0x80 + 8 * n)).extractLsb' 0 32) ∧
              (∀ r : Fin 32, 0 < r.val → r.val < 28 → u.sregs.get r = dwordAt img (0x100 + 8 * r)) ∧
              (∀ q : Fin 24, q.val < 23 → u.preds.get q = dwordAt img (0x200 + 8 * q)) ∧
              (cx.tm = true → (∀ r : Fin 32, 28 ≤ r.val → u.sregs.get r = cx.sregs.get r) ∧ u.preds.get 23 = cx.preds.get 23) ∧
              u.tcause = cx.tcause ∧ u.taddr = cx.taddr ∧ u.pbmem = cx.pbmem ∧ u.bkey = cx.bkey ∧ u.wkid = cx.wkid))))

/-- R262, R264, R272, R291, R292: a switched-out context's image goes to its home area, its notice to the queue; the host's
write of an entry and its FNFAIL answer it, into its bundle or its handler. -/
def Obligations.PageFaultsAreServed : Prop :=
  ∀ (s : State) (k : Fin 64) (c : Fin 4) (v : Dword),
    let cx := s.ctx k c
    let home := s.regs.csave.toNat + (4 * k.val + c.val) * 65536
    (cx.state = .swapped → cx.task.isSome = true → cx.swapSaved = false →
      (∀ f ∈ cx.snapshot, ∀ sh r, f.what ≠ .load sh ∧ f.what ≠ .await r) → (∀ a ∈ cx.async, a.act.isLoad = false) →
      cx.swapAnswer = none → home + 65536 ≤ Config.hbmBytes → ∃ t, exec (.switchOutSave k c) s = .next t ∧
        t.mem = s.mem.write home (cx.image (s.clean k c) false none) ∧ t.ctx k c = { cx with swapSaved := true } ∧
        ∀ j d, j ≠ k ∨ d ≠ c → t.ctx j d = s.ctx j d) ∧
    (∀ n addr entry rest, s.notices = (n, addr, c, k, entry) :: rest → n < s.sclk.toNat →
      (cx.state = .swapped → cx.task.isSome = true → cx.swapSaved = true) →
      (s.regs.fnqt + 4096 - s.regs.fnqh) % 4096 ≠ 4095 → s.regs.fnqb.toNat + 16 * s.regs.fnqt + 16 ≤ Config.hbmBytes →
      ∃ t, exec .faultNoticeWrite s = .next t ∧ t.notices = rest ∧ t.regs.fnqt = (s.regs.fnqt + 1) % 4096 ∧
        t.value (s.regs.fnqb.toNat + 16 * s.regs.fnqt) 8 = addr.toNat ∧
        (entry < 512 → t.value (s.regs.fnqb.toNat + 16 * s.regs.fnqt + 8) 8 = c.val * 32768 + k.val * 512 + entry) ∧
        t.outputs = s.outputs ++ [.msix s.regs.cmpVec] ∧ ∀ j d, t.ctx j d = s.ctx j d) ∧
    (HostServed s → s.phase.issuing = true → exec (.wselWrite v) s = .next { s with
      wsels := s.wsels ++ [(v, s.regs.wupd)], late := s.late.filter (!isWsel ·) ++ [.wselWrite v] }) ∧
    (∀ l, HostServed s → s.phase.issuing = false → s.wsels = [] → s.poison = [] → v.toNat / 512 % 64 = k.val → v.toNat / 32768 % 4 = c.val → s.launchOf k c = some l →
      (v.getLsbD 63 = false ∨ ∀ d, (s.ctx k d).swapAnswer = none) →
      ∃ t, exec (.wselWrite v) s = .next t ∧ t.mem = s.mem ∧
        (t.core k).windows.lookup l = ((s.core k).windows.lookup l).map (·.map fun e =>
          if e.index = v.toNat % 512 then { e with pa := s.regs.wupd, res := v.getLsbD 63 } else e) ∧
        (∀ m, m ≠ l → (t.core k).windows.lookup m = (s.core k).windows.lookup m) ∧
        (v.getLsbD 63 = true → cx.state = .swapped → cx.swapEntry = v.toNat % 512 →
          (cx.swapSaved = false → (t.ctx k c).swapAnswer = some true) ∧
          (cx.swapSaved = true → let img := s.bytes home 65536
            (t.ctx k c).reentry = true ∧ (t.ctx k c).tm = false ∧ (t.ctx k c).swapAnswer = none ∧
            (t.ctx k c).pc = dwordAt img 8 &&& 0xFFFFFFFFFFFFFFFC ∧ (t.ctx k c).task = cx.task ∧
            ∀ r : Fin 32, 0 < r.val → (t.ctx k c).sregs.get r = if cx.tm = true ∧ 28 ≤ r.val then cx.sregs.get r
              else dwordAt img (0x100 + 8 * r))) ∧
        (v.getLsbD 63 = false → ∀ j d, t.ctx j d = s.ctx j d)) ∧
    (HostServed s → v.toNat % 256 = 4 * k.val + c.val → cx.state = .swapped → cx.task.isSome = true → cx.swapAnswer = none →
      (cx.swapSaved = false → ∃ t, exec (.fnfail v) s = .next t ∧ t.ctx k c = { cx with swapAnswer := some false }) ∧
      (cx.swapSaved = true → RecordOpen s k c .write (cx.tsp - 64) →
        ∃ t, exec (.fnfail v) s = .next t ∧ (t.ctx k c).tm = true ∧ (t.ctx k c).state = .ready ∧
          (t.ctx k c).pc = cx.tvec ∧ (t.ctx k c).tsp = cx.tsp - 64 ∧ (t.ctx k c).tcause = cx.tcause)) ∧
    (HostServed s → ∃ t, exec (.mnqhWrite v) s = .next t ∧ t.regs.mnqh = v.toNat % 4096 ∧ t.mem = s.mem ∧ ∀ j d, t.ctx j d = s.ctx j d)

/-! ### The distributor, messages, pre-emption and stops -/

namespace Sys2Proof.Spec

open Sys2Proof Sys2Proof.Machine

/-- Every context of the device is as before. -/
def ContextsUnmoved (s t : State) : Prop := ∀ k c, t.ctx k c = s.ctx k c

/-- Every context but one is as before. -/
def OnlyContext (s t : State) (k : Fin 64) (c : Fin 4) : Prop := ∀ j d, j ≠ k ∨ d ≠ c → t.ctx j d = s.ctx j d

/-- A context as a start leaves it: running for the task at this address with these argument registers. -/
def Started (cx : Context) (la : Launch) (task : Nat) (pc : Dword) (args : List Dword) (wkid : Dword) : Prop :=
  cx.state = .ready ∧ cx.pc = pc ∧ cx.task = some task ∧ cx.wkid = wkid ∧ cx.wkfld = la.cut ∧ cx.bkey = la.key ∧
    cx.qbound = la.qb ∧ cx.qcount = 0 ∧ cx.tm = false ∧ cx.tvec = la.trapv &&& 0xFFFFFFFFFFFFFFFC ∧ cx.loops = [] ∧
    cx.preds = Vector.replicate 24 0 ∧ cx.flight = [] ∧ cx.async = [] ∧
    (∀ r : Fin 32, cx.sregs.get r = if r = 0 then 0 else (args[r.val - 1]?).getD 0)

/-- One queue alone has records for the distributor; its head record stands at a, is unchanged since it was published, and
waits for no event. -/
def OnlyQueue (s : State) (q : Fin 64) (a : Nat) : Prop :=
  let r := s.queues.get q
  r.en = true ∧ r.head ≠ r.tail ∧ r.taken = false ∧ r.changed = [] ∧
    a = r.base.toNat + r.head.toNat % 2 ^ r.lsz * 256 ∧ a + 256 ≤ Config.hbmBytes ∧
    s.value (a + 0x60) 8 = 0 ∧ s.value (a + 0x68) 8 = 0 ∧
    (∃ c < 8, ((s.regs.pcfg[r.part]?).getD 0).getLsbD (56 + c) = true) ∧
    ∀ p, p ≠ q → (s.queues.get p).en = false ∨ (s.queues.get p).head = (s.queues.get p).tail

/-- The dwords at a are those of a valid record with SPAN, MSGCTX and NARGS as given, without handlers, pinned ranges and
slot table, whose window table holds no entry (R239, R240, R251). -/
def PlainRecord (s : State) (a span msgctx nargs : Nat) : Prop :=
  let d (i : Nat) : Nat := s.value (a + 8 * i) 8
  msgctx ≤ 3 ∧ 1 ≤ span ∧ span ≤ 4 ∧ nargs ≤ 16 ∧ d 15 = nargs * 256 + msgctx * 16 + span ∧ d 5 % 256 = 0 ∧ d 7 = 0 ∧
    cutOk (BitVec.ofNat 64 (d 0)) ((List.range 6).map fun i => d (1 + i / 2) / 2 ^ (32 * (i % 2)) % 2 ^ 32) span msgctx =
      true ∧
    d 4 % 4 = 0 ∧ d 11 % 4 = 0 ∧ d 6 + 16384 ≤ Config.hbmBytes ∧ ∀ j < 2048, s.value (d 6 + 8 * j) 8 = 0

/-- A group of one task of one context has started on a context. -/
def GroupStarted (s t : State) (l : Nat) (la : Launch) (k : Fin 64) (c : Fin 4) : Prop :=
  (∃ tk, t.tasks = s.tasks ++ [tk] ∧ tk.core = k ∧ tk.ctxs = [c] ∧ tk.launch = l ∧ tk.group = la.nextGroup ∧
    tk.rank = 0 ∧ tk.killed = none ∧ tk.retired = false ∧ tk.handler = false ∧
    tk.wkid = la.wkid (la.nextGroup * la.barSize) ∧
    Started (t.ctx k c) la s.tasks.length la.entry la.args tk.wkid) ∧
  t.mem = s.mem ∧ OnlyContext s t k c ∧ (t.launch l).map (·.nextGroup) = some (la.nextGroup + 1) ∧
  (t.launch l).map (·.started) = some true

/-- Of the awake cores of its cluster the core alone is awake, and of its contexts this is the first that is free. -/
def OnlyRoom (s : State) (k : Fin 64) (c : Fin 4) : Prop :=
  (s.core k).wake = .awake ∧ (∀ j, clusterOf j = clusterOf k → j ≠ k → (s.core j).wake ≠ .awake) ∧
    (s.ctx k c).reservedTask = none ∧ (s.ctx k c).reservedLaunch = none ∧
    ∀ d, d < c → (s.ctx k d).reservedTask ≠ none ∨ (s.ctx k d).reservedLaunch ≠ none

/-- Nothing of the context is left to complete (R23). -/
def Done (s : State) (k : Fin 64) (c : Fin 4) : Prop :=
  let cx := s.ctx k c
  cx.pbsr = 0 ∧ cx.pbsw = 0 ∧ cx.pbmem = 0 ∧ cx.flight = [] ∧ cx.async = [] ∧ (∀ m ∈ (s.core k).memq, m.ctx ≠ c) ∧
    (s.core k).channels.get c = [] ∧ ∀ m ∈ s.barq, m.core ≠ k ∨ m.ctx ≠ c

/-- The context may issue, and has waited as long as the aging bound. -/
def Aged (s : State) (k : Fin 64) (c : Fin 4) : Prop :=
  let cx := s.ctx k c
  cx.state = .ready ∧ cx.bubble = 0 ∧ cx.ending = false ∧ cx.stopped = false ∧ cx.heldCut = none ∧ cx.blockedOn = [] ∧
    Config.agingBound ≤ cx.waitCount

/-- A launch holds message contexts on a core. -/
def HasMail (s : State) (k : Fin 64) (l : Nat) : Prop := ∃ d, (s.ctx k d).reservedLaunch = some l

/-- The inbox of a core takes a message of a launch: it is empty and the launches are few, or by its own count. -/
def HasRoom (s : State) (k : Fin 64) (l : Nat) : Prop :=
  (s.core k).inbox = [] ∧ s.launches.length ≤ 15 ∧ (∀ m ∈ s.messages, m.accepted = false) ∨ s.inboxRoom k l = true

/-- The task alone is in its pre-emption group, and runs. -/
def AloneInGroup (s : State) (n : Nat) (tk : Task) : Prop :=
  tk.retired = false ∧ tk.frame = none ∧ tk.handler = false ∧ ∀ i < s.tasks.length, i ≠ n → ∀ ti ∈ s.task i,
    ti.retired = true ∨ ti.frame ≠ none ∨ ti.handler = true ∨ s.groupOf ti ≠ s.groupOf tk

/-- A context that pre-emption has saved holds its task still (R14). -/
def SavedIn (s : State) (k : Fin 64) (c : Fin 4) : Prop :=
  ∃ p ∈ s.preempts, p.saved = true ∧ ∃ x ∈ p.kept, x.2.1 = c ∧ ∃ tk ∈ s.task x.1, tk.core = k

/-- All that a frame records as held is free on a core (R268). -/
def FreeFor (s : State) (k : Fin 64) (fr : Nat) : Prop :=
  let d (i : Nat) : Nat := s.value (fr + 0x40000 + 8 * i) 8
  (∀ i : Fin 64, (d 0).testBit i = true → (s.core k).tiles.get i = .free) ∧
    (∀ i : Fin 32, (d 1).testBit i = true → ((s.core k).slots.get i).state = .free) ∧
    (∀ i : Fin 16, (d 2).testBit i = true → ((s.core k).sketches.get i).holder = none) ∧
    (∀ i : Fin 16, (d 3).testBit i = true → ((s.core k).rings.get i).holder = none) ∧
    ∀ i : Fin 4, (d 4).testBit i = true → ((s.core k).tables.get i).holder = none

/-- No launch waits for a group to start. -/
def NoneWaits (s : State) : Prop := ∀ la ∈ s.launches, la.completed = true ∨ la.groups ≤ la.nextGroup

/-- The task alone is held by a stop. -/
def OnlyHeld (s : State) (n : Nat) (tk : Task) (c : Fin 4) : Prop :=
  tk.retired = false ∧ tk.frame = none ∧ (s.ctx tk.core c).task = some n ∧ (s.ctx tk.core c).heldCut ≠ none ∧
    ∀ i < s.tasks.length, i ≠ n → ∀ ti ∈ s.task i, ti.retired = true ∨ ti.frame ≠ none ∨
      ∃ d ∈ ti.ctxs, (s.ctx ti.core d).task = some i ∧ (s.ctx ti.core d).heldCut = none

/-- A context that a stop up to this priority concerns: one that stands on its core, or one that pre-emption has saved and
the stop has not (R269). -/
def InStop (s : State) (pmax : Nat) (x : Context) : Prop :=
  (∃ j d q, s.ctx j d = x ∧ s.prioOf j d = some q ∧ q ≤ pmax) ∨
  (∃ p ∈ s.preempts, p.saved = true ∧ p.byStop = false ∧ ∃ m ∈ p.kept, m.2.2 = x ∧ x.task = some m.1 ∧
    ∃ t ∈ s.task m.1, t.retired = false ∧ ((s.launch t.launch).map (·.prio)).getD 0 ≤ pmax)

/-- The one frame that the array of free frames offers next, and where the array holds it. -/
def topFrame (s : State) : Nat := s.value (s.regs.spoolb.toNat + 8 * (s.regs.spooln.toNat - 1)) 8

end Sys2Proof.Spec

/-- R238, R243, R324: a doorbell publishes records or is refused with DERR, and reaches nothing while both host links are
down; a queue's registers change while it is empty; and the distributor takes the head record of a candidate queue of the highest priority, which waits for its first start, or,
where it is invalid, or names no slot table and reaches a remote landing (R93: a free choice, log entry 59), completes with
STATUS 1. -/
def Obligations.QueuesAndLaunchTaking : Prop :=
  ∀ (s : State) (q : Fin 64) (v : Dword),
    let r := s.queues.get q
    let tail : Word := v.truncate 32
    let a := r.base.toNat + r.head.toNat % 2 ^ r.lsz * 256
    let set (f : Queue → Queue) : State := { s with queues := s.queues.set q (f r) }
    let unrouted (la : Launch) : Prop := la.stab = 0 ∧ Config.reachesRemote s.draw = true
    (¬ HostServed s → exec (.doorbell q v) s = .next s) ∧
    (HostServed s → 2 ≤ s.stage → (tail - r.head).toNat ≤ 2 ^ r.lsz → (tail - r.tail).toNat ≤ 2 ^ 31 →
      exec (.doorbell q v) s = .next (set fun r => { r with tail := tail })) ∧
    (HostServed s → (s.stage < 2 ∨ 2 ^ r.lsz < (tail - r.head).toNat ∨ 2 ^ 31 < (tail - r.tail).toNat) →
      exec (.doorbell q v) s = .next (set fun r => { r with derr := true })) ∧
    (HostServed s → (r.en = false ∨ r.head = r.tail) →
      exec (.queueConfigWrite q false v) s = .next (set fun r => { r with base := v &&& 0xFFFFFFFFFFFFF000 }) ∧
      (4 ≤ v.toNat / 256 % 32 → v.toNat / 256 % 32 ≤ 16 →
        exec (.queueConfigWrite q true v) s = .next (set fun r =>
          { r with
            en := v.getLsbD 63, irq := v.getLsbD 31, vec := v.toNat / 65536 % 2048, lsz := v.toNat / 256 % 32
            part := v.toNat / 16 % 8, prio := v.toNat % 8 }))) ∧
    (HostServed s → r.en = true → r.head ≠ r.tail → ∀ b,
      exec (.queueConfigWrite q b v) s = .next (set fun r => { r with derr := true })) ∧
    (∀ l, s.candidates = .ok l → s.bestQueue = .ok (some q) →
      q ∈ l ∧ ∀ p ∈ l, (s.queues.get p).prio ≤ r.prio) ∧
    (s.bestQueue = .ok none → exec .launchTake s = .next s) ∧
    (∀ la, s.bestQueue = .ok (some q) →
      (s.headLaunch q = .ok (la, true) → (unrouted la → la.crec.toNat + 32 ≤ Config.hbmBytes ∧ la.signal = 0) →
        ∃ t, exec .launchTake s = .next t ∧ ContextsUnmoved s t ∧ (∀ p : Fin 8, r.prio = p.val → t.lastTaken.get p = q) ∧
          (¬ unrouted la → t.launches = s.launches ++ [la] ∧ t.mem = s.mem ∧
            t.queues.get q = { r with taken := true, changed := r.changed.filter (· != r.place) }) ∧
          (unrouted la → t.launches = s.launches ++ [{ la with completed := true }] ∧
            t.value la.crec.toNat 8 = 2 ^ 63 + 1 ∧ t.queues.get q = r.pass)) ∧
      (s.headLaunch q = .ok (la, false) → la.crec.toNat + 32 ≤ Config.hbmBytes → la.signal = 0 →
        ∃ t, exec .launchTake s = .next t ∧ t.queues.get q = r.pass ∧
          t.value la.crec.toNat 8 = 2 ^ 63 + 1 ∧ t.launches = s.launches ++ [{ la with completed := true }] ∧
          ContextsUnmoved s t)) ∧
    (OnlyQueue s q a → let d (i : Nat) : Dword := BitVec.ofNat 64 (s.value (a + 8 * i) 8)
      (∀ span msgctx nargs, PlainRecord s a span msgctx nargs →
        (Config.reachesRemote s.draw = true → (d 10).toNat + 32 ≤ Config.hbmBytes ∧ d 14 = 0) →
        ∃ t la, exec .launchTake s = .next t ∧ ContextsUnmoved s t ∧
        (Config.reachesRemote s.draw = true → t.launches = s.launches ++ [{ la with completed := true }] ∧
          t.queues.get q = { r with head := r.head + 1 } ∧ t.value (d 10).toNat 8 = 2 ^ 63 + 1) ∧
        (Config.reachesRemote s.draw = false → t.launches = s.launches ++ [la] ∧
          t.queues.get q = { r with taken := true } ∧ t.mem = s.mem) ∧ la.queue = q.val ∧ la.prio = r.prio ∧ la.part = r.part ∧ la.cut = d 0 ∧ la.entry = d 4 ∧
        la.qb = (d 5).extractLsb' 32 32 ∧ la.key = (d 5).extractLsb' 16 16 ∧ la.tbset = (d 5).extractLsb' 8 8 ∧
        la.crec = d 10 ∧ la.trapv = d 11 ∧ la.signal = d 14 ∧ la.span = span ∧ la.msgctx = msgctx ∧
        la.args = (List.range nargs).map (fun i => d (16 + i)) ∧ la.handlers = [] ∧ la.ranges = [] ∧ la.table = [] ∧
        la.started = false ∧ la.completed = false ∧ la.nextGroup = 0) ∧
      ((d 5).toNat % 256 ≠ 0 → (d 10).toNat + 32 ≤ Config.hbmBytes → d 14 = 0 → ∃ t, exec .launchTake s = .next t ∧
        t.queues.get q = { r with head := r.head + 1 } ∧ t.value (d 10).toNat 8 = 2 ^ 63 + 1 ∧ ContextsUnmoved s t))

/-- R15-R17, R23, R244, R246, R249: the distributor starts a group where it can be placed; contexts end, a task retires with
its last one; cores wake and are gated; and a context at the aging bound is promoted. -/
def Obligations.GroupsStartEndAndCores : Prop :=
  ∀ (s : State) (k : Fin 64) (c : Fin 4),
    ((∀ q, (s.queues.get q).changed = []) →
      (∀ l la cl p, s.waitingLaunches = [l] → s.launch l = some la → s.tableBusy l la = false →
        s.groupSaved l la = false → s.chooseCluster l la s.awakeCores = some cl → s.recordsFree la cl = true →
        s.plan l la [] (s.awakeCores cl) = some [p] → p.ctxs = [c] → p.core = k → p.msg = [] →
        ∃ t, exec .barrierGroupStart s = .next t ∧ GroupStarted s t l la k c) ∧
      (∀ la, s.launches = [la] → la.completed = false → la.unrouted = false → la.prio < 8 → la.nextGroup < la.groups → la.barSize = 1 →
        la.span = 1 → la.msgctx = 0 → la.stab = 0 → la.clusters.lookup la.affinity = some (clusterOf k) →
        ((s.regs.pcfg[la.part]?).getD 0).getLsbD (56 + clusterOf k) = true → s.clearing = [] → s.service = none → s.preempts = [] → OnlyRoom s k c →
        (s.barrierList (clusterOf k)).length + la.names.length ≤ 64 →
        ∃ t, exec .barrierGroupStart s = .next t ∧ GroupStarted s t 0 la k c)) ∧
    (∀ n, (∀ t ∈ s.tasks, t.killed = none ∨ t.frame = none) → (s.ctx k c).ending = true → Done s k c →
      (s.ctx k c).task = some n →
      ((∃ d, d ≠ c ∧ (s.ctx k d).task = some n) → ∃ t, exec (.contextEnd k c) s = .next t ∧
        (t.ctx k c).state = .free ∧ (t.ctx k c).task = none ∧ (t.ctx k c).reservedTask = (s.ctx k c).reservedTask ∧
        t.mem = s.mem ∧ t.tasks = s.tasks ∧ OnlyContext s t k c) ∧
      (∀ tk la, (∀ d, d ≠ c → (s.ctx k d).task ≠ some n) → s.task n = some tk → tk.core = k → tk.ctxs = [c] →
        tk.frame = none → s.launch tk.launch = some la → la.completed = false → la.unrouted = false → la.nextGroup ≠ la.groups →
        (s.ctx k c).reservedLaunch = none → ∃ t, exec (.contextEnd k c) s = .next t ∧
          (t.task n).map (·.retired) = some true ∧ (t.ctx k c).state = .free ∧ (t.ctx k c).reservedTask = none ∧
          (∀ i : Fin 64, (s.core k).tiles.get i = .held n → (t.core k).tiles.get i = .free) ∧
          (tk.handler = true → t.barriers = s.barriers))) ∧
    ((s.ctx k c).ending = false → (∀ t ∈ s.tasks, t.killed = none ∨ t.frame = none) →
      exec (.contextEnd k c) s = .next s) ∧
    (∀ n, (s.core k).wake = .waking n → n ≤ s.sclk.toNat → ∃ t, exec (.coreWakeComplete k) s = .next t ∧
      t.core k = { s.core k with wake := .awake, idleSince := s.sclk.toNat } ∧ t.mem = s.mem) ∧
    ((s.core k).wake = .awake → (∀ d, (s.ctx k d).reservedTask = none ∧ (s.ctx k d).reservedLaunch = none) →
      Config.gateCycles ≤ s.sclk.toNat - (s.core k).idleSince → s.preempts = [] → ∃ t, exec (.coreGate k) s = .next t ∧
        (t.core k).wake = .gated ∧ (∀ i : Fin 64, (t.core k).tiles.get i = .free) ∧
        (∀ i : Fin 32, ((t.core k).slots.get i).state = .free) ∧ ContextsUnmoved s t) ∧
    (((s.core k).wake ≠ .awake ∨ (∃ d, (s.ctx k d).reservedTask ≠ none ∨ (s.ctx k d).reservedLaunch ≠ none) ∨
      s.sclk.toNat - (s.core k).idleSince < Config.gateCycles) → exec (.coreGate k) s = .next s) ∧
    (s.phase = .pick k → (s.aged k ≠ [] ∨ ∃ d, Aged s k d) → ∃ t d, exec (.agingPromotion k) s = .next t ∧ d ∈ s.aged k ∧
      (∀ e ∈ s.aged k, (s.ctx k e).waitCount ≤ (s.ctx k d).waitCount) ∧ ContextsUnmoved s t ∧ t.mem = s.mem ∧
      ((t.core k).held = false → ∃ second, t.phase = .issue k d second) ∧
      ((t.core k).held = true → (t.core k).holdcy = (s.core k).holdcy + 1))

/-- R20, R21, R90, R107, R296, R300-R302: a message is accepted at the turn of its core, delivered to its landing and placed
in the inbox; its handler starts with its arguments on a DORMANT context; one for another device is charged until that
device's inbox accepts it; one from another device is delivered, circulates once more where it starts no handler, and at
the second refusal is bounced; FIFO entries arrive in order, and one for which there is no room waits (log entry 95); and a
binding is written while no task holds the context, one that is saved among them. -/
def Obligations.MessagesHandlersAndFifos : Prop :=
  ∀ (s : State) (k : Fin 64) (c : Fin 4) (m : Message),
    (s.messages = [m] → s.portCore ≠ some m.core → (∀ x ∈ m.circuit, x.2.1 ≤ s.sclk.toNat → s.circuitCore ≠ some x.2.2.2) →
      exec (.inboxAccept m.id) s = .next { s with late := s.late ++ [.inboxAccept m.id] }) ∧
    (s.messages = [m] → m.chip = [] → s.log = [] → m.far = none → (s.core m.core).channels.get m.ctx = [] →
      HasMail s m.target m.launch → s.poison = [] → m.order = [] →
      (s.portCore = some m.core → m.circuit = [] → m.accepted = false → m.ready = true → m.remote = false → m.stale = [] →
        HasRoom s m.target m.launch →
        ∃ t, exec (.inboxAccept m.id) s = .next t ∧ t.messages = [{ m with
          accepted := true, data := m.src.map s.byte, due := s.sclk.toNat + 16 + 4 * ((m.src.length + 255) / 256)
          charge := 0 }] ∧ t.mem = s.mem ∧ (t.ctx m.core m.ctx).pbmem = (s.ctx m.core m.ctx).pbmem - m.charge ∧
        OnlyContext s t m.core m.ctx) ∧
      (m.accepted = true → m.data ≠ [] → (∀ x ∈ m.keys, isExposed x = false ∧ x < peerBase) →
        let mail : Mail := ⟨m.launch, m.handler, m.dst, m.data.length, m.sender, s.rank, m.wkid, m.before, m.edges, m.view⟩
        let delivered (t : State) : Prop := t.messages = [] ∧
          (t.core m.target).inbox = (s.core m.target).inbox ++ [mail] ∧ ContextsUnmoved s t
        (m.remote = false → s.portCore = some m.core → m.circuit = [] → m.ahead = [] → m.due ≤ s.sclk.toNat →
          ∃ t, exec (.inboxAccept m.id) s = .next t ∧ delivered t ∧ t.mem = s.mem.writeCells (m.keys.zip m.data)) ∧
        (∀ ready arr j b, m.circuit = [(ready, arr, j, b)] → arr ≤ s.sclk.toNat → s.circuitCore = some b →
          ∀ first n, m.pieces[j]? = some (first, n) → first + n ≤ m.data.length →
          (∀ i ∈ m.ahead, i < first ∨ first + n ≤ i) → m.ahead.length + n = m.data.length →
          ∃ t, exec (.inboxAccept m.id) s = .next t ∧ delivered t ∧
            t.mem = s.mem.writeCells (((m.keys.zip m.data).drop first).take n)))) ∧
    (∀ rank, s.messages = [m] → m.far = some rank → s.portCore = some m.core → m.circuit = [] → m.sent ≠ 0 → ∃ t, exec (.inboxAccept m.id) s = .next t ∧
        t.messages = [] ∧ (t.ctx m.core m.ctx).pbmem = (s.ctx m.core m.ctx).pbmem - m.charge ∧ t.mem = s.mem ∧
        OnlyContext s t m.core m.ctx) ∧
    (∀ l la mail, (s.core k).inbox = [mail] → mail.launch = l → s.launch l = some la →
      (s.ctx k c).state = .dormant → (s.ctx k c).reservedLaunch = some l →
      (∀ d, d < c → (s.ctx k d).state ≠ .dormant ∨ (s.ctx k d).reservedLaunch ≠ some l) →
      ∃ t, exec (.handlerStart k) s = .next t ∧ (t.core k).inbox = [] ∧ t.mem = s.mem ∧
        Started (t.ctx k c) la s.tasks.length mail.handler
          [mail.addr, BitVec.ofNat 64 mail.length, mail.sender.zeroExtend 64, mail.rank.zeroExtend 64] mail.wkid ∧
        (t.ctx k c).inherited = mail.before ∧ (t.ctx k c).view = mail.view ∧ (∀ e ∈ mail.edges, e ∈ (t.ctx k c).edges) ∧
        (∃ tk, t.tasks = s.tasks ++ [tk] ∧ tk.handler = true ∧ tk.core = k ∧ tk.ctxs = [c] ∧ tk.launch = l ∧
          tk.wkid = mail.wkid) ∧
        OnlyContext s t k c) ∧
    ((s.core k).inbox = [] → exec (.handlerStart k) s = .next s) ∧
    (∀ (key : BitVec 16) (hnd : BitVec 4) (sender : BitVec 8) (rank : BitVec 7) (wkid addr : Dword) (data : List Byte),
      let i := Instr.remoteMessageDelivery k key hnd sender rank wkid addr data
      let nowhere := ∀ l < s.launches.length, ∀ la ∈ s.launch l, la.key = key → ¬ HasMail s k l
      (s.circling = [] → nowhere → ∃ t n, exec i s = .next t ∧ t.circling = [(n, true, i)] ∧ s.sclk.toNat < n ∧
        t.outputs = s.outputs ∧ t.mem = s.mem ∧ ContextsUnmoved s t) ∧
      (∀ n, s.circling = [(n, true, i)] → s.replies = [] → 0 < s.credit (s.linkTo rank) 0 → nowhere →
        (s.sclk.toNat < n → s.mailDue = s) ∧
        (n ≤ s.sclk.toNat → s.mailDue.circling = [] ∧ s.mailDue.outputs = s.outputs ++ [.messageBounced rank] ∧
          s.mailDue.mem = s.mem ∧ ContextsUnmoved s s.mailDue)) ∧
      (∀ l la h, s.circling = [] → s.launch l = some la → la.key = key → HasMail s k l →
        (∀ o < l, ∀ oa ∈ s.launch o, oa.key = key → ¬ HasMail s k o) → la.handlers[hnd.toNat]? = some h →
        HasRoom s k l → ∃ t, exec i s = .next t ∧ t.circling = [] ∧
          (t.core k).inbox = (s.core k).inbox ++ [⟨l, h, addr, data.length, sender, rank, wkid, [], [], s.draw⟩] ∧
          ContextsUnmoved s t ∧ t.mem = s.mem.writeCells (((List.range data.length).map fun i =>
            landingKey ((addr.toNat - Config.lbase + i) % Config.landingRange) key).zip data))) ∧
    (∀ (f : Fin 4) (v : Dword),
      let push (v : Dword) : Context := { s.ctx k c with fi := (s.ctx k c).fi.set f ((s.ctx k c).fi.get f ++ [v]) }
      let here (e : Fin 64 × Fin 4 × Fin 4 × Dword × Nat) : Prop := e.1 = k ∧ e.2.1 = c ∧ e.2.2.1 = f
      (s.fifoUse k c f < 16 → ∃ t, exec (.fifoEntryArrive k c f (some v)) s = .next t ∧ t.ctx k c = push v ∧
        OnlyContext s t k c) ∧
      ((∃ e ∈ s.fifoq, here e) → ∃ t e pre post, exec (.fifoEntryArrive k c f none) s = .next t ∧ here e ∧
        s.fifoq = pre ++ e :: post ∧ (∀ x ∈ pre, here x → x.2.2.2.2 ≠ e.2.2.2.2) ∧ t.fifoq = pre ++ post ∧
        t.ctx k c = push e.2.2.2.1 ∧ OnlyContext s t k c) ∧
      (16 ≤ s.fifoUse k c f → exec (.fifoEntryArrive k c f (some v)) s =
        .next { s with late := s.late ++ [.fifoEntryArrive k c f (some v)] }) ∧
      (HostServed s → (s.ctx k c).task = none → ¬ SavedIn s k c → (v.extractLsb' 16 7 ≠ s.rank ∨ (v.extractLsb' 8 6).toNat ≠ k.val) →
        ∃ t, exec (.fbindWrite k c f v) s = .next t ∧ ((t.fbind.get k).get c).get f = v &&& 0x8000000F007F3F0F ∧
          ContextsUnmoved s t ∧ t.mem = s.mem) ∧
      ((s.ctx k c).task ≠ none ∨ SavedIn s k c → exec (.fbindWrite k c f v) s = .next s))

/-- R248, R264, R267-R269, R323: a stopped group is saved into a frame and resumed from it; a device-wide stop sets the
target to the highest number that a context in scope can still reach, saved ones among them, a write raises it, a cancel lets go, and held tasks are saved; and the
host kills a STOPPED task. -/
def Obligations.PreemptionAndStops : Prop :=
  ∀ (s : State) (g n : Nat) (p : Preempt) (tk : Task) (c : Fin 4),
    let k := tk.core
    let cx := s.ctx k c
    let f := topFrame s
    let spool := s.regs.spoolb.toNat + 8 * s.regs.spooln.toNat
    s.task n = some tk → tk.ctxs = [c] →
    (s.preempts[g]? = some p → p.tasks = [n] → p.saved = false → AloneInGroup s n tk → cx.task = some n →
      cx.tm = false → cx.ending = false → cx.state = .ready → cx.stopped = true → s.sketchBusy k (some n) = false → 1 ≤ s.regs.spooln.toNat →
      spool ≤ Config.hbmBytes → f + 2 ^ 23 ≤ Config.hbmBytes → ∃ t, exec (.preemptSave g) s = .next t ∧
        (t.task n).map (·.frame) = some (some f) ∧ t.regs.spooln.toNat = s.regs.spooln.toNat - 1 ∧
        t.preempts = s.preempts.set g ⟨[n], true, [BitVec.ofNat 64 f], false, [(n, c, cx)], p.waiter⟩ ∧
        (t.ctx k c).state = .swapped ∧ (t.ctx k c).task = none ∧ (t.ctx k c).reservedTask = none ∧ OnlyContext s t k c) ∧
    (∀ fr, s.preempts[g]? = some p → p.tasks = [n] → p.saved = true → p.byStop = false → tk.frame = some fr →
      cx.reservedTask = none → cx.reservedLaunch = none → (s.core k).wake = .awake → FreeFor s k fr → NoneWaits s →
      s.clearing = [] → s.service = none → s.poison = [] → spool + 8 ≤ Config.hbmBytes → s.regs.spooln.toNat < 65535 →
      ∀ old, p.kept = [(n, c, old)] → old.state = .ready → old.wait = none → fr < 2 ^ 64 →
      ∃ t, exec (.preemptResume g) s = .next t ∧ t.preempts = s.preempts.eraseIdx g ∧
        (t.task n).map (·.frame) = some none ∧ t.regs.spooln.toNat = s.regs.spooln.toNat + 1 ∧ t.value spool 8 = fr ∧
        (t.ctx k c).task = old.task ∧ (t.ctx k c).state = .ready ∧ (t.ctx k c).tm = false ∧
        (t.ctx k c).reentry = true ∧ (t.ctx k c).bkey = old.bkey ∧ (t.ctx k c).wkid = old.wkid ∧ OnlyContext s t k c) ∧
    (∀ pmax : BitVec 3, HostServed s → ∃ t, exec (.dstopGo pmax) s = .next t ∧ t.regs.dstopGo = true ∧ t.regs.dstopPmax = pmax ∧
      t.mem = s.mem ∧ (∀ x, InStop s pmax.toNat x → x.reachable ≤ t.regs.dtarget.toNat) ∧
      (t.regs.dtarget = 0 ∨ ∃ x, InStop s pmax.toNat x ∧ x.reachable = t.regs.dtarget.toNat) ∧
      (∀ j d, (t.ctx j d).heldCut = (s.ctx j d).heldCut.filter fun m => decide (t.regs.dtarget.toNat ≤ m))) ∧
    (HostServed s → ∃ t, exec .dstopCancel s = .next t ∧ t.regs.dstopGo = false ∧ t.mem = s.mem ∧
      ∀ j d, t.ctx j d = { s.ctx j d with heldCut := none }) ∧
    (∀ v : Dword,
      (v.toNat < s.regs.dtarget.toNat → exec (.dtargetWrite v) s = .next s) ∧
      (HostServed s → s.regs.dtarget.toNat ≤ v.toNat → ∃ t, exec (.dtargetWrite v) s = .next t ∧ t.regs.dtarget = v ∧ t.mem = s.mem ∧
        ∀ j d, t.ctx j d = { s.ctx j d with heldCut := (s.ctx j d).heldCut.filter fun m => decide (v.toNat ≤ m) })) ∧
    (OnlyHeld s n tk c → HostServed s → 1 ≤ s.regs.spooln.toNat →
      spool ≤ Config.hbmBytes → f + 2 ^ 23 ≤ Config.hbmBytes → ∃ t, exec .dstopSave s = .next t ∧
        (t.task n).map (·.frame) = some (some f) ∧ t.regs.spooln.toNat = s.regs.spooln.toNat - 1 ∧
        t.preempts = s.preempts ++ [⟨[n], true, [BitVec.ofNat 64 f], true, [(n, c, cx)], none⟩] ∧
        (t.ctx k c).task = none ∧ OnlyContext s t k c) ∧
    (∀ v : Dword, v.toNat % 256 = 4 * k.val + c.val →
      (HostServed s → cx.state = .stopped → cx.task = some n → ∃ t, exec (.mckill v) s = .next t ∧ (t.ctx k c).ending = true ∧
        (t.task n).bind (·.killed) = tk.killed.or (some 12) ∧ t.mem = s.mem ∧ OnlyContext s t k c) ∧
      (cx.state ≠ .stopped → exec (.mckill v) s = .next s))

/-! ### The compressed space, the ring, claims and the host -/

namespace Sys2Proof.Spec

open Sys2Proof Sys2Proof.Machine

/-- Cells of a run of bytes. -/
def cellsFrom (a : Nat) (data : List Byte) : List (Nat × Byte) := ((List.range data.length).map (a + ·)).zip data

/-- Counts one up to the largest value of n bits. -/
def satSucc {n : Nat} (v : BitVec n) : BitVec n := if v = BitVec.allOnes n then v else v + 1

end Sys2Proof.Spec

/-- R282-R290: enabling compressed memory and the end of its initialisation, discarding pages, a waiting write that is
performed or meets its bound, and a pass of the Skidder that opens a balloon request. -/
def Obligations.CompressedMemoryAndSkidder : Prop :=
  ∀ (s : State) (v : Dword) (w : WaitingWrite),
    (HostServed s → v.getLsbD 63 = true → 2 ≤ s.stage → ∃ t, exec (.cmpctlEnable v) s = .next t ∧
      t = { s with regs := { s.regs with cmpEn := true, cmpBusy := true, cmpVec := v.toNat / 65536 % 2048 } }) ∧
    (v.getLsbD 63 = true → s.stage < 2 → exec (.cmpctlEnable v) s = .next s) ∧
    (HostServed s → v.getLsbD 63 = false → ∃ t, exec (.cmpctlEnable v) s = .next t ∧ t.regs.cmpEn = false ∧ t.mem = s.mem) ∧
    (s.regs.cmpBusy = false → exec .cmpctlInitDone s = .next s) ∧
    (s.regs.cmpBusy = true → ∃ t, exec .cmpctlInitDone s = .next t ∧ t.regs.cmpBusy = false ∧ t.blocks = [] ∧
      t.chunks = [] ∧ t.regs.cfree = s.regs.poolChunks * 8 ∧ ContextsUnmoved s t ∧
      (let first := s.regs.cmeta.toNat / 65536 * 65536
        ∀ a, isExposed a = false →
          (a < first ∨ first + s.regs.cxsize * 2 ^ 25 ≤ a → t.mem.read a = s.mem.read a) ∧
          (first ≤ a → a < first + s.regs.cxsize * 2 ^ 25 → t.mem.read a = 0)) ∧
      (∀ a, isExposed a = true → s.mem.gen (a / 4096) = 0 → t.mem.read a = 0)) ∧
    (let a := v.toNat / 4096 * 4096
      let n := (v.toNat % 4096 + 1) * 4096
      (s.regs.exposedBytes < a + n → exec (.cdisc v) s = .next s) ∧
      (HostServed s → a + n ≤ s.regs.exposedBytes → s.regs.cxsize ≤ 1024 → s.regs.cmpBusy = false → s.waitingWrites = [] →
        ∃ t, exec (.cdisc v) s = .next t ∧ (∀ i < n, t.mem.read (exposedBase + a + i) = 0) ∧
          (∀ b < n / 256, t.blockMeta (a / 256 + b) = ⟨0, 0, 0, 0⟩) ∧
          (∀ x, (x < exposedBase + a ∨ exposedBase + a + n ≤ x) → (∀ b < n / 256,
            x < s.regs.metaAt (a / 256 + b) ∨ s.regs.metaAt (a / 256 + b) + 8 ≤ x) → t.mem.read x = s.mem.read x) ∧
          t.waitingWrites = [] ∧ ContextsUnmoved s t)) ∧
    (∀ b, s.waitingWrites = [w] → w.writer = .host → s.regs.cmpBusy = false → w.cells ≠ [] → s.poison = [] →
      (∀ y ∈ w.cells, isExposed y.1 = true ∧ exposedBlock y.1 = b) →
      let need := (s.shapeAfter b w.cells).2
      (need ≤ (s.blockMeta b).nsec ∨ ∃ i n, i ≤ s.chunks.length ∧ i < s.regs.poolChunks ∧ n + need ≤ 8 ∧
        s.chunkMask i &&& runMask n need = 0) →
      ∃ t, exec (.waitingWritePerform w.id) s = .next t ∧ t.waitingWrites = [] ∧ ContextsUnmoved s t ∧
        (t.blockMeta b).nsec = need ∧
        (∀ x, isExposed x = true → t.mem.read x = (s.mem.writeCells w.cells).read x) ∧
        let at_ := s.regs.metaAt b
        let run := s.regs.sectorAt (t.blockMeta b)
        ∀ x, isExposed x = false → (x < at_ ∨ at_ + 8 ≤ x) → (x < run ∨ run + 256 ≤ x) → t.mem.read x = s.mem.read x) ∧
    (∀ since, w.since = some since → s.waitingWrites = [w] → since + s.regs.skbnd.toNat ≤ s.sclk.toNat →
      (w.writer = .host → ∃ t, exec (.skidderBoundExpiry w.id) s = .next t ∧ t.waitingWrites = [] ∧
        t.regs.hdrop = satSucc s.regs.hdrop ∧ t.regs.oosn = satSucc s.regs.oosn ∧ t.mem = s.mem ∧ ContextsUnmoved s t) ∧
      (∀ rank n, w.writer = .peer rank n → s.replies = [] → let refused := Output.slotRefused rank true (decide (1 ≤ n))
        ∃ t, exec (.skidderBoundExpiry w.id) s = .next t ∧ t.waitingWrites = [] ∧ t.regs.oosn = satSucc s.regs.oosn ∧
          (0 < s.credit (s.linkTo rank) 0 → t.outputs = s.outputs ++ [refused] ∧ t.replies = []) ∧
          (s.credit (s.linkTo rank) 0 = 0 → t.outputs = s.outputs ∧ t.replies = [(rank, refused)])) ∧
      ((∃ win y, w.writer = .station win y) ∨ w.writer = .report → exec (.skidderBoundExpiry w.id) s = .next s) ∧
      (∀ k c a, w.writer = .context k c a.id → (s.ctx k c).async = [a] → a.waiting.isSome = true →
        a.suspended = false → a.id ∉ (s.ctx k c).blockedOn → ∃ t y, exec (.skidderBoundExpiry w.id) s = .next t ∧ t.waitingWrites = [] ∧
          (t.ctx k c).async = [{ a with suspended := true }] ∧
          (t.ctx k c).latched = (s.ctx k c).latched ++
            [(Cause.oos, y, (s.ctx k c).tm && decide ((s.ctx k c).tmFrom ≤ a.id))] ∧
          t.mem = s.mem ∧ OnlyContext s t k c)) ∧
    ((∀ since, w.since = some since → s.sclk.toNat < since + s.regs.skbnd.toNat) → s.waitingWrites = [w] →
      exec (.skidderBoundExpiry w.id) s = .next s) ∧
    (s.phase.issuing = true → exec .skidderIteration s = .next { s with late := s.late ++ [.skidderIteration] }) ∧
    (s.phase.issuing = false → s.waitingWrites = [w] → s.evicting = none → s.regs.spln = 0 → s.regs.cfree < s.sectorsNeeded w →
      ∃ t, exec .skidderIteration s = .next t ∧
      t.regs.balPend = true ∧ t.regs.balSect = s.regs.cresv + s.sectorsNeeded w - s.regs.cfree ∧ t.mem = s.mem ∧
      t.outputs = s.outputs ++ [.msix s.regs.cmpVec] ∧ t.regs.skRun = false ∧ ContextsUnmoved s t)

/-- R295, R296, R299, R303, R304, R324, R325: ring slots are served or refused, by answers that wait for a credit of
channel 0, and come back to their issuer; links train, fail, replay, count what they accept and report it every 512 flits; and a reduction word is written once, when every member has contributed.
A bounced SEND latches COPYFLT with the first byte of its destination: the model's choice (log entry 70). -/
def Obligations.RingLinksAndReductions : Prop :=
  ∀ (s : State) (src : BitVec 7) (addr : Dword) (data : List Byte) (refusals : Nat) (l : Fin 10) (own far : LinkSetting)
    (ch : Fin 17) (free seq : Nat),
    let a := addr.toNat
    let link := s.links.get l
    let set (f : Link) : State := { s with links := s.links.set l f }
    let exported (a n : Nat) : Prop := ∃ i : Fin 4, (s.regs.pexp.get i).1.toNat ≤ a ∧
      a + n ≤ (s.regs.pexp.get i).1.toNat + (s.regs.pexp.get i).2.toNat
    let quiet := s.buffered = [] ∧ s.replies = [] ∧ s.log = []
    let answer := Output.slotReply src (s.bytes (a / 256 * 256) 256)
    (quiet → exported (a / 256 * 256) 256 → a / 256 * 256 + 256 ≤ Config.hbmBytes → s.poison = [] →
      ∃ t, exec (.ringSlotReceive src addr false .read refusals) s = .next t ∧
        (0 < s.credit (s.linkTo src) 0 → t = { s with outputs := s.outputs ++ [answer], links := t.links }) ∧
        (s.credit (s.linkTo src) 0 = 0 → t = { s with replies := [(src, answer)], links := t.links }) ∧
        ((t.links[s.linkFrom src]?).map (·.accepted)) = (s.links[s.linkFrom src]?).map (·.accepted + 1)) ∧
    (quiet → data ≠ [] → exported a data.length → a + data.length ≤ Config.hbmBytes →
      ∃ t, exec (.ringSlotReceive src addr false (.write data) refusals) s = .next t ∧
        t.mem = s.mem.writeCells (cellsFrom a data) ∧ t.outputs = s.outputs ∧ ContextsUnmoved s t) ∧
    (quiet → 0 < s.credit (s.linkTo src) 0 → data.length = 4 ∨ data.length = 8 → exported a data.length → a + data.length ≤ Config.hbmBytes → s.poison = [] →
      ∃ t, exec (.ringSlotReceive src addr false (.atomic .add data) refusals) s = .next t ∧
        t.value a data.length = (s.value a data.length + leValue data) % 2 ^ (8 * data.length) ∧
        t.outputs = s.outputs ++ [.slotReply src (s.bytes a data.length)] ∧ ContextsUnmoved s t ∧
        ∀ y, y < a ∨ a + data.length ≤ y → t.mem.read y = s.mem.read y) ∧
    (quiet → 0 < s.credit (s.linkTo src) 0 → data ≠ [] → ¬ exported a data.length →
      ∃ t, exec (.ringSlotReceive src addr false (.write data) refusals) s = .next t ∧ t = { s with
        outputs := s.outputs ++ [.slotRefused src false (decide (1 ≤ refusals))], links := t.links }) ∧
    (∀ k c x, (s.ctx k c).async = [x] → Free s x → x.id ∉ (s.ctx k c).blockedOn → (∀ m ∈ s.messages, m.id ≠ x.id) → (∃ y ∈ x.act.keys, peerBase ≤ y) →
      (∀ y ∈ x.act.keys, isExposed y = false) →
      (x.act.isStore = true → ∃ t, exec (.ringBounce k c x.id true) s = .next t ∧
        (t.ctx k c).async = [{ x with suspended := true }] ∧ (t.ctx k c).pbmem = (s.ctx k c).pbmem ∧
        (∃ e, (t.ctx k c).latched = (s.ctx k c).latched ++ [(Cause.oos, x.addr, e)]) ∧ t.mem = s.mem ∧ OnlyContext s t k c) ∧
      (∃ t, exec (.ringBounce k c x.id false) s = .next t ∧ (t.ctx k c).async = [] ∧
        (t.ctx k c).pbmem = (s.ctx k c).pbmem - x.charge ∧
        (∃ e, (t.ctx k c).latched = (s.ctx k c).latched ++ [(Cause.perm, x.addr, e)]) ∧ t.mem = s.mem ∧
        OnlyContext s t k c)) ∧
    (∀ k c cmd m rank space, (s.core k).channels.get c = [cmd] → cmd.message = some m.id → s.messages = [m] →
      m.core = k → m.ctx = c → m.far = some rank → m.sent ≠ 0 →
      ∃ t e, exec (.ringBounce k c m.id space) s = .next t ∧ t.messages = [] ∧ (t.core k).channels.get c = [] ∧
        (t.ctx k c).pbmem = (s.ctx k c).pbmem - m.charge ∧
        (t.ctx k c).latched = (s.ctx k c).latched ++ [(Cause.copyflt, m.dst, e)] ∧ t.mem = s.mem ∧ OnlyContext s t k c ∧
        ((t.launch m.launch).map (·.undelivered)) =
          (s.launch m.launch).map fun la => if space then la.undelivered else la.undelivered + 1) ∧
    (own = far → exec (.linkTrainingEnd l own far) s =
      .next (set { link with
        up := true, failures := 0, setting := own, retraining := false
        freeSlots := Vector.ofFn fun c => Config.ringBuffers l c })) ∧
    (own ≠ far → link.failures < 2 → exec (.linkTrainingEnd l own far) s = .next (set { link with
      failures := link.failures + 1, retraining := true
      setting := ⟨min own.width far.width, min own.laneMap far.laneMap, min own.speed far.speed⟩ })) ∧
    (own ≠ far → 2 ≤ link.failures → exec (.linkTrainingEnd l own far) s =
      .next (set { link with up := false, failures := 3, retraining := false })) ∧
    exec (.linkFailure l) s = .next (set { link with up := false, failures := 0, retraining := true }) ∧
    (∀ f ∈ link.replay, seq ≤ f.1 → exec (.flitCrcFail l seq) s = .next { s with
      outputs := s.outputs ++ [.replayed l (link.replay.filter fun g => decide (seq ≤ g.1))] }) ∧
    (link.accepted < link.counted + 512 → exec (.creditCountSend l) s = .next s) ∧
    (link.counted + 512 ≤ link.accepted → let counts (free : List Nat) := { set { link with counted := link.accepted } with
        outputs := s.outputs ++ [.creditCounts l link.accepted free] }
      s.circling = [] →
      (s.buffered = [] → exec (.creditCountSend l) s = .next (counts link.freeSlots.toList)) ∧
      (∀ x, s.buffered = [x] → s.linkFrom x.src = l.val →
        exec (.creditCountSend l) s = .next (counts (link.freeSlots.toList.modify 0 (· - 1))))) ∧
    exec (.creditCountReceive l ch free seq) s = .next (set { link with
      credits := link.credits.set ch
        (free - (link.replay.filter fun f => decide (seq < f.1) && f.2 == ch.val).length)
      replay := link.replay.filter fun f => decide (seq < f.1) }) ∧
    exec (.slotReturn l ch) s = .next (set { link with credits := link.credits.set ch (link.credits.get ch + 1) }) ∧
    (∀ (w : Fin 8) (op : BitVec 2) (n : Word) (v : Dword), Within (s.regs.rdwin.get w) s.rank a → s.rounds = [] →
      s.waitingWrites = [] → s.log = [] →
      n = s.expectedRound w a → a + 8 ≤ Config.hbmBytes →
      (groupMembers (s.rdGroup w) = [src] → s.lostRanks = [] → 1 ≤ op.toNat → op.toNat ≤ 2 →
        ∃ t, exec (.reductionContribution w addr op n src v) s = .next t ∧ t.rounds = [] ∧
          t.expectedRound w a = n + 1 ∧
          t.value a (if op = 2 then 8 else 4) = if op = 2 then (s.value a 8 + v.toNat) % 2 ^ 64
            else (s.value a 4 + v.toNat) % 2 ^ 32) ∧
      ((∃ r ∈ groupMembers (s.rdGroup w), r ≠ src) → ∃ t, exec (.reductionContribution w addr op n src v) s = .next t ∧
        t.rounds = [⟨w, a, op, n, [(src, v)], [], false⟩] ∧ t.mem = s.mem ∧ t.expectedRound w a = n)) ∧
    (∀ r : Round, s.rounds = [r] → r.win = addr.toNat % 8 → r.number = s.expectedRound r.win r.addr →
      r.contributions ≠ [] → r.disturbed = false → s.waitingWrites = [] → s.log = [] →
      (∀ i ∈ r.ids, s.unmade i = false) → r.addr + redBytes r.op ≤ Config.hbmBytes → ∃ t, exec (.rdclose addr) s = .next t ∧
        t.rounds = [] ∧ t.expectedRound r.win r.addr = r.number + 1 ∧
        t.mem = s.mem.writeCells (cellsFrom r.addr (leBytes (redBytes r.op) (r.result (groupMembers (s.rdGroup r.win))
          (BitVec.ofNat 64 (s.value r.addr (redBytes r.op)))).toNat)))

/-- R305, R307-R315: claims of other devices join or open a set, objections count, those that come before the set is open
among them, a set is decided at its time for its
strongest claim, a lost member spoils the sets it shares, beats go to the own groups and those of members are heard at
their time, and the host claims and objects. -/
def Obligations.BlazePlaneEvents : Prop :=
  ∀ (s : State) (n : Fin 16) (rank : BitVec 7) (pri : BitVec 3) (v g : Dword) (start : Nat) (win : Word) (o : OpenSet),
    let r := s.claimSlot n
    let c : Claim := ⟨rank, pri, v, start⟩
    let clear : OpenSet → OpenSet := fun x => { x with mixed := o.mixed }
    (s.phase = .tick → rank ≠ s.rank → groupHas g s.rank = true → s.lostRanks = [] →
      (r.opened = none → ∃ t u, exec (.claimReceive n rank pri v start g win) s = .next t ∧
        t.claimSlot n = { r with opened := some u, early := [] } ∧ u.claims = [c] ∧ u.t0 = start ∧ u.win = win.toNat ∧
        u.group = g ∧ u.objections = min 255 r.early.length ∧ u.miss = false ∧ t.mem = s.mem ∧ ContextsUnmoved s t) ∧
      (r.opened = some o → start ≤ o.t0 + o.bound → o.t0 ≤ start + o.bound →
        ∃ t u, exec (.claimReceive n rank pri v start g win) s = .next t ∧ t.claimSlot n = { r with opened := some u } ∧
          clear u = { o with claims := o.claims ++ [c], t0 := min o.t0 start } ∧ ContextsUnmoved s t) ∧
      (r.opened = some o → (o.t0 + o.bound < start ∨ start + o.bound < o.t0) →
        ∃ t, exec (.claimReceive n rank pri v start g win) s = .next t ∧
          t.claimSlot n = { r with opened := some { o with miss := true } } ∧ ContextsUnmoved s t)) ∧
    (s.lostRanks = [] → r.opened = some o → ∃ t u, exec (.objectionReceive n rank v) s = .next t ∧
      t.claimSlot n = { r with opened := some u } ∧ u.objections = min 255 (o.objections + 1) ∧
      u.maxv.toNat = max o.maxv.toNat v.toNat ∧ u.claims = o.claims ∧ u.t0 = o.t0 ∧ ContextsUnmoved s t) ∧
    (s.lostRanks = [] → r.opened = none → ∃ t, exec (.objectionReceive n rank v) s = .next t ∧
      t.claimSlot n = { r with early := r.early ++ [(rank, v)] } ∧ t.mem = s.mem ∧ ContextsUnmoved s t) ∧
    (r.opened = none → exec (.blazeDecision n) s = .next s) ∧
    (r.opened = some o → s.ringTime < o.t0 + o.win + o.bound → exec (.blazeDecision n) s = .next s) ∧
    (r.opened = some o → o.t0 + o.win + o.bound ≤ s.ringTime → o.mixed = false → o.claims ≠ [] →
      ∃ t w, exec (.blazeDecision n) s = .next t ∧ w ∈ o.claims ∧ t.mem = s.mem ∧
        (∀ x ∈ o.claims, x.pri.toNat < w.pri.toNat ∨ (x.pri = w.pri ∧ w.rank.toNat ≤ x.rank.toNat)) ∧
        let u := t.claimSlot n
        u.opened = none ∧ u.seq = r.seq + 1 ∧ u.winner = w.rank ∧ u.value = w.value ∧ u.nobj = o.objections ∧
        u.maxv = o.maxv ∧ u.miss = o.miss ∧ u.lowobj = o.lowobj.getD 0 ∧
        (((∃ x ∈ o.claims, x.rank = s.rank) ∧ w.rank ≠ s.rank ∨ o.refused = true) → u.code = 3) ∧
        (¬((∃ x ∈ o.claims, x.rank = s.rank) ∧ w.rank ≠ s.rank ∨ o.refused = true) →
          u.code = if 0 < o.objections then 2 else 1)) ∧
    (s.ringTime < (s.heard.lookup rank).getD 0 + 2 * (if rank.toNat / 8 = s.rank.toNat / 8 then 40 else 200) →
      exec (.memberLost rank) s = .next s) ∧
    (rank ≠ s.rank → s.lostRanks = [] → (∃ i < 8, groupHas (s.blazeGroup i) s.rank = true ∧
        (groupMembers (s.blazeGroup i)).contains rank = true) →
      (s.heard.lookup rank).getD 0 + 2 * (if rank.toNat / 8 = s.rank.toNat / 8 then 40 else 200) ≤ s.ringTime → ∃ t, exec (.memberLost rank) s = .next t ∧
      t.lostRanks = [rank] ∧ t.regs.lost = satSucc s.regs.lost ∧ t.mem = s.mem ∧ ContextsUnmoved s t ∧
      ∀ i : Fin 16, (t.claimSlot i).opened = (s.claimSlot i).opened.map fun x =>
        { x with miss := x.miss || (groupMembers x.group).contains rank }) ∧
    (rank ≠ s.rank → s.lostRanks = [] → ∀ n, s.beats = [(n, rank)] →
      (s.ringTime < n → s.hearBeats = s) ∧
      (n ≤ s.ringTime → let t := s.hearBeats
        t.beats = [] ∧ t.outputs = s.outputs ∧ t.heard.lookup rank = some s.ringTime ∧
        (∀ r, r ≠ rank → t.heard.lookup r = s.heard.lookup r) ∧ t.mem = s.mem ∧ ContextsUnmoved s t)) ∧
    (∃ t, exec .presenceBeat s = .next t ∧ t.mem = s.mem ∧ ContextsUnmoved s t ∧ t.outputs = s.outputs ++
      ((List.range 8).filter fun i => groupHas (s.blazeGroup i) s.rank).map Output.beat) ∧
    (HostServed s → v.getLsbD 63 = true → v.getLsbD 62 = false → let slot := v.toNat % 16
      let grp := v.toNat / 16 % 8
      (s.mayClaim grp = false → exec (.hostClaim v) s = .next { s with regs := { s.regs with hclerr := 1 } }) ∧
      (s.mayClaim grp = true → (s.claimSlot slot).opened = none → ∃ t u, exec (.hostClaim v) s = .next t ∧
        (t.claimSlot slot).opened = some u ∧ u.t0 = s.ringTime ∧ t.regs.hclerr = 0 ∧
        u.claims = [⟨s.rank, v.extractLsb' 8 3, s.regs.hclval, s.ringTime⟩] ∧ ContextsUnmoved s t)) ∧
    (HostServed s → v.getLsbD 63 = true → v.getLsbD 62 = true → let slot := v.toNat % 16
      (s.objectable slot = none → exec (.hostObjection v) s = .next { s with regs := { s.regs with hclerr := 2 } }) ∧
      (∀ x, s.objectable slot = some x → ∃ t u, exec (.hostObjection v) s = .next t ∧ t.regs.hclerr = 0 ∧
        (t.claimSlot slot).opened = some u ∧ u.objections = min 255 (x.objections + 1) ∧
        u.maxv.toNat = max x.maxv.toNat s.regs.hclval.toNat ∧ u.claims = x.claims ∧ ContextsUnmoved s t))

/-- R318-R332: the stages of the device, the host's window, partitions and registers, service operations, errors, power
and attestation. That registers other than those of R322 are written in every stage is the model's choice (log entry 66). -/
def Obligations.DeviceAndHostEvents : Prop :=
  ∀ (s : State) (ok : Bool) (rank : BitVec 7) (hv : BitVec 16) (off n : Nat) (data : List Byte) (watts : BitVec 12)
    (tgt : BitVec 8) (part : Fin 8) (v : Dword) (kind : PcieRequest) (router : Fin 16) (cl : BitVec 8),
    (∃ t, exec (.deviceReset ok) s = .next t ∧ t.stage = 0 ∧ t.regs.vfail = !ok ∧ t.regs.hrv = s.regs.hrv ∧
      t.mem.cells = [] ∧ t.launches = [] ∧ (∀ k c, t.ctx k c = State.reset.ctx k c) ∧
      (∀ q : Fin 64, t.queues.get q = State.reset.queues.get q)) ∧
    (s.stage = 0 → s.regs.vfail = false → ∃ t, exec .stage1Reached s = .next t ∧ t.mem = s.mem ∧
      (t.stage = 1 ∧ t.regs.vfail = false ∧ t.digests.get 0 ≠ 0 ∧ (t.links.get 0).up = true ∧ (t.links.get 1).up = true ∨
        s.digests.get 0 = 0 ∧ t.stage = 0 ∧ t.regs.vfail = true)) ∧
    (s.stage ≠ 0 ∨ s.regs.vfail = true → exec .stage1Reached s = .next s) ∧
    (s.stage = 1 → ∃ t, exec (.stage2Reached rank hv) s = .next t ∧ t.stage = 2 ∧ t.rank = rank ∧ t.sclk = 0 ∧
      t.regs.hrv = s.regs.hrv ||| hv ∧ (∀ l : Fin 10, (t.links.get l).up = true) ∧
      (∀ l : Fin 10, l.val < 2 → (t.links.get l).retraining = true ∧ (t.links.get l).setting.speed = 128) ∧
      t.mem = s.mem ∧ ContextsUnmoved s t) ∧
    (s.stage ≠ 1 → exec (.stage2Reached rank hv) s = .next s) ∧
    (¬ HostServed s → ∀ j, FromHost j → exec j s = .next s) ∧
    (HostServed s → s.stage = 2 → s.poison = [] → s.regs.h2base.toNat + off + n ≤ Config.hbmBytes → exec (.hostBar2Read off n) s = .next { s with
      outputs := s.outputs ++ [.bar2Data (s.bytes (s.regs.h2base.toNat + off) n)] }) ∧
    (HostServed s → s.stage < 2 → Config.stack0Bytes ≤ s.regs.h2base.toNat + off → s.regs.h2base.toNat + off + n ≤ 2 ^ 64 →
      exec (.hostBar2Read off n) s = .next { s with outputs := s.outputs ++ [.bar2Data (List.replicate n 0xFF)] }) ∧
    (HostServed s → s.stage = 2 → s.regs.h2base.toNat + off + data.length ≤ Config.hbmBytes → ∃ t, exec (.hostBar2Write off data) s = .next t ∧
      t.mem = s.mem.writeCells (cellsFrom (s.regs.h2base.toNat + off) data) ∧ ContextsUnmoved s t ∧
      ∀ (q : Fin 64) (j : Nat), let r := s.queues.get q
        let i := (r.head.toNat + j) % 2 ^ r.lsz
        j < (r.tail - r.head).toNat → (∃ y < data.length, r.base.toNat + 256 * i ≤ s.regs.h2base.toNat + off + y ∧
          s.regs.h2base.toNat + off + y < r.base.toNat + 256 * i + 256) → i ∈ (t.queues.get q).changed) ∧
    (HostServed s → exec (.unsupportedRequest kind) s = .next { s with outputs := s.outputs ++ [.unsupported] }) ∧
    (let twice := ∃ p, p ≠ part ∧ s.regs.pcfg.get p &&& v &&& 0xFFFE0000FFFFFFFF ≠ 0
      let busy := ∃ k c, (s.regs.pcfg.get part ||| v).getLsbD (56 + clusterOf k) = true ∧
        ((s.ctx k c).reservedTask ≠ none ∨ (s.ctx k c).reservedLaunch ≠ none)
      (twice ∨ busy → exec (.pcfgWrite part v) s = .next s) ∧
      (HostServed s → ¬ twice → ¬ busy → s.preempts = [] → exec (.pcfgWrite part v) s = .next { s with
        regs := { s.regs with pcfg := s.regs.pcfg.set part (v &&& 0xFFFF0000FFFFFFFF) } })) ∧
    (∀ parts, parts = ((List.range 8).filter fun p => (s.clustersOf p).any cl.getLsbD) →
      (∀ (l : Nat) (la : Launch), s.launch l = some la → la.completed = true ∨ la.part ∉ parts) →
      ∃ t, exec (.routerFailure router cl) s = .next t ∧ t.regs.hrv = s.regs.hrv ||| (1#16 <<< router.val) ∧
        t.mem = s.mem ∧ ContextsUnmoved s t ∧ (∀ p ∈ parts, ∀ c ∈ s.clustersOf p, c ∈ t.clearing)) ∧
    (HostServed s → s.regs.svcBusy = false →
      (tgt.toNat < 8 → (∀ k c, clusterOf k = tgt.toNat → (s.ctx k c).reservedTask = none ∧
        (s.ctx k c).reservedLaunch = none) → exec (.svcFirmwareReload tgt) s = .next { s with
        service := some ⟨1, tgt.toNat⟩, regs := { s.regs with svcBusy := true } }) ∧
      exec (.svcHbmRecalibration tgt) s = .next { s with
        service := some ⟨2, tgt.toNat⟩, regs := { s.regs with svcBusy := true } } ∧
      (∀ l : Fin 10, l.val = 2 + tgt.toNat → (∀ m : Fin 10, 2 ≤ m.val → m ≠ l → (s.links.get m).up = true) →
        ∃ t, exec (.svcLinkRetrain tgt) s = .next t ∧ t.service = some ⟨3, tgt.toNat⟩ ∧ t.regs.svcBusy = true ∧
          t.links = s.links.set l { s.links.get l with up := false, retraining := true } ∧ t.mem = s.mem)) ∧
    (HostServed s → s.regs.svcBusy = true → ∀ j ∈ [Instr.svcFirmwareReload tgt, .svcHbmRecalibration tgt, .svcLinkRetrain tgt],
      exec j s = .next { s with regs := { s.regs with svcRes := 1 } }) ∧
    (∀ o, s.service = some o → ∃ t, exec (.svcOperationEnd ok) s = .next t ∧ t.service = none ∧
      t.regs.svcBusy = false ∧ t.regs.svcRes = (if ok then 0 else 2) ∧ t.outputs = s.outputs ++ [.msix s.regs.cmpVec] ∧
      t.mem = s.mem ∧ ContextsUnmoved s t) ∧
    exec .softErrorCorrected s = .next { s with regs := { s.regs with cecnt := satSucc s.regs.cecnt } } ∧
    (∃ t, exec (.clockAdjust watts) s = .next t ∧ t.regs.watts = watts.toNat ∧ t.mem = s.mem ∧ ContextsUnmoved s t ∧
      (s.regs.plim < watts.toNat → t.regs.mhz = max 700 (s.regs.mhz - 100)) ∧
      (watts.toNat ≤ s.regs.plim → t.regs.mhz = s.regs.mhz ∨ t.regs.mhz = min 1400 (s.regs.mhz + 100) ∨
        t.regs.mhz = max 700 (s.regs.mhz - 100))) ∧
    ((HostServed s → exec .attestationStart s = .next { s with regs := { s.regs with attBusy := true } }) ∧
      (s.regs.attBusy = false → exec .attestationDone s = .next s) ∧
      (s.regs.attBusy = true → s.stage = 2 → (∀ x ∈ s.waitingWrites, x.writer ≠ .report) → s.regs.attbuf.toNat + 30600 ≤ Config.hbmBytes → ∃ t, exec .attestationDone s = .next t ∧
        t.regs.attBusy = false ∧ t.regs.attDone = true ∧ ContextsUnmoved s t ∧
        (∀ i : Fin 4, t.value (s.regs.attbuf.toNat + 8 + 8 * i) 8 = (s.regs.attn.get i).toNat))) ∧
    (HostServed s → ∃ t, exec (.registerWrite 0x260 v) s = .next t ∧ t.regs.mthr = v.truncate 32 ∧ t.mem = s.mem ∧ ContextsUnmoved s t) ∧
    (HostServed s → 1200 ≤ v.toNat % 4096 → v.toNat % 4096 ≤ 2600 → ∃ t, exec (.registerWrite 0x900 v) s = .next t ∧
      t.regs.plim = v.toNat % 4096 ∧ t.bar0 0x900 = BitVec.ofNat 64 (v.toNat % 4096)) ∧
    (off = 0x318 ∧ s.regs.cmpEn = true ∨ off % 8 ≠ 0 ∨
        off ∈ [0x000, 0x230, 0x250, 0x320, 0x348, 0x378, 0x390, 0x618, 0x700, 0x808, 0x908] →
      exec (.registerWrite off v) s = .next s) ∧
    (off % 8 ≠ 0 ∨ off ∈ [0x278, 0x350, 0x398, 0x508, 0x608, 0x708, 0x800, 0xA28] → s.bar0 off = 0) ∧
    (HostServed s → ∀ p ∈ [(0x228, Instr.dtargetWrite v), (0x248, .mnqhWrite v), (0x278, .wselWrite v), (0x300, .cmpctlEnable v),
        (0x350, .cdisc v), (0x398, .fnfail v), (0x508, .rdclose v), (0x708, .mckill v), (0x880 + 8 * part.val, .pcfgWrite part v)],
      exec (.registerWrite p.1 v) s = exec p.2 s) ∧
    (HostServed s → ∀ q : Fin 64, let at_ := 0x10000 + 0x40 * q.val
      exec (.registerWrite at_ v) s = exec (.queueConfigWrite q false v) s ∧
      exec (.registerWrite (at_ + 8) v) s = exec (.queueConfigWrite q true v) s ∧
      exec (.registerWrite (at_ + 16) v) s = exec (.doorbell q v) s) ∧
    (HostServed s → v.getLsbD 63 = false → v.getLsbD 62 = false → ∃ t, exec (.registerWrite 0x220 v) s = .next t ∧
      t.regs.dstopGo = false ∧ t.regs.dstopPmax = v.truncate 3 ∧ t.mem = s.mem ∧
      ∀ k c, t.ctx k c = { s.ctx k c with heldCut := none })

/-! ### Statements of several parts -/

/-- R27, R53, R54, R58, R300: what a source field reads, and which destination fields a form may write. -/
def Obligations.SourcesAndDestinations : Prop := QuietSourcesReadTheirRegisters ∧ UnboundPushTrapsIllegal

/-- R14, R28, R49, R237, R321: the values that the rules give for reset, and memory with nothing listed. -/
def Obligations.ResetLeavesTheStatedValues : Prop := ResetRegisters ∧ ResetMemoryIsCanonical

/-- R63: a REP header expands its bundle from the repeat buffer, and the slots of the expansion run after it. -/
def Obligations.RepExpandsAndRuns : Prop := StepRunsRepThenItsSlots ∧ RepExpandsFromTheRepeatBuffer

/-- R115-R117: what the transfer and loop forms note for the end of their bundle, and where they trap. -/
def Obligations.TransfersAndLoopsAreNoted : Prop := TransfersNoteTheirTarget ∧ LoopFormsTestThenNote

/-- R114, R118: where a completed bundle leads, with a transfer and without one. -/
def Obligations.CompletionLeadsToTheNextBundle : Prop := TransferTakesEffectAtCompletion ∧ LoopEndCountsOrPops

/-- R119, R126, R151, R227: NOP, WAITB, EXIT and FENCE. -/
def Obligations.NopWaitbExitAndFence : Prop := NopWaitbAndExit ∧ WaitbHoldsAboveItsLimit ∧ FencePutsItsOrderInForce

/-- R18, R19, R120, R122: QUIET and SPAWN. -/
def Obligations.QuietCutsAndSpawns : Prop := QuietOffersItsCutOrMisses ∧ SpawnStartsAChild

/-- R124, R125, R257, R259: TRAP and RETT. -/
def Obligations.TrapAndRett : Prop := TrapEntersTheHandlerWithSoft ∧ RettRestoresAndReenters

/-- R127-R129, R255: SYSRD and SYSWR. -/
def Obligations.SystemRegistersReadAndWrite : Prop := SysrdReadsItsRegister ∧ SyswrWritesOrTrapsPerm

/-- R134, R135, R145: the scalar loads and stores. -/
def Obligations.ScalarAccesses : Prop := ScalarLoadsReadTheirBytes ∧ ScalarStoresPutTheirBytes

/-- R133, R135, R253, R270: where an access traps, and what an uncorrectable error latches (log entry 67). -/
def Obligations.AccessesTrap : Prop := ScalarAccessTraps ∧ AccessTrapTakesTheEarliestCause ∧ PoisonNamesTheAddress

/-- R136-R142: the vector, mask and lane accesses. -/
def Obligations.VectorMaskAndLaneAccesses : Prop := VectorAndMaskAccesses ∧ LaneAccesses

/-- R143, R144: the atomics, and the words they leave. -/
def Obligations.AtomicsAndTheirWords : Prop := AtomicsReachTheirWord ∧ AtomicResultWords

/-- R58, R131, R132, R229: results and accesses reach their places. -/
def Obligations.ResultsAndAccessesLand : Prop := ResultsLandInTheirRegister ∧ OnChipStorePutsExactlyItsBytes ∧ AsyncLoadLandsAndPaysBack ∧ StoreOrderingPointPutsItsBytes

/-- R98, R102, R146, R147: CPY and CPYSH. -/
def Obligations.CopyCommandsAndShadowRegisters : Prop := CpyEntersACommandAndCharges ∧ CpyshWritesItsRegister

/-- R97, R99, R148, R149: CBADV, CBWT and OWNF. -/
def Obligations.RingAndOwnerForms : Prop := RingFormsAdvanceAndWait ∧ OwnfFlipsItsTiles

/-- R308, R310-R312: BLZ, BLZOBJ, BLZRD and BLZWT. -/
def Obligations.ClaimForms : Prop := ClaimsAndObjections ∧ ClaimSlotsAreReadAndAwaited

/-- R172, R182-R186: the forms that act on an accumulator tile. -/
def Obligations.AccumulatorAndDrainForms : Prop := AccumulatorForms ∧ DrainForms

/-- R44, R46, R183-R185: what the accumulator forms make of their tile. -/
def Obligations.TileResultsAndNormalisation : Prop := TileResults ∧ NormalisedRowFillsTheField
end

