-- ==== Sys2Proof/Laws/State.lean ====
section
/-! SUPPORT. What each update of the state leaves alone: one lemma per field per update, and what a core or a context
reads as after one. A proof cites these and unfolds no record update. -/

namespace Sys2Proof.Machine

/-! ### Cores and contexts -/

@[simp] theorem State.core_setCore_self (s : State) (k : Fin 64) (c : Core) : (s.setCore k c).core k = c := by
  exact Vector.getElem_set_self k.isLt

theorem State.core_setCore_of_ne (s : State) {j k : Fin 64} (c : Core) (h : j ≠ k) :
    (s.setCore k c).core j = s.core j := by
  have h2 : k.val ≠ j.val := fun e => h (Fin.ext e.symm)
  exact Vector.getElem_set_ne k.isLt j.isLt h2

@[simp] theorem State.core_modCore_self (s : State) (k : Fin 64) (f : Core → Core) :
    (s.modCore k f).core k = f (s.core k) := State.core_setCore_self s k _

theorem State.core_modCore_of_ne (s : State) {j k : Fin 64} (f : Core → Core) (h : j ≠ k) :
    (s.modCore k f).core j = s.core j := State.core_setCore_of_ne s _ h

@[simp] theorem Core.ctx_modCtx_self (co : Core) (c : Fin 4) (f : Context → Context) :
    (co.modCtx c f).ctx c = f (co.ctx c) := by
  exact Vector.getElem_set_self c.isLt

theorem Core.ctx_modCtx_of_ne (co : Core) {d c : Fin 4} (f : Context → Context) (h : d ≠ c) :
    (co.modCtx c f).ctx d = co.ctx d := by
  have h2 : c.val ≠ d.val := fun e => h (Fin.ext e.symm)
  exact Vector.getElem_set_ne c.isLt d.isLt h2

@[simp] theorem State.ctx_modCtx_self (s : State) (k : Fin 64) (c : Fin 4) (f : Context → Context) :
    (s.modCtx k c f).ctx k c = f (s.ctx k c) := by
  simp [State.ctx, State.modCtx]

theorem State.ctx_modCtx_of_ne (s : State) {j k : Fin 64} {d c : Fin 4} (f : Context → Context)
    (h : j ≠ k ∨ d ≠ c) : (s.modCtx k c f).ctx j d = s.ctx j d := by
  unfold State.ctx State.modCtx
  by_cases hj : j = k
  · subst hj
    rw [State.core_modCore_self]
    exact Core.ctx_modCtx_of_ne _ f (h.resolve_left (fun e => e rfl))
  · rw [State.core_modCore_of_ne s _ hj]

@[simp] theorem State.me_modMe (s : State) (f : Context → Context) : (s.modMe f).me = f s.me :=
  State.ctx_modCtx_self s s.cur.core s.cur.ctx f

@[simp] theorem State.myCore_modMyCore (s : State) (f : Core → Core) : (s.modMyCore f).myCore = f s.myCore :=
  State.core_modCore_self s s.cur.core f


/-! ### `State.setCore` -/

@[simp] theorem State.setCore_sclk (s : State) (k : Fin 64) (c : Core) : (s.setCore k c).sclk = s.sclk := rfl
@[simp] theorem State.setCore_ringTime (s : State) (k : Fin 64) (c : Core) :
    (s.setCore k c).ringTime = s.ringTime := rfl
@[simp] theorem State.setCore_stage (s : State) (k : Fin 64) (c : Core) : (s.setCore k c).stage = s.stage := rfl
@[simp] theorem State.setCore_rank (s : State) (k : Fin 64) (c : Core) : (s.setCore k c).rank = s.rank := rfl
@[simp] theorem State.setCore_mem (s : State) (k : Fin 64) (c : Core) : (s.setCore k c).mem = s.mem := rfl
@[simp] theorem State.setCore_poison (s : State) (k : Fin 64) (c : Core) : (s.setCore k c).poison = s.poison := rfl
@[simp] theorem State.setCore_regs (s : State) (k : Fin 64) (c : Core) : (s.setCore k c).regs = s.regs := rfl
@[simp] theorem State.setCore_barriers (s : State) (k : Fin 64) (c : Core) :
    (s.setCore k c).barriers = s.barriers := rfl
@[simp] theorem State.setCore_barq (s : State) (k : Fin 64) (c : Core) : (s.setCore k c).barq = s.barq := rfl
@[simp] theorem State.setCore_queues (s : State) (k : Fin 64) (c : Core) : (s.setCore k c).queues = s.queues := rfl
@[simp] theorem State.setCore_launches (s : State) (k : Fin 64) (c : Core) :
    (s.setCore k c).launches = s.launches := rfl
@[simp] theorem State.setCore_tasks (s : State) (k : Fin 64) (c : Core) : (s.setCore k c).tasks = s.tasks := rfl
@[simp] theorem State.setCore_preempts (s : State) (k : Fin 64) (c : Core) :
    (s.setCore k c).preempts = s.preempts := rfl
@[simp] theorem State.setCore_estimates (s : State) (k : Fin 64) (c : Core) :
    (s.setCore k c).estimates = s.estimates := rfl
@[simp] theorem State.setCore_lastTaken (s : State) (k : Fin 64) (c : Core) :
    (s.setCore k c).lastTaken = s.lastTaken := rfl
@[simp] theorem State.setCore_slotTables (s : State) (k : Fin 64) (c : Core) :
    (s.setCore k c).slotTables = s.slotTables := rfl
@[simp] theorem State.setCore_messages (s : State) (k : Fin 64) (c : Core) :
    (s.setCore k c).messages = s.messages := rfl
@[simp] theorem State.setCore_notices (s : State) (k : Fin 64) (c : Core) :
    (s.setCore k c).notices = s.notices := rfl
@[simp] theorem State.setCore_pageCounts (s : State) (k : Fin 64) (c : Core) :
    (s.setCore k c).pageCounts = s.pageCounts := rfl
@[simp] theorem State.setCore_blocks (s : State) (k : Fin 64) (c : Core) : (s.setCore k c).blocks = s.blocks := rfl
@[simp] theorem State.setCore_chunks (s : State) (k : Fin 64) (c : Core) : (s.setCore k c).chunks = s.chunks := rfl
@[simp] theorem State.setCore_waitingWrites (s : State) (k : Fin 64) (c : Core) :
    (s.setCore k c).waitingWrites = s.waitingWrites := rfl
@[simp] theorem State.setCore_packed (s : State) (k : Fin 64) (c : Core) : (s.setCore k c).packed = s.packed := rfl
@[simp] theorem State.setCore_evicting (s : State) (k : Fin 64) (c : Core) :
    (s.setCore k c).evicting = s.evicting := rfl
@[simp] theorem State.setCore_log (s : State) (k : Fin 64) (c : Core) : (s.setCore k c).log = s.log := rfl
@[simp] theorem State.setCore_past (s : State) (k : Fin 64) (c : Core) : (s.setCore k c).past = s.past := rfl
@[simp] theorem State.setCore_fbind (s : State) (k : Fin 64) (c : Core) : (s.setCore k c).fbind = s.fbind := rfl
@[simp] theorem State.setCore_fifoq (s : State) (k : Fin 64) (c : Core) : (s.setCore k c).fifoq = s.fifoq := rfl
@[simp] theorem State.setCore_claims (s : State) (k : Fin 64) (c : Core) : (s.setCore k c).claims = s.claims := rfl
@[simp] theorem State.setCore_plane (s : State) (k : Fin 64) (c : Core) : (s.setCore k c).plane = s.plane := rfl
@[simp] theorem State.setCore_late (s : State) (k : Fin 64) (c : Core) : (s.setCore k c).late = s.late := rfl
@[simp] theorem State.setCore_wsels (s : State) (k : Fin 64) (c : Core) : (s.setCore k c).wsels = s.wsels := rfl
@[simp] theorem State.setCore_replies (s : State) (k : Fin 64) (c : Core) :
    (s.setCore k c).replies = s.replies := rfl
@[simp] theorem State.setCore_buffered (s : State) (k : Fin 64) (c : Core) :
    (s.setCore k c).buffered = s.buffered := rfl
@[simp] theorem State.setCore_circling (s : State) (k : Fin 64) (c : Core) :
    (s.setCore k c).circling = s.circling := rfl
@[simp] theorem State.setCore_lostRanks (s : State) (k : Fin 64) (c : Core) :
    (s.setCore k c).lostRanks = s.lostRanks := rfl
@[simp] theorem State.setCore_heard (s : State) (k : Fin 64) (c : Core) : (s.setCore k c).heard = s.heard := rfl
@[simp] theorem State.setCore_beats (s : State) (k : Fin 64) (c : Core) : (s.setCore k c).beats = s.beats := rfl
@[simp] theorem State.setCore_expected (s : State) (k : Fin 64) (c : Core) :
    (s.setCore k c).expected = s.expected := rfl
@[simp] theorem State.setCore_rounds (s : State) (k : Fin 64) (c : Core) : (s.setCore k c).rounds = s.rounds := rfl
@[simp] theorem State.setCore_links (s : State) (k : Fin 64) (c : Core) : (s.setCore k c).links = s.links := rfl
@[simp] theorem State.setCore_service (s : State) (k : Fin 64) (c : Core) :
    (s.setCore k c).service = s.service := rfl
@[simp] theorem State.setCore_machineChecks (s : State) (k : Fin 64) (c : Core) :
    (s.setCore k c).machineChecks = s.machineChecks := rfl
@[simp] theorem State.setCore_clearing (s : State) (k : Fin 64) (c : Core) :
    (s.setCore k c).clearing = s.clearing := rfl
@[simp] theorem State.setCore_digests (s : State) (k : Fin 64) (c : Core) :
    (s.setCore k c).digests = s.digests := rfl
@[simp] theorem State.setCore_outputs (s : State) (k : Fin 64) (c : Core) :
    (s.setCore k c).outputs = s.outputs := rfl
@[simp] theorem State.setCore_agenda (s : State) (k : Fin 64) (c : Core) : (s.setCore k c).agenda = s.agenda := rfl
@[simp] theorem State.setCore_phase (s : State) (k : Fin 64) (c : Core) : (s.setCore k c).phase = s.phase := rfl
@[simp] theorem State.setCore_cur (s : State) (k : Fin 64) (c : Core) : (s.setCore k c).cur = s.cur := rfl
@[simp] theorem State.setCore_draw (s : State) (k : Fin 64) (c : Core) : (s.setCore k c).draw = s.draw := rfl
@[simp] theorem State.setCore_nextId (s : State) (k : Fin 64) (c : Core) : (s.setCore k c).nextId = s.nextId := rfl

/-! ### `State.modCore` -/

@[simp] theorem State.modCore_sclk (s : State) (k : Fin 64) (f : Core → Core) : (s.modCore k f).sclk = s.sclk := rfl
@[simp] theorem State.modCore_ringTime (s : State) (k : Fin 64) (f : Core → Core) :
    (s.modCore k f).ringTime = s.ringTime := rfl
@[simp] theorem State.modCore_stage (s : State) (k : Fin 64) (f : Core → Core) :
    (s.modCore k f).stage = s.stage := rfl
@[simp] theorem State.modCore_rank (s : State) (k : Fin 64) (f : Core → Core) : (s.modCore k f).rank = s.rank := rfl
@[simp] theorem State.modCore_mem (s : State) (k : Fin 64) (f : Core → Core) : (s.modCore k f).mem = s.mem := rfl
@[simp] theorem State.modCore_poison (s : State) (k : Fin 64) (f : Core → Core) :
    (s.modCore k f).poison = s.poison := rfl
@[simp] theorem State.modCore_regs (s : State) (k : Fin 64) (f : Core → Core) : (s.modCore k f).regs = s.regs := rfl
@[simp] theorem State.modCore_barriers (s : State) (k : Fin 64) (f : Core → Core) :
    (s.modCore k f).barriers = s.barriers := rfl
@[simp] theorem State.modCore_barq (s : State) (k : Fin 64) (f : Core → Core) : (s.modCore k f).barq = s.barq := rfl
@[simp] theorem State.modCore_queues (s : State) (k : Fin 64) (f : Core → Core) :
    (s.modCore k f).queues = s.queues := rfl
@[simp] theorem State.modCore_launches (s : State) (k : Fin 64) (f : Core → Core) :
    (s.modCore k f).launches = s.launches := rfl
@[simp] theorem State.modCore_tasks (s : State) (k : Fin 64) (f : Core → Core) :
    (s.modCore k f).tasks = s.tasks := rfl
@[simp] theorem State.modCore_preempts (s : State) (k : Fin 64) (f : Core → Core) :
    (s.modCore k f).preempts = s.preempts := rfl
@[simp] theorem State.modCore_estimates (s : State) (k : Fin 64) (f : Core → Core) :
    (s.modCore k f).estimates = s.estimates := rfl
@[simp] theorem State.modCore_lastTaken (s : State) (k : Fin 64) (f : Core → Core) :
    (s.modCore k f).lastTaken = s.lastTaken := rfl
@[simp] theorem State.modCore_slotTables (s : State) (k : Fin 64) (f : Core → Core) :
    (s.modCore k f).slotTables = s.slotTables := rfl
@[simp] theorem State.modCore_messages (s : State) (k : Fin 64) (f : Core → Core) :
    (s.modCore k f).messages = s.messages := rfl
@[simp] theorem State.modCore_notices (s : State) (k : Fin 64) (f : Core → Core) :
    (s.modCore k f).notices = s.notices := rfl
@[simp] theorem State.modCore_pageCounts (s : State) (k : Fin 64) (f : Core → Core) :
    (s.modCore k f).pageCounts = s.pageCounts := rfl
@[simp] theorem State.modCore_blocks (s : State) (k : Fin 64) (f : Core → Core) :
    (s.modCore k f).blocks = s.blocks := rfl
@[simp] theorem State.modCore_chunks (s : State) (k : Fin 64) (f : Core → Core) :
    (s.modCore k f).chunks = s.chunks := rfl
@[simp] theorem State.modCore_waitingWrites (s : State) (k : Fin 64) (f : Core → Core) :
    (s.modCore k f).waitingWrites = s.waitingWrites := rfl
@[simp] theorem State.modCore_packed (s : State) (k : Fin 64) (f : Core → Core) :
    (s.modCore k f).packed = s.packed := rfl
@[simp] theorem State.modCore_evicting (s : State) (k : Fin 64) (f : Core → Core) :
    (s.modCore k f).evicting = s.evicting := rfl
@[simp] theorem State.modCore_log (s : State) (k : Fin 64) (f : Core → Core) : (s.modCore k f).log = s.log := rfl
@[simp] theorem State.modCore_past (s : State) (k : Fin 64) (f : Core → Core) : (s.modCore k f).past = s.past := rfl
@[simp] theorem State.modCore_fbind (s : State) (k : Fin 64) (f : Core → Core) :
    (s.modCore k f).fbind = s.fbind := rfl
@[simp] theorem State.modCore_fifoq (s : State) (k : Fin 64) (f : Core → Core) :
    (s.modCore k f).fifoq = s.fifoq := rfl
@[simp] theorem State.modCore_claims (s : State) (k : Fin 64) (f : Core → Core) :
    (s.modCore k f).claims = s.claims := rfl
@[simp] theorem State.modCore_plane (s : State) (k : Fin 64) (f : Core → Core) :
    (s.modCore k f).plane = s.plane := rfl
@[simp] theorem State.modCore_late (s : State) (k : Fin 64) (f : Core → Core) : (s.modCore k f).late = s.late := rfl
@[simp] theorem State.modCore_wsels (s : State) (k : Fin 64) (f : Core → Core) :
    (s.modCore k f).wsels = s.wsels := rfl
@[simp] theorem State.modCore_replies (s : State) (k : Fin 64) (f : Core → Core) :
    (s.modCore k f).replies = s.replies := rfl
@[simp] theorem State.modCore_buffered (s : State) (k : Fin 64) (f : Core → Core) :
    (s.modCore k f).buffered = s.buffered := rfl
@[simp] theorem State.modCore_circling (s : State) (k : Fin 64) (f : Core → Core) :
    (s.modCore k f).circling = s.circling := rfl
@[simp] theorem State.modCore_lostRanks (s : State) (k : Fin 64) (f : Core → Core) :
    (s.modCore k f).lostRanks = s.lostRanks := rfl
@[simp] theorem State.modCore_heard (s : State) (k : Fin 64) (f : Core → Core) :
    (s.modCore k f).heard = s.heard := rfl
@[simp] theorem State.modCore_beats (s : State) (k : Fin 64) (f : Core → Core) :
    (s.modCore k f).beats = s.beats := rfl
@[simp] theorem State.modCore_expected (s : State) (k : Fin 64) (f : Core → Core) :
    (s.modCore k f).expected = s.expected := rfl
@[simp] theorem State.modCore_rounds (s : State) (k : Fin 64) (f : Core → Core) :
    (s.modCore k f).rounds = s.rounds := rfl
@[simp] theorem State.modCore_links (s : State) (k : Fin 64) (f : Core → Core) :
    (s.modCore k f).links = s.links := rfl
@[simp] theorem State.modCore_service (s : State) (k : Fin 64) (f : Core → Core) :
    (s.modCore k f).service = s.service := rfl
@[simp] theorem State.modCore_machineChecks (s : State) (k : Fin 64) (f : Core → Core) :
    (s.modCore k f).machineChecks = s.machineChecks := rfl
@[simp] theorem State.modCore_clearing (s : State) (k : Fin 64) (f : Core → Core) :
    (s.modCore k f).clearing = s.clearing := rfl
@[simp] theorem State.modCore_digests (s : State) (k : Fin 64) (f : Core → Core) :
    (s.modCore k f).digests = s.digests := rfl
@[simp] theorem State.modCore_outputs (s : State) (k : Fin 64) (f : Core → Core) :
    (s.modCore k f).outputs = s.outputs := rfl
@[simp] theorem State.modCore_agenda (s : State) (k : Fin 64) (f : Core → Core) :
    (s.modCore k f).agenda = s.agenda := rfl
@[simp] theorem State.modCore_phase (s : State) (k : Fin 64) (f : Core → Core) :
    (s.modCore k f).phase = s.phase := rfl
@[simp] theorem State.modCore_cur (s : State) (k : Fin 64) (f : Core → Core) : (s.modCore k f).cur = s.cur := rfl
@[simp] theorem State.modCore_draw (s : State) (k : Fin 64) (f : Core → Core) : (s.modCore k f).draw = s.draw := rfl
@[simp] theorem State.modCore_nextId (s : State) (k : Fin 64) (f : Core → Core) :
    (s.modCore k f).nextId = s.nextId := rfl

/-! ### `State.modCtx` -/

@[simp] theorem State.modCtx_sclk (s : State) (k : Fin 64) (c : Fin 4) (f : Context → Context) :
    (s.modCtx k c f).sclk = s.sclk := rfl
@[simp] theorem State.modCtx_ringTime (s : State) (k : Fin 64) (c : Fin 4) (f : Context → Context) :
    (s.modCtx k c f).ringTime = s.ringTime := rfl
@[simp] theorem State.modCtx_stage (s : State) (k : Fin 64) (c : Fin 4) (f : Context → Context) :
    (s.modCtx k c f).stage = s.stage := rfl
@[simp] theorem State.modCtx_rank (s : State) (k : Fin 64) (c : Fin 4) (f : Context → Context) :
    (s.modCtx k c f).rank = s.rank := rfl
@[simp] theorem State.modCtx_mem (s : State) (k : Fin 64) (c : Fin 4) (f : Context → Context) :
    (s.modCtx k c f).mem = s.mem := rfl
@[simp] theorem State.modCtx_poison (s : State) (k : Fin 64) (c : Fin 4) (f : Context → Context) :
    (s.modCtx k c f).poison = s.poison := rfl
@[simp] theorem State.modCtx_regs (s : State) (k : Fin 64) (c : Fin 4) (f : Context → Context) :
    (s.modCtx k c f).regs = s.regs := rfl
@[simp] theorem State.modCtx_barriers (s : State) (k : Fin 64) (c : Fin 4) (f : Context → Context) :
    (s.modCtx k c f).barriers = s.barriers := rfl
@[simp] theorem State.modCtx_barq (s : State) (k : Fin 64) (c : Fin 4) (f : Context → Context) :
    (s.modCtx k c f).barq = s.barq := rfl
@[simp] theorem State.modCtx_queues (s : State) (k : Fin 64) (c : Fin 4) (f : Context → Context) :
    (s.modCtx k c f).queues = s.queues := rfl
@[simp] theorem State.modCtx_launches (s : State) (k : Fin 64) (c : Fin 4) (f : Context → Context) :
    (s.modCtx k c f).launches = s.launches := rfl
@[simp] theorem State.modCtx_tasks (s : State) (k : Fin 64) (c : Fin 4) (f : Context → Context) :
    (s.modCtx k c f).tasks = s.tasks := rfl
@[simp] theorem State.modCtx_preempts (s : State) (k : Fin 64) (c : Fin 4) (f : Context → Context) :
    (s.modCtx k c f).preempts = s.preempts := rfl
@[simp] theorem State.modCtx_estimates (s : State) (k : Fin 64) (c : Fin 4) (f : Context → Context) :
    (s.modCtx k c f).estimates = s.estimates := rfl
@[simp] theorem State.modCtx_lastTaken (s : State) (k : Fin 64) (c : Fin 4) (f : Context → Context) :
    (s.modCtx k c f).lastTaken = s.lastTaken := rfl
@[simp] theorem State.modCtx_slotTables (s : State) (k : Fin 64) (c : Fin 4) (f : Context → Context) :
    (s.modCtx k c f).slotTables = s.slotTables := rfl
@[simp] theorem State.modCtx_messages (s : State) (k : Fin 64) (c : Fin 4) (f : Context → Context) :
    (s.modCtx k c f).messages = s.messages := rfl
@[simp] theorem State.modCtx_notices (s : State) (k : Fin 64) (c : Fin 4) (f : Context → Context) :
    (s.modCtx k c f).notices = s.notices := rfl
@[simp] theorem State.modCtx_pageCounts (s : State) (k : Fin 64) (c : Fin 4) (f : Context → Context) :
    (s.modCtx k c f).pageCounts = s.pageCounts := rfl
@[simp] theorem State.modCtx_blocks (s : State) (k : Fin 64) (c : Fin 4) (f : Context → Context) :
    (s.modCtx k c f).blocks = s.blocks := rfl
@[simp] theorem State.modCtx_chunks (s : State) (k : Fin 64) (c : Fin 4) (f : Context → Context) :
    (s.modCtx k c f).chunks = s.chunks := rfl
@[simp] theorem State.modCtx_waitingWrites (s : State) (k : Fin 64) (c : Fin 4) (f : Context → Context) :
    (s.modCtx k c f).waitingWrites = s.waitingWrites := rfl
@[simp] theorem State.modCtx_packed (s : State) (k : Fin 64) (c : Fin 4) (f : Context → Context) :
    (s.modCtx k c f).packed = s.packed := rfl
@[simp] theorem State.modCtx_evicting (s : State) (k : Fin 64) (c : Fin 4) (f : Context → Context) :
    (s.modCtx k c f).evicting = s.evicting := rfl
@[simp] theorem State.modCtx_log (s : State) (k : Fin 64) (c : Fin 4) (f : Context → Context) :
    (s.modCtx k c f).log = s.log := rfl
@[simp] theorem State.modCtx_past (s : State) (k : Fin 64) (c : Fin 4) (f : Context → Context) :
    (s.modCtx k c f).past = s.past := rfl
@[simp] theorem State.modCtx_fbind (s : State) (k : Fin 64) (c : Fin 4) (f : Context → Context) :
    (s.modCtx k c f).fbind = s.fbind := rfl
@[simp] theorem State.modCtx_fifoq (s : State) (k : Fin 64) (c : Fin 4) (f : Context → Context) :
    (s.modCtx k c f).fifoq = s.fifoq := rfl
@[simp] theorem State.modCtx_claims (s : State) (k : Fin 64) (c : Fin 4) (f : Context → Context) :
    (s.modCtx k c f).claims = s.claims := rfl
@[simp] theorem State.modCtx_plane (s : State) (k : Fin 64) (c : Fin 4) (f : Context → Context) :
    (s.modCtx k c f).plane = s.plane := rfl
@[simp] theorem State.modCtx_late (s : State) (k : Fin 64) (c : Fin 4) (f : Context → Context) :
    (s.modCtx k c f).late = s.late := rfl
@[simp] theorem State.modCtx_wsels (s : State) (k : Fin 64) (c : Fin 4) (f : Context → Context) :
    (s.modCtx k c f).wsels = s.wsels := rfl
@[simp] theorem State.modCtx_replies (s : State) (k : Fin 64) (c : Fin 4) (f : Context → Context) :
    (s.modCtx k c f).replies = s.replies := rfl
@[simp] theorem State.modCtx_buffered (s : State) (k : Fin 64) (c : Fin 4) (f : Context → Context) :
    (s.modCtx k c f).buffered = s.buffered := rfl
@[simp] theorem State.modCtx_circling (s : State) (k : Fin 64) (c : Fin 4) (f : Context → Context) :
    (s.modCtx k c f).circling = s.circling := rfl
@[simp] theorem State.modCtx_lostRanks (s : State) (k : Fin 64) (c : Fin 4) (f : Context → Context) :
    (s.modCtx k c f).lostRanks = s.lostRanks := rfl
@[simp] theorem State.modCtx_heard (s : State) (k : Fin 64) (c : Fin 4) (f : Context → Context) :
    (s.modCtx k c f).heard = s.heard := rfl
@[simp] theorem State.modCtx_beats (s : State) (k : Fin 64) (c : Fin 4) (f : Context → Context) :
    (s.modCtx k c f).beats = s.beats := rfl
@[simp] theorem State.modCtx_expected (s : State) (k : Fin 64) (c : Fin 4) (f : Context → Context) :
    (s.modCtx k c f).expected = s.expected := rfl
@[simp] theorem State.modCtx_rounds (s : State) (k : Fin 64) (c : Fin 4) (f : Context → Context) :
    (s.modCtx k c f).rounds = s.rounds := rfl
@[simp] theorem State.modCtx_links (s : State) (k : Fin 64) (c : Fin 4) (f : Context → Context) :
    (s.modCtx k c f).links = s.links := rfl
@[simp] theorem State.modCtx_service (s : State) (k : Fin 64) (c : Fin 4) (f : Context → Context) :
    (s.modCtx k c f).service = s.service := rfl
@[simp] theorem State.modCtx_machineChecks (s : State) (k : Fin 64) (c : Fin 4) (f : Context → Context) :
    (s.modCtx k c f).machineChecks = s.machineChecks := rfl
@[simp] theorem State.modCtx_clearing (s : State) (k : Fin 64) (c : Fin 4) (f : Context → Context) :
    (s.modCtx k c f).clearing = s.clearing := rfl
@[simp] theorem State.modCtx_digests (s : State) (k : Fin 64) (c : Fin 4) (f : Context → Context) :
    (s.modCtx k c f).digests = s.digests := rfl
@[simp] theorem State.modCtx_outputs (s : State) (k : Fin 64) (c : Fin 4) (f : Context → Context) :
    (s.modCtx k c f).outputs = s.outputs := rfl
@[simp] theorem State.modCtx_agenda (s : State) (k : Fin 64) (c : Fin 4) (f : Context → Context) :
    (s.modCtx k c f).agenda = s.agenda := rfl
@[simp] theorem State.modCtx_phase (s : State) (k : Fin 64) (c : Fin 4) (f : Context → Context) :
    (s.modCtx k c f).phase = s.phase := rfl
@[simp] theorem State.modCtx_cur (s : State) (k : Fin 64) (c : Fin 4) (f : Context → Context) :
    (s.modCtx k c f).cur = s.cur := rfl
@[simp] theorem State.modCtx_draw (s : State) (k : Fin 64) (c : Fin 4) (f : Context → Context) :
    (s.modCtx k c f).draw = s.draw := rfl
@[simp] theorem State.modCtx_nextId (s : State) (k : Fin 64) (c : Fin 4) (f : Context → Context) :
    (s.modCtx k c f).nextId = s.nextId := rfl

/-! ### `State.modMe` -/

@[simp] theorem State.modMe_sclk (s : State) (f : Context → Context) : (s.modMe f).sclk = s.sclk := rfl
@[simp] theorem State.modMe_ringTime (s : State) (f : Context → Context) : (s.modMe f).ringTime = s.ringTime := rfl
@[simp] theorem State.modMe_stage (s : State) (f : Context → Context) : (s.modMe f).stage = s.stage := rfl
@[simp] theorem State.modMe_rank (s : State) (f : Context → Context) : (s.modMe f).rank = s.rank := rfl
@[simp] theorem State.modMe_mem (s : State) (f : Context → Context) : (s.modMe f).mem = s.mem := rfl
@[simp] theorem State.modMe_poison (s : State) (f : Context → Context) : (s.modMe f).poison = s.poison := rfl
@[simp] theorem State.modMe_regs (s : State) (f : Context → Context) : (s.modMe f).regs = s.regs := rfl
@[simp] theorem State.modMe_barriers (s : State) (f : Context → Context) : (s.modMe f).barriers = s.barriers := rfl
@[simp] theorem State.modMe_barq (s : State) (f : Context → Context) : (s.modMe f).barq = s.barq := rfl
@[simp] theorem State.modMe_queues (s : State) (f : Context → Context) : (s.modMe f).queues = s.queues := rfl
@[simp] theorem State.modMe_launches (s : State) (f : Context → Context) : (s.modMe f).launches = s.launches := rfl
@[simp] theorem State.modMe_tasks (s : State) (f : Context → Context) : (s.modMe f).tasks = s.tasks := rfl
@[simp] theorem State.modMe_preempts (s : State) (f : Context → Context) : (s.modMe f).preempts = s.preempts := rfl
@[simp] theorem State.modMe_estimates (s : State) (f : Context → Context) :
    (s.modMe f).estimates = s.estimates := rfl
@[simp] theorem State.modMe_lastTaken (s : State) (f : Context → Context) :
    (s.modMe f).lastTaken = s.lastTaken := rfl
@[simp] theorem State.modMe_slotTables (s : State) (f : Context → Context) :
    (s.modMe f).slotTables = s.slotTables := rfl
@[simp] theorem State.modMe_messages (s : State) (f : Context → Context) : (s.modMe f).messages = s.messages := rfl
@[simp] theorem State.modMe_notices (s : State) (f : Context → Context) : (s.modMe f).notices = s.notices := rfl
@[simp] theorem State.modMe_pageCounts (s : State) (f : Context → Context) :
    (s.modMe f).pageCounts = s.pageCounts := rfl
@[simp] theorem State.modMe_blocks (s : State) (f : Context → Context) : (s.modMe f).blocks = s.blocks := rfl
@[simp] theorem State.modMe_chunks (s : State) (f : Context → Context) : (s.modMe f).chunks = s.chunks := rfl
@[simp] theorem State.modMe_waitingWrites (s : State) (f : Context → Context) :
    (s.modMe f).waitingWrites = s.waitingWrites := rfl
@[simp] theorem State.modMe_packed (s : State) (f : Context → Context) : (s.modMe f).packed = s.packed := rfl
@[simp] theorem State.modMe_evicting (s : State) (f : Context → Context) : (s.modMe f).evicting = s.evicting := rfl
@[simp] theorem State.modMe_log (s : State) (f : Context → Context) : (s.modMe f).log = s.log := rfl
@[simp] theorem State.modMe_past (s : State) (f : Context → Context) : (s.modMe f).past = s.past := rfl
@[simp] theorem State.modMe_fbind (s : State) (f : Context → Context) : (s.modMe f).fbind = s.fbind := rfl
@[simp] theorem State.modMe_fifoq (s : State) (f : Context → Context) : (s.modMe f).fifoq = s.fifoq := rfl
@[simp] theorem State.modMe_claims (s : State) (f : Context → Context) : (s.modMe f).claims = s.claims := rfl
@[simp] theorem State.modMe_plane (s : State) (f : Context → Context) : (s.modMe f).plane = s.plane := rfl
@[simp] theorem State.modMe_late (s : State) (f : Context → Context) : (s.modMe f).late = s.late := rfl
@[simp] theorem State.modMe_wsels (s : State) (f : Context → Context) : (s.modMe f).wsels = s.wsels := rfl
@[simp] theorem State.modMe_replies (s : State) (f : Context → Context) : (s.modMe f).replies = s.replies := rfl
@[simp] theorem State.modMe_buffered (s : State) (f : Context → Context) : (s.modMe f).buffered = s.buffered := rfl
@[simp] theorem State.modMe_circling (s : State) (f : Context → Context) : (s.modMe f).circling = s.circling := rfl
@[simp] theorem State.modMe_lostRanks (s : State) (f : Context → Context) :
    (s.modMe f).lostRanks = s.lostRanks := rfl
@[simp] theorem State.modMe_heard (s : State) (f : Context → Context) : (s.modMe f).heard = s.heard := rfl
@[simp] theorem State.modMe_beats (s : State) (f : Context → Context) : (s.modMe f).beats = s.beats := rfl
@[simp] theorem State.modMe_expected (s : State) (f : Context → Context) : (s.modMe f).expected = s.expected := rfl
@[simp] theorem State.modMe_rounds (s : State) (f : Context → Context) : (s.modMe f).rounds = s.rounds := rfl
@[simp] theorem State.modMe_links (s : State) (f : Context → Context) : (s.modMe f).links = s.links := rfl
@[simp] theorem State.modMe_service (s : State) (f : Context → Context) : (s.modMe f).service = s.service := rfl
@[simp] theorem State.modMe_machineChecks (s : State) (f : Context → Context) :
    (s.modMe f).machineChecks = s.machineChecks := rfl
@[simp] theorem State.modMe_clearing (s : State) (f : Context → Context) : (s.modMe f).clearing = s.clearing := rfl
@[simp] theorem State.modMe_digests (s : State) (f : Context → Context) : (s.modMe f).digests = s.digests := rfl
@[simp] theorem State.modMe_outputs (s : State) (f : Context → Context) : (s.modMe f).outputs = s.outputs := rfl
@[simp] theorem State.modMe_agenda (s : State) (f : Context → Context) : (s.modMe f).agenda = s.agenda := rfl
@[simp] theorem State.modMe_phase (s : State) (f : Context → Context) : (s.modMe f).phase = s.phase := rfl
@[simp] theorem State.modMe_cur (s : State) (f : Context → Context) : (s.modMe f).cur = s.cur := rfl
@[simp] theorem State.modMe_draw (s : State) (f : Context → Context) : (s.modMe f).draw = s.draw := rfl
@[simp] theorem State.modMe_nextId (s : State) (f : Context → Context) : (s.modMe f).nextId = s.nextId := rfl

/-! ### `State.modMyCore` -/

@[simp] theorem State.modMyCore_sclk (s : State) (f : Core → Core) : (s.modMyCore f).sclk = s.sclk := rfl
@[simp] theorem State.modMyCore_ringTime (s : State) (f : Core → Core) :
    (s.modMyCore f).ringTime = s.ringTime := rfl
@[simp] theorem State.modMyCore_stage (s : State) (f : Core → Core) : (s.modMyCore f).stage = s.stage := rfl
@[simp] theorem State.modMyCore_rank (s : State) (f : Core → Core) : (s.modMyCore f).rank = s.rank := rfl
@[simp] theorem State.modMyCore_mem (s : State) (f : Core → Core) : (s.modMyCore f).mem = s.mem := rfl
@[simp] theorem State.modMyCore_poison (s : State) (f : Core → Core) : (s.modMyCore f).poison = s.poison := rfl
@[simp] theorem State.modMyCore_regs (s : State) (f : Core → Core) : (s.modMyCore f).regs = s.regs := rfl
@[simp] theorem State.modMyCore_barriers (s : State) (f : Core → Core) :
    (s.modMyCore f).barriers = s.barriers := rfl
@[simp] theorem State.modMyCore_barq (s : State) (f : Core → Core) : (s.modMyCore f).barq = s.barq := rfl
@[simp] theorem State.modMyCore_queues (s : State) (f : Core → Core) : (s.modMyCore f).queues = s.queues := rfl
@[simp] theorem State.modMyCore_launches (s : State) (f : Core → Core) :
    (s.modMyCore f).launches = s.launches := rfl
@[simp] theorem State.modMyCore_tasks (s : State) (f : Core → Core) : (s.modMyCore f).tasks = s.tasks := rfl
@[simp] theorem State.modMyCore_preempts (s : State) (f : Core → Core) :
    (s.modMyCore f).preempts = s.preempts := rfl
@[simp] theorem State.modMyCore_estimates (s : State) (f : Core → Core) :
    (s.modMyCore f).estimates = s.estimates := rfl
@[simp] theorem State.modMyCore_lastTaken (s : State) (f : Core → Core) :
    (s.modMyCore f).lastTaken = s.lastTaken := rfl
@[simp] theorem State.modMyCore_slotTables (s : State) (f : Core → Core) :
    (s.modMyCore f).slotTables = s.slotTables := rfl
@[simp] theorem State.modMyCore_messages (s : State) (f : Core → Core) :
    (s.modMyCore f).messages = s.messages := rfl
@[simp] theorem State.modMyCore_notices (s : State) (f : Core → Core) : (s.modMyCore f).notices = s.notices := rfl
@[simp] theorem State.modMyCore_pageCounts (s : State) (f : Core → Core) :
    (s.modMyCore f).pageCounts = s.pageCounts := rfl
@[simp] theorem State.modMyCore_blocks (s : State) (f : Core → Core) : (s.modMyCore f).blocks = s.blocks := rfl
@[simp] theorem State.modMyCore_chunks (s : State) (f : Core → Core) : (s.modMyCore f).chunks = s.chunks := rfl
@[simp] theorem State.modMyCore_waitingWrites (s : State) (f : Core → Core) :
    (s.modMyCore f).waitingWrites = s.waitingWrites := rfl
@[simp] theorem State.modMyCore_packed (s : State) (f : Core → Core) : (s.modMyCore f).packed = s.packed := rfl
@[simp] theorem State.modMyCore_evicting (s : State) (f : Core → Core) :
    (s.modMyCore f).evicting = s.evicting := rfl
@[simp] theorem State.modMyCore_log (s : State) (f : Core → Core) : (s.modMyCore f).log = s.log := rfl
@[simp] theorem State.modMyCore_past (s : State) (f : Core → Core) : (s.modMyCore f).past = s.past := rfl
@[simp] theorem State.modMyCore_fbind (s : State) (f : Core → Core) : (s.modMyCore f).fbind = s.fbind := rfl
@[simp] theorem State.modMyCore_fifoq (s : State) (f : Core → Core) : (s.modMyCore f).fifoq = s.fifoq := rfl
@[simp] theorem State.modMyCore_claims (s : State) (f : Core → Core) : (s.modMyCore f).claims = s.claims := rfl
@[simp] theorem State.modMyCore_plane (s : State) (f : Core → Core) : (s.modMyCore f).plane = s.plane := rfl
@[simp] theorem State.modMyCore_late (s : State) (f : Core → Core) : (s.modMyCore f).late = s.late := rfl
@[simp] theorem State.modMyCore_wsels (s : State) (f : Core → Core) : (s.modMyCore f).wsels = s.wsels := rfl
@[simp] theorem State.modMyCore_replies (s : State) (f : Core → Core) : (s.modMyCore f).replies = s.replies := rfl
@[simp] theorem State.modMyCore_buffered (s : State) (f : Core → Core) :
    (s.modMyCore f).buffered = s.buffered := rfl
@[simp] theorem State.modMyCore_circling (s : State) (f : Core → Core) :
    (s.modMyCore f).circling = s.circling := rfl
@[simp] theorem State.modMyCore_lostRanks (s : State) (f : Core → Core) :
    (s.modMyCore f).lostRanks = s.lostRanks := rfl
@[simp] theorem State.modMyCore_heard (s : State) (f : Core → Core) : (s.modMyCore f).heard = s.heard := rfl
@[simp] theorem State.modMyCore_beats (s : State) (f : Core → Core) : (s.modMyCore f).beats = s.beats := rfl
@[simp] theorem State.modMyCore_expected (s : State) (f : Core → Core) :
    (s.modMyCore f).expected = s.expected := rfl
@[simp] theorem State.modMyCore_rounds (s : State) (f : Core → Core) : (s.modMyCore f).rounds = s.rounds := rfl
@[simp] theorem State.modMyCore_links (s : State) (f : Core → Core) : (s.modMyCore f).links = s.links := rfl
@[simp] theorem State.modMyCore_service (s : State) (f : Core → Core) : (s.modMyCore f).service = s.service := rfl
@[simp] theorem State.modMyCore_machineChecks (s : State) (f : Core → Core) :
    (s.modMyCore f).machineChecks = s.machineChecks := rfl
@[simp] theorem State.modMyCore_clearing (s : State) (f : Core → Core) :
    (s.modMyCore f).clearing = s.clearing := rfl
@[simp] theorem State.modMyCore_digests (s : State) (f : Core → Core) : (s.modMyCore f).digests = s.digests := rfl
@[simp] theorem State.modMyCore_outputs (s : State) (f : Core → Core) : (s.modMyCore f).outputs = s.outputs := rfl
@[simp] theorem State.modMyCore_agenda (s : State) (f : Core → Core) : (s.modMyCore f).agenda = s.agenda := rfl
@[simp] theorem State.modMyCore_phase (s : State) (f : Core → Core) : (s.modMyCore f).phase = s.phase := rfl
@[simp] theorem State.modMyCore_cur (s : State) (f : Core → Core) : (s.modMyCore f).cur = s.cur := rfl
@[simp] theorem State.modMyCore_draw (s : State) (f : Core → Core) : (s.modMyCore f).draw = s.draw := rfl
@[simp] theorem State.modMyCore_nextId (s : State) (f : Core → Core) : (s.modMyCore f).nextId = s.nextId := rfl

/-! ### `State.put` -/

@[simp] theorem State.put_sclk (s : State) (k : Nat) (bs : List Byte) : (s.put k bs).sclk = s.sclk := rfl
@[simp] theorem State.put_ringTime (s : State) (k : Nat) (bs : List Byte) :
    (s.put k bs).ringTime = s.ringTime := rfl
@[simp] theorem State.put_stage (s : State) (k : Nat) (bs : List Byte) : (s.put k bs).stage = s.stage := rfl
@[simp] theorem State.put_rank (s : State) (k : Nat) (bs : List Byte) : (s.put k bs).rank = s.rank := rfl
@[simp] theorem State.put_poison (s : State) (k : Nat) (bs : List Byte) : (s.put k bs).poison = s.poison := rfl
@[simp] theorem State.put_regs (s : State) (k : Nat) (bs : List Byte) : (s.put k bs).regs = s.regs := rfl
@[simp] theorem State.put_cores (s : State) (k : Nat) (bs : List Byte) : (s.put k bs).cores = s.cores := rfl
@[simp] theorem State.put_barriers (s : State) (k : Nat) (bs : List Byte) :
    (s.put k bs).barriers = s.barriers := rfl
@[simp] theorem State.put_barq (s : State) (k : Nat) (bs : List Byte) : (s.put k bs).barq = s.barq := rfl
@[simp] theorem State.put_queues (s : State) (k : Nat) (bs : List Byte) : (s.put k bs).queues = s.queues := rfl
@[simp] theorem State.put_launches (s : State) (k : Nat) (bs : List Byte) :
    (s.put k bs).launches = s.launches := rfl
@[simp] theorem State.put_tasks (s : State) (k : Nat) (bs : List Byte) : (s.put k bs).tasks = s.tasks := rfl
@[simp] theorem State.put_preempts (s : State) (k : Nat) (bs : List Byte) :
    (s.put k bs).preempts = s.preempts := rfl
@[simp] theorem State.put_estimates (s : State) (k : Nat) (bs : List Byte) :
    (s.put k bs).estimates = s.estimates := rfl
@[simp] theorem State.put_lastTaken (s : State) (k : Nat) (bs : List Byte) :
    (s.put k bs).lastTaken = s.lastTaken := rfl
@[simp] theorem State.put_slotTables (s : State) (k : Nat) (bs : List Byte) :
    (s.put k bs).slotTables = s.slotTables := rfl
@[simp] theorem State.put_messages (s : State) (k : Nat) (bs : List Byte) :
    (s.put k bs).messages = s.messages := rfl
@[simp] theorem State.put_notices (s : State) (k : Nat) (bs : List Byte) : (s.put k bs).notices = s.notices := rfl
@[simp] theorem State.put_pageCounts (s : State) (k : Nat) (bs : List Byte) :
    (s.put k bs).pageCounts = s.pageCounts := rfl
@[simp] theorem State.put_blocks (s : State) (k : Nat) (bs : List Byte) : (s.put k bs).blocks = s.blocks := rfl
@[simp] theorem State.put_chunks (s : State) (k : Nat) (bs : List Byte) : (s.put k bs).chunks = s.chunks := rfl
@[simp] theorem State.put_waitingWrites (s : State) (k : Nat) (bs : List Byte) :
    (s.put k bs).waitingWrites = s.waitingWrites := rfl
@[simp] theorem State.put_packed (s : State) (k : Nat) (bs : List Byte) : (s.put k bs).packed = s.packed := rfl
@[simp] theorem State.put_evicting (s : State) (k : Nat) (bs : List Byte) :
    (s.put k bs).evicting = s.evicting := rfl
@[simp] theorem State.put_log (s : State) (k : Nat) (bs : List Byte) : (s.put k bs).log = s.log := rfl
@[simp] theorem State.put_past (s : State) (k : Nat) (bs : List Byte) : (s.put k bs).past = s.past := rfl
@[simp] theorem State.put_fbind (s : State) (k : Nat) (bs : List Byte) : (s.put k bs).fbind = s.fbind := rfl
@[simp] theorem State.put_fifoq (s : State) (k : Nat) (bs : List Byte) : (s.put k bs).fifoq = s.fifoq := rfl
@[simp] theorem State.put_claims (s : State) (k : Nat) (bs : List Byte) : (s.put k bs).claims = s.claims := rfl
@[simp] theorem State.put_plane (s : State) (k : Nat) (bs : List Byte) : (s.put k bs).plane = s.plane := rfl
@[simp] theorem State.put_late (s : State) (k : Nat) (bs : List Byte) : (s.put k bs).late = s.late := rfl
@[simp] theorem State.put_wsels (s : State) (k : Nat) (bs : List Byte) : (s.put k bs).wsels = s.wsels := rfl
@[simp] theorem State.put_replies (s : State) (k : Nat) (bs : List Byte) : (s.put k bs).replies = s.replies := rfl
@[simp] theorem State.put_buffered (s : State) (k : Nat) (bs : List Byte) :
    (s.put k bs).buffered = s.buffered := rfl
@[simp] theorem State.put_circling (s : State) (k : Nat) (bs : List Byte) :
    (s.put k bs).circling = s.circling := rfl
@[simp] theorem State.put_lostRanks (s : State) (k : Nat) (bs : List Byte) :
    (s.put k bs).lostRanks = s.lostRanks := rfl
@[simp] theorem State.put_heard (s : State) (k : Nat) (bs : List Byte) : (s.put k bs).heard = s.heard := rfl
@[simp] theorem State.put_beats (s : State) (k : Nat) (bs : List Byte) : (s.put k bs).beats = s.beats := rfl
@[simp] theorem State.put_expected (s : State) (k : Nat) (bs : List Byte) :
    (s.put k bs).expected = s.expected := rfl
@[simp] theorem State.put_rounds (s : State) (k : Nat) (bs : List Byte) : (s.put k bs).rounds = s.rounds := rfl
@[simp] theorem State.put_links (s : State) (k : Nat) (bs : List Byte) : (s.put k bs).links = s.links := rfl
@[simp] theorem State.put_service (s : State) (k : Nat) (bs : List Byte) : (s.put k bs).service = s.service := rfl
@[simp] theorem State.put_machineChecks (s : State) (k : Nat) (bs : List Byte) :
    (s.put k bs).machineChecks = s.machineChecks := rfl
@[simp] theorem State.put_clearing (s : State) (k : Nat) (bs : List Byte) :
    (s.put k bs).clearing = s.clearing := rfl
@[simp] theorem State.put_digests (s : State) (k : Nat) (bs : List Byte) : (s.put k bs).digests = s.digests := rfl
@[simp] theorem State.put_outputs (s : State) (k : Nat) (bs : List Byte) : (s.put k bs).outputs = s.outputs := rfl
@[simp] theorem State.put_agenda (s : State) (k : Nat) (bs : List Byte) : (s.put k bs).agenda = s.agenda := rfl
@[simp] theorem State.put_phase (s : State) (k : Nat) (bs : List Byte) : (s.put k bs).phase = s.phase := rfl
@[simp] theorem State.put_cur (s : State) (k : Nat) (bs : List Byte) : (s.put k bs).cur = s.cur := rfl
@[simp] theorem State.put_draw (s : State) (k : Nat) (bs : List Byte) : (s.put k bs).draw = s.draw := rfl
@[simp] theorem State.put_nextId (s : State) (k : Nat) (bs : List Byte) : (s.put k bs).nextId = s.nextId := rfl
@[simp] theorem State.put_core (s : State) (k : Nat) (bs : List Byte) (j : Fin 64) :
    (s.put k bs).core j = s.core j := rfl
@[simp] theorem State.put_ctx (s : State) (k : Nat) (bs : List Byte) (j : Fin 64) (d : Fin 4) :
    (s.put k bs).ctx j d = s.ctx j d := rfl

/-! ### `State.putValue` -/

@[simp] theorem State.putValue_sclk (s : State) (k n v : Nat) : (s.putValue k n v).sclk = s.sclk := rfl
@[simp] theorem State.putValue_ringTime (s : State) (k n v : Nat) : (s.putValue k n v).ringTime = s.ringTime := rfl
@[simp] theorem State.putValue_stage (s : State) (k n v : Nat) : (s.putValue k n v).stage = s.stage := rfl
@[simp] theorem State.putValue_rank (s : State) (k n v : Nat) : (s.putValue k n v).rank = s.rank := rfl
@[simp] theorem State.putValue_poison (s : State) (k n v : Nat) : (s.putValue k n v).poison = s.poison := rfl
@[simp] theorem State.putValue_regs (s : State) (k n v : Nat) : (s.putValue k n v).regs = s.regs := rfl
@[simp] theorem State.putValue_cores (s : State) (k n v : Nat) : (s.putValue k n v).cores = s.cores := rfl
@[simp] theorem State.putValue_barriers (s : State) (k n v : Nat) : (s.putValue k n v).barriers = s.barriers := rfl
@[simp] theorem State.putValue_barq (s : State) (k n v : Nat) : (s.putValue k n v).barq = s.barq := rfl
@[simp] theorem State.putValue_queues (s : State) (k n v : Nat) : (s.putValue k n v).queues = s.queues := rfl
@[simp] theorem State.putValue_launches (s : State) (k n v : Nat) : (s.putValue k n v).launches = s.launches := rfl
@[simp] theorem State.putValue_tasks (s : State) (k n v : Nat) : (s.putValue k n v).tasks = s.tasks := rfl
@[simp] theorem State.putValue_preempts (s : State) (k n v : Nat) : (s.putValue k n v).preempts = s.preempts := rfl
@[simp] theorem State.putValue_estimates (s : State) (k n v : Nat) :
    (s.putValue k n v).estimates = s.estimates := rfl
@[simp] theorem State.putValue_lastTaken (s : State) (k n v : Nat) :
    (s.putValue k n v).lastTaken = s.lastTaken := rfl
@[simp] theorem State.putValue_slotTables (s : State) (k n v : Nat) :
    (s.putValue k n v).slotTables = s.slotTables := rfl
@[simp] theorem State.putValue_messages (s : State) (k n v : Nat) : (s.putValue k n v).messages = s.messages := rfl
@[simp] theorem State.putValue_notices (s : State) (k n v : Nat) : (s.putValue k n v).notices = s.notices := rfl
@[simp] theorem State.putValue_pageCounts (s : State) (k n v : Nat) :
    (s.putValue k n v).pageCounts = s.pageCounts := rfl
@[simp] theorem State.putValue_blocks (s : State) (k n v : Nat) : (s.putValue k n v).blocks = s.blocks := rfl
@[simp] theorem State.putValue_chunks (s : State) (k n v : Nat) : (s.putValue k n v).chunks = s.chunks := rfl
@[simp] theorem State.putValue_waitingWrites (s : State) (k n v : Nat) :
    (s.putValue k n v).waitingWrites = s.waitingWrites := rfl
@[simp] theorem State.putValue_packed (s : State) (k n v : Nat) : (s.putValue k n v).packed = s.packed := rfl
@[simp] theorem State.putValue_evicting (s : State) (k n v : Nat) : (s.putValue k n v).evicting = s.evicting := rfl
@[simp] theorem State.putValue_log (s : State) (k n v : Nat) : (s.putValue k n v).log = s.log := rfl
@[simp] theorem State.putValue_past (s : State) (k n v : Nat) : (s.putValue k n v).past = s.past := rfl
@[simp] theorem State.putValue_fbind (s : State) (k n v : Nat) : (s.putValue k n v).fbind = s.fbind := rfl
@[simp] theorem State.putValue_fifoq (s : State) (k n v : Nat) : (s.putValue k n v).fifoq = s.fifoq := rfl
@[simp] theorem State.putValue_claims (s : State) (k n v : Nat) : (s.putValue k n v).claims = s.claims := rfl
@[simp] theorem State.putValue_plane (s : State) (k n v : Nat) : (s.putValue k n v).plane = s.plane := rfl
@[simp] theorem State.putValue_late (s : State) (k n v : Nat) : (s.putValue k n v).late = s.late := rfl
@[simp] theorem State.putValue_wsels (s : State) (k n v : Nat) : (s.putValue k n v).wsels = s.wsels := rfl
@[simp] theorem State.putValue_replies (s : State) (k n v : Nat) : (s.putValue k n v).replies = s.replies := rfl
@[simp] theorem State.putValue_buffered (s : State) (k n v : Nat) : (s.putValue k n v).buffered = s.buffered := rfl
@[simp] theorem State.putValue_circling (s : State) (k n v : Nat) : (s.putValue k n v).circling = s.circling := rfl
@[simp] theorem State.putValue_lostRanks (s : State) (k n v : Nat) :
    (s.putValue k n v).lostRanks = s.lostRanks := rfl
@[simp] theorem State.putValue_heard (s : State) (k n v : Nat) : (s.putValue k n v).heard = s.heard := rfl
@[simp] theorem State.putValue_beats (s : State) (k n v : Nat) : (s.putValue k n v).beats = s.beats := rfl
@[simp] theorem State.putValue_expected (s : State) (k n v : Nat) : (s.putValue k n v).expected = s.expected := rfl
@[simp] theorem State.putValue_rounds (s : State) (k n v : Nat) : (s.putValue k n v).rounds = s.rounds := rfl
@[simp] theorem State.putValue_links (s : State) (k n v : Nat) : (s.putValue k n v).links = s.links := rfl
@[simp] theorem State.putValue_service (s : State) (k n v : Nat) : (s.putValue k n v).service = s.service := rfl
@[simp] theorem State.putValue_machineChecks (s : State) (k n v : Nat) :
    (s.putValue k n v).machineChecks = s.machineChecks := rfl
@[simp] theorem State.putValue_clearing (s : State) (k n v : Nat) : (s.putValue k n v).clearing = s.clearing := rfl
@[simp] theorem State.putValue_digests (s : State) (k n v : Nat) : (s.putValue k n v).digests = s.digests := rfl
@[simp] theorem State.putValue_outputs (s : State) (k n v : Nat) : (s.putValue k n v).outputs = s.outputs := rfl
@[simp] theorem State.putValue_agenda (s : State) (k n v : Nat) : (s.putValue k n v).agenda = s.agenda := rfl
@[simp] theorem State.putValue_phase (s : State) (k n v : Nat) : (s.putValue k n v).phase = s.phase := rfl
@[simp] theorem State.putValue_cur (s : State) (k n v : Nat) : (s.putValue k n v).cur = s.cur := rfl
@[simp] theorem State.putValue_draw (s : State) (k n v : Nat) : (s.putValue k n v).draw = s.draw := rfl
@[simp] theorem State.putValue_nextId (s : State) (k n v : Nat) : (s.putValue k n v).nextId = s.nextId := rfl
@[simp] theorem State.putValue_core (s : State) (k n v : Nat) (j : Fin 64) :
    (s.putValue k n v).core j = s.core j := rfl
@[simp] theorem State.putValue_ctx (s : State) (k n v : Nat) (j : Fin 64) (d : Fin 4) :
    (s.putValue k n v).ctx j d = s.ctx j d := rfl

/-! ### `State.emit` -/

@[simp] theorem State.emit_sclk (s : State) (o : Output) : (s.emit o).sclk = s.sclk := rfl
@[simp] theorem State.emit_ringTime (s : State) (o : Output) : (s.emit o).ringTime = s.ringTime := rfl
@[simp] theorem State.emit_stage (s : State) (o : Output) : (s.emit o).stage = s.stage := rfl
@[simp] theorem State.emit_rank (s : State) (o : Output) : (s.emit o).rank = s.rank := rfl
@[simp] theorem State.emit_mem (s : State) (o : Output) : (s.emit o).mem = s.mem := rfl
@[simp] theorem State.emit_poison (s : State) (o : Output) : (s.emit o).poison = s.poison := rfl
@[simp] theorem State.emit_regs (s : State) (o : Output) : (s.emit o).regs = s.regs := rfl
@[simp] theorem State.emit_cores (s : State) (o : Output) : (s.emit o).cores = s.cores := rfl
@[simp] theorem State.emit_barriers (s : State) (o : Output) : (s.emit o).barriers = s.barriers := rfl
@[simp] theorem State.emit_barq (s : State) (o : Output) : (s.emit o).barq = s.barq := rfl
@[simp] theorem State.emit_queues (s : State) (o : Output) : (s.emit o).queues = s.queues := rfl
@[simp] theorem State.emit_launches (s : State) (o : Output) : (s.emit o).launches = s.launches := rfl
@[simp] theorem State.emit_tasks (s : State) (o : Output) : (s.emit o).tasks = s.tasks := rfl
@[simp] theorem State.emit_preempts (s : State) (o : Output) : (s.emit o).preempts = s.preempts := rfl
@[simp] theorem State.emit_estimates (s : State) (o : Output) : (s.emit o).estimates = s.estimates := rfl
@[simp] theorem State.emit_lastTaken (s : State) (o : Output) : (s.emit o).lastTaken = s.lastTaken := rfl
@[simp] theorem State.emit_slotTables (s : State) (o : Output) : (s.emit o).slotTables = s.slotTables := rfl
@[simp] theorem State.emit_messages (s : State) (o : Output) : (s.emit o).messages = s.messages := rfl
@[simp] theorem State.emit_notices (s : State) (o : Output) : (s.emit o).notices = s.notices := rfl
@[simp] theorem State.emit_pageCounts (s : State) (o : Output) : (s.emit o).pageCounts = s.pageCounts := rfl
@[simp] theorem State.emit_blocks (s : State) (o : Output) : (s.emit o).blocks = s.blocks := rfl
@[simp] theorem State.emit_chunks (s : State) (o : Output) : (s.emit o).chunks = s.chunks := rfl
@[simp] theorem State.emit_waitingWrites (s : State) (o : Output) :
    (s.emit o).waitingWrites = s.waitingWrites := rfl
@[simp] theorem State.emit_packed (s : State) (o : Output) : (s.emit o).packed = s.packed := rfl
@[simp] theorem State.emit_evicting (s : State) (o : Output) : (s.emit o).evicting = s.evicting := rfl
@[simp] theorem State.emit_log (s : State) (o : Output) : (s.emit o).log = s.log := rfl
@[simp] theorem State.emit_past (s : State) (o : Output) : (s.emit o).past = s.past := rfl
@[simp] theorem State.emit_fbind (s : State) (o : Output) : (s.emit o).fbind = s.fbind := rfl
@[simp] theorem State.emit_fifoq (s : State) (o : Output) : (s.emit o).fifoq = s.fifoq := rfl
@[simp] theorem State.emit_claims (s : State) (o : Output) : (s.emit o).claims = s.claims := rfl
@[simp] theorem State.emit_plane (s : State) (o : Output) : (s.emit o).plane = s.plane := rfl
@[simp] theorem State.emit_late (s : State) (o : Output) : (s.emit o).late = s.late := rfl
@[simp] theorem State.emit_wsels (s : State) (o : Output) : (s.emit o).wsels = s.wsels := rfl
@[simp] theorem State.emit_replies (s : State) (o : Output) : (s.emit o).replies = s.replies := rfl
@[simp] theorem State.emit_buffered (s : State) (o : Output) : (s.emit o).buffered = s.buffered := rfl
@[simp] theorem State.emit_circling (s : State) (o : Output) : (s.emit o).circling = s.circling := rfl
@[simp] theorem State.emit_lostRanks (s : State) (o : Output) : (s.emit o).lostRanks = s.lostRanks := rfl
@[simp] theorem State.emit_heard (s : State) (o : Output) : (s.emit o).heard = s.heard := rfl
@[simp] theorem State.emit_beats (s : State) (o : Output) : (s.emit o).beats = s.beats := rfl
@[simp] theorem State.emit_expected (s : State) (o : Output) : (s.emit o).expected = s.expected := rfl
@[simp] theorem State.emit_rounds (s : State) (o : Output) : (s.emit o).rounds = s.rounds := rfl
@[simp] theorem State.emit_links (s : State) (o : Output) : (s.emit o).links = s.links := rfl
@[simp] theorem State.emit_service (s : State) (o : Output) : (s.emit o).service = s.service := rfl
@[simp] theorem State.emit_machineChecks (s : State) (o : Output) :
    (s.emit o).machineChecks = s.machineChecks := rfl
@[simp] theorem State.emit_clearing (s : State) (o : Output) : (s.emit o).clearing = s.clearing := rfl
@[simp] theorem State.emit_digests (s : State) (o : Output) : (s.emit o).digests = s.digests := rfl
@[simp] theorem State.emit_agenda (s : State) (o : Output) : (s.emit o).agenda = s.agenda := rfl
@[simp] theorem State.emit_phase (s : State) (o : Output) : (s.emit o).phase = s.phase := rfl
@[simp] theorem State.emit_cur (s : State) (o : Output) : (s.emit o).cur = s.cur := rfl
@[simp] theorem State.emit_draw (s : State) (o : Output) : (s.emit o).draw = s.draw := rfl
@[simp] theorem State.emit_nextId (s : State) (o : Output) : (s.emit o).nextId = s.nextId := rfl
@[simp] theorem State.emit_core (s : State) (o : Output) (j : Fin 64) : (s.emit o).core j = s.core j := rfl
@[simp] theorem State.emit_ctx (s : State) (o : Output) (j : Fin 64) (d : Fin 4) :
    (s.emit o).ctx j d = s.ctx j d := rfl

/-! ### `State.modRegs` -/

@[simp] theorem State.modRegs_sclk (s : State) (f : HostRegs → HostRegs) : (s.modRegs f).sclk = s.sclk := rfl
@[simp] theorem State.modRegs_ringTime (s : State) (f : HostRegs → HostRegs) :
    (s.modRegs f).ringTime = s.ringTime := rfl
@[simp] theorem State.modRegs_stage (s : State) (f : HostRegs → HostRegs) : (s.modRegs f).stage = s.stage := rfl
@[simp] theorem State.modRegs_rank (s : State) (f : HostRegs → HostRegs) : (s.modRegs f).rank = s.rank := rfl
@[simp] theorem State.modRegs_mem (s : State) (f : HostRegs → HostRegs) : (s.modRegs f).mem = s.mem := rfl
@[simp] theorem State.modRegs_poison (s : State) (f : HostRegs → HostRegs) : (s.modRegs f).poison = s.poison := rfl
@[simp] theorem State.modRegs_cores (s : State) (f : HostRegs → HostRegs) : (s.modRegs f).cores = s.cores := rfl
@[simp] theorem State.modRegs_barriers (s : State) (f : HostRegs → HostRegs) :
    (s.modRegs f).barriers = s.barriers := rfl
@[simp] theorem State.modRegs_barq (s : State) (f : HostRegs → HostRegs) : (s.modRegs f).barq = s.barq := rfl
@[simp] theorem State.modRegs_queues (s : State) (f : HostRegs → HostRegs) : (s.modRegs f).queues = s.queues := rfl
@[simp] theorem State.modRegs_launches (s : State) (f : HostRegs → HostRegs) :
    (s.modRegs f).launches = s.launches := rfl
@[simp] theorem State.modRegs_tasks (s : State) (f : HostRegs → HostRegs) : (s.modRegs f).tasks = s.tasks := rfl
@[simp] theorem State.modRegs_preempts (s : State) (f : HostRegs → HostRegs) :
    (s.modRegs f).preempts = s.preempts := rfl
@[simp] theorem State.modRegs_estimates (s : State) (f : HostRegs → HostRegs) :
    (s.modRegs f).estimates = s.estimates := rfl
@[simp] theorem State.modRegs_lastTaken (s : State) (f : HostRegs → HostRegs) :
    (s.modRegs f).lastTaken = s.lastTaken := rfl
@[simp] theorem State.modRegs_slotTables (s : State) (f : HostRegs → HostRegs) :
    (s.modRegs f).slotTables = s.slotTables := rfl
@[simp] theorem State.modRegs_messages (s : State) (f : HostRegs → HostRegs) :
    (s.modRegs f).messages = s.messages := rfl
@[simp] theorem State.modRegs_notices (s : State) (f : HostRegs → HostRegs) :
    (s.modRegs f).notices = s.notices := rfl
@[simp] theorem State.modRegs_pageCounts (s : State) (f : HostRegs → HostRegs) :
    (s.modRegs f).pageCounts = s.pageCounts := rfl
@[simp] theorem State.modRegs_blocks (s : State) (f : HostRegs → HostRegs) : (s.modRegs f).blocks = s.blocks := rfl
@[simp] theorem State.modRegs_chunks (s : State) (f : HostRegs → HostRegs) : (s.modRegs f).chunks = s.chunks := rfl
@[simp] theorem State.modRegs_waitingWrites (s : State) (f : HostRegs → HostRegs) :
    (s.modRegs f).waitingWrites = s.waitingWrites := rfl
@[simp] theorem State.modRegs_packed (s : State) (f : HostRegs → HostRegs) : (s.modRegs f).packed = s.packed := rfl
@[simp] theorem State.modRegs_evicting (s : State) (f : HostRegs → HostRegs) :
    (s.modRegs f).evicting = s.evicting := rfl
@[simp] theorem State.modRegs_log (s : State) (f : HostRegs → HostRegs) : (s.modRegs f).log = s.log := rfl
@[simp] theorem State.modRegs_past (s : State) (f : HostRegs → HostRegs) : (s.modRegs f).past = s.past := rfl
@[simp] theorem State.modRegs_fbind (s : State) (f : HostRegs → HostRegs) : (s.modRegs f).fbind = s.fbind := rfl
@[simp] theorem State.modRegs_fifoq (s : State) (f : HostRegs → HostRegs) : (s.modRegs f).fifoq = s.fifoq := rfl
@[simp] theorem State.modRegs_claims (s : State) (f : HostRegs → HostRegs) : (s.modRegs f).claims = s.claims := rfl
@[simp] theorem State.modRegs_plane (s : State) (f : HostRegs → HostRegs) : (s.modRegs f).plane = s.plane := rfl
@[simp] theorem State.modRegs_late (s : State) (f : HostRegs → HostRegs) : (s.modRegs f).late = s.late := rfl
@[simp] theorem State.modRegs_wsels (s : State) (f : HostRegs → HostRegs) : (s.modRegs f).wsels = s.wsels := rfl
@[simp] theorem State.modRegs_replies (s : State) (f : HostRegs → HostRegs) :
    (s.modRegs f).replies = s.replies := rfl
@[simp] theorem State.modRegs_buffered (s : State) (f : HostRegs → HostRegs) :
    (s.modRegs f).buffered = s.buffered := rfl
@[simp] theorem State.modRegs_circling (s : State) (f : HostRegs → HostRegs) :
    (s.modRegs f).circling = s.circling := rfl
@[simp] theorem State.modRegs_lostRanks (s : State) (f : HostRegs → HostRegs) :
    (s.modRegs f).lostRanks = s.lostRanks := rfl
@[simp] theorem State.modRegs_heard (s : State) (f : HostRegs → HostRegs) : (s.modRegs f).heard = s.heard := rfl
@[simp] theorem State.modRegs_beats (s : State) (f : HostRegs → HostRegs) : (s.modRegs f).beats = s.beats := rfl
@[simp] theorem State.modRegs_expected (s : State) (f : HostRegs → HostRegs) :
    (s.modRegs f).expected = s.expected := rfl
@[simp] theorem State.modRegs_rounds (s : State) (f : HostRegs → HostRegs) : (s.modRegs f).rounds = s.rounds := rfl
@[simp] theorem State.modRegs_links (s : State) (f : HostRegs → HostRegs) : (s.modRegs f).links = s.links := rfl
@[simp] theorem State.modRegs_service (s : State) (f : HostRegs → HostRegs) :
    (s.modRegs f).service = s.service := rfl
@[simp] theorem State.modRegs_machineChecks (s : State) (f : HostRegs → HostRegs) :
    (s.modRegs f).machineChecks = s.machineChecks := rfl
@[simp] theorem State.modRegs_clearing (s : State) (f : HostRegs → HostRegs) :
    (s.modRegs f).clearing = s.clearing := rfl
@[simp] theorem State.modRegs_digests (s : State) (f : HostRegs → HostRegs) :
    (s.modRegs f).digests = s.digests := rfl
@[simp] theorem State.modRegs_outputs (s : State) (f : HostRegs → HostRegs) :
    (s.modRegs f).outputs = s.outputs := rfl
@[simp] theorem State.modRegs_agenda (s : State) (f : HostRegs → HostRegs) : (s.modRegs f).agenda = s.agenda := rfl
@[simp] theorem State.modRegs_phase (s : State) (f : HostRegs → HostRegs) : (s.modRegs f).phase = s.phase := rfl
@[simp] theorem State.modRegs_cur (s : State) (f : HostRegs → HostRegs) : (s.modRegs f).cur = s.cur := rfl
@[simp] theorem State.modRegs_draw (s : State) (f : HostRegs → HostRegs) : (s.modRegs f).draw = s.draw := rfl
@[simp] theorem State.modRegs_nextId (s : State) (f : HostRegs → HostRegs) : (s.modRegs f).nextId = s.nextId := rfl
@[simp] theorem State.modRegs_core (s : State) (f : HostRegs → HostRegs) (j : Fin 64) :
    (s.modRegs f).core j = s.core j := rfl
@[simp] theorem State.modRegs_ctx (s : State) (f : HostRegs → HostRegs) (j : Fin 64) (d : Fin 4) :
    (s.modRegs f).ctx j d = s.ctx j d := rfl

/-! ### `State.modTask` -/

@[simp] theorem State.modTask_sclk (s : State) (t : Nat) (f : Task → Task) : (s.modTask t f).sclk = s.sclk := rfl
@[simp] theorem State.modTask_ringTime (s : State) (t : Nat) (f : Task → Task) :
    (s.modTask t f).ringTime = s.ringTime := rfl
@[simp] theorem State.modTask_stage (s : State) (t : Nat) (f : Task → Task) : (s.modTask t f).stage = s.stage := rfl
@[simp] theorem State.modTask_rank (s : State) (t : Nat) (f : Task → Task) : (s.modTask t f).rank = s.rank := rfl
@[simp] theorem State.modTask_mem (s : State) (t : Nat) (f : Task → Task) : (s.modTask t f).mem = s.mem := rfl
@[simp] theorem State.modTask_poison (s : State) (t : Nat) (f : Task → Task) :
    (s.modTask t f).poison = s.poison := rfl
@[simp] theorem State.modTask_regs (s : State) (t : Nat) (f : Task → Task) : (s.modTask t f).regs = s.regs := rfl
@[simp] theorem State.modTask_cores (s : State) (t : Nat) (f : Task → Task) : (s.modTask t f).cores = s.cores := rfl
@[simp] theorem State.modTask_barriers (s : State) (t : Nat) (f : Task → Task) :
    (s.modTask t f).barriers = s.barriers := rfl
@[simp] theorem State.modTask_barq (s : State) (t : Nat) (f : Task → Task) : (s.modTask t f).barq = s.barq := rfl
@[simp] theorem State.modTask_queues (s : State) (t : Nat) (f : Task → Task) :
    (s.modTask t f).queues = s.queues := rfl
@[simp] theorem State.modTask_launches (s : State) (t : Nat) (f : Task → Task) :
    (s.modTask t f).launches = s.launches := rfl
@[simp] theorem State.modTask_preempts (s : State) (t : Nat) (f : Task → Task) :
    (s.modTask t f).preempts = s.preempts := rfl
@[simp] theorem State.modTask_estimates (s : State) (t : Nat) (f : Task → Task) :
    (s.modTask t f).estimates = s.estimates := rfl
@[simp] theorem State.modTask_lastTaken (s : State) (t : Nat) (f : Task → Task) :
    (s.modTask t f).lastTaken = s.lastTaken := rfl
@[simp] theorem State.modTask_slotTables (s : State) (t : Nat) (f : Task → Task) :
    (s.modTask t f).slotTables = s.slotTables := rfl
@[simp] theorem State.modTask_messages (s : State) (t : Nat) (f : Task → Task) :
    (s.modTask t f).messages = s.messages := rfl
@[simp] theorem State.modTask_notices (s : State) (t : Nat) (f : Task → Task) :
    (s.modTask t f).notices = s.notices := rfl
@[simp] theorem State.modTask_pageCounts (s : State) (t : Nat) (f : Task → Task) :
    (s.modTask t f).pageCounts = s.pageCounts := rfl
@[simp] theorem State.modTask_blocks (s : State) (t : Nat) (f : Task → Task) :
    (s.modTask t f).blocks = s.blocks := rfl
@[simp] theorem State.modTask_chunks (s : State) (t : Nat) (f : Task → Task) :
    (s.modTask t f).chunks = s.chunks := rfl
@[simp] theorem State.modTask_waitingWrites (s : State) (t : Nat) (f : Task → Task) :
    (s.modTask t f).waitingWrites = s.waitingWrites := rfl
@[simp] theorem State.modTask_packed (s : State) (t : Nat) (f : Task → Task) :
    (s.modTask t f).packed = s.packed := rfl
@[simp] theorem State.modTask_evicting (s : State) (t : Nat) (f : Task → Task) :
    (s.modTask t f).evicting = s.evicting := rfl
@[simp] theorem State.modTask_log (s : State) (t : Nat) (f : Task → Task) : (s.modTask t f).log = s.log := rfl
@[simp] theorem State.modTask_past (s : State) (t : Nat) (f : Task → Task) : (s.modTask t f).past = s.past := rfl
@[simp] theorem State.modTask_fbind (s : State) (t : Nat) (f : Task → Task) : (s.modTask t f).fbind = s.fbind := rfl
@[simp] theorem State.modTask_fifoq (s : State) (t : Nat) (f : Task → Task) : (s.modTask t f).fifoq = s.fifoq := rfl
@[simp] theorem State.modTask_claims (s : State) (t : Nat) (f : Task → Task) :
    (s.modTask t f).claims = s.claims := rfl
@[simp] theorem State.modTask_plane (s : State) (t : Nat) (f : Task → Task) : (s.modTask t f).plane = s.plane := rfl
@[simp] theorem State.modTask_late (s : State) (t : Nat) (f : Task → Task) : (s.modTask t f).late = s.late := rfl
@[simp] theorem State.modTask_wsels (s : State) (t : Nat) (f : Task → Task) : (s.modTask t f).wsels = s.wsels := rfl
@[simp] theorem State.modTask_replies (s : State) (t : Nat) (f : Task → Task) :
    (s.modTask t f).replies = s.replies := rfl
@[simp] theorem State.modTask_buffered (s : State) (t : Nat) (f : Task → Task) :
    (s.modTask t f).buffered = s.buffered := rfl
@[simp] theorem State.modTask_circling (s : State) (t : Nat) (f : Task → Task) :
    (s.modTask t f).circling = s.circling := rfl
@[simp] theorem State.modTask_lostRanks (s : State) (t : Nat) (f : Task → Task) :
    (s.modTask t f).lostRanks = s.lostRanks := rfl
@[simp] theorem State.modTask_heard (s : State) (t : Nat) (f : Task → Task) : (s.modTask t f).heard = s.heard := rfl
@[simp] theorem State.modTask_beats (s : State) (t : Nat) (f : Task → Task) : (s.modTask t f).beats = s.beats := rfl
@[simp] theorem State.modTask_expected (s : State) (t : Nat) (f : Task → Task) :
    (s.modTask t f).expected = s.expected := rfl
@[simp] theorem State.modTask_rounds (s : State) (t : Nat) (f : Task → Task) :
    (s.modTask t f).rounds = s.rounds := rfl
@[simp] theorem State.modTask_links (s : State) (t : Nat) (f : Task → Task) : (s.modTask t f).links = s.links := rfl
@[simp] theorem State.modTask_service (s : State) (t : Nat) (f : Task → Task) :
    (s.modTask t f).service = s.service := rfl
@[simp] theorem State.modTask_machineChecks (s : State) (t : Nat) (f : Task → Task) :
    (s.modTask t f).machineChecks = s.machineChecks := rfl
@[simp] theorem State.modTask_clearing (s : State) (t : Nat) (f : Task → Task) :
    (s.modTask t f).clearing = s.clearing := rfl
@[simp] theorem State.modTask_digests (s : State) (t : Nat) (f : Task → Task) :
    (s.modTask t f).digests = s.digests := rfl
@[simp] theorem State.modTask_outputs (s : State) (t : Nat) (f : Task → Task) :
    (s.modTask t f).outputs = s.outputs := rfl
@[simp] theorem State.modTask_agenda (s : State) (t : Nat) (f : Task → Task) :
    (s.modTask t f).agenda = s.agenda := rfl
@[simp] theorem State.modTask_phase (s : State) (t : Nat) (f : Task → Task) : (s.modTask t f).phase = s.phase := rfl
@[simp] theorem State.modTask_cur (s : State) (t : Nat) (f : Task → Task) : (s.modTask t f).cur = s.cur := rfl
@[simp] theorem State.modTask_draw (s : State) (t : Nat) (f : Task → Task) : (s.modTask t f).draw = s.draw := rfl
@[simp] theorem State.modTask_nextId (s : State) (t : Nat) (f : Task → Task) :
    (s.modTask t f).nextId = s.nextId := rfl
@[simp] theorem State.modTask_core (s : State) (t : Nat) (f : Task → Task) (j : Fin 64) :
    (s.modTask t f).core j = s.core j := rfl
@[simp] theorem State.modTask_ctx (s : State) (t : Nat) (f : Task → Task) (j : Fin 64) (d : Fin 4) :
    (s.modTask t f).ctx j d = s.ctx j d := rfl

/-! ### `State.modLaunch` -/

@[simp] theorem State.modLaunch_sclk (s : State) (l : Nat) (f : Launch → Launch) :
    (s.modLaunch l f).sclk = s.sclk := rfl
@[simp] theorem State.modLaunch_ringTime (s : State) (l : Nat) (f : Launch → Launch) :
    (s.modLaunch l f).ringTime = s.ringTime := rfl
@[simp] theorem State.modLaunch_stage (s : State) (l : Nat) (f : Launch → Launch) :
    (s.modLaunch l f).stage = s.stage := rfl
@[simp] theorem State.modLaunch_rank (s : State) (l : Nat) (f : Launch → Launch) :
    (s.modLaunch l f).rank = s.rank := rfl
@[simp] theorem State.modLaunch_mem (s : State) (l : Nat) (f : Launch → Launch) :
    (s.modLaunch l f).mem = s.mem := rfl
@[simp] theorem State.modLaunch_poison (s : State) (l : Nat) (f : Launch → Launch) :
    (s.modLaunch l f).poison = s.poison := rfl
@[simp] theorem State.modLaunch_regs (s : State) (l : Nat) (f : Launch → Launch) :
    (s.modLaunch l f).regs = s.regs := rfl
@[simp] theorem State.modLaunch_cores (s : State) (l : Nat) (f : Launch → Launch) :
    (s.modLaunch l f).cores = s.cores := rfl
@[simp] theorem State.modLaunch_barriers (s : State) (l : Nat) (f : Launch → Launch) :
    (s.modLaunch l f).barriers = s.barriers := rfl
@[simp] theorem State.modLaunch_barq (s : State) (l : Nat) (f : Launch → Launch) :
    (s.modLaunch l f).barq = s.barq := rfl
@[simp] theorem State.modLaunch_queues (s : State) (l : Nat) (f : Launch → Launch) :
    (s.modLaunch l f).queues = s.queues := rfl
@[simp] theorem State.modLaunch_tasks (s : State) (l : Nat) (f : Launch → Launch) :
    (s.modLaunch l f).tasks = s.tasks := rfl
@[simp] theorem State.modLaunch_preempts (s : State) (l : Nat) (f : Launch → Launch) :
    (s.modLaunch l f).preempts = s.preempts := rfl
@[simp] theorem State.modLaunch_estimates (s : State) (l : Nat) (f : Launch → Launch) :
    (s.modLaunch l f).estimates = s.estimates := rfl
@[simp] theorem State.modLaunch_lastTaken (s : State) (l : Nat) (f : Launch → Launch) :
    (s.modLaunch l f).lastTaken = s.lastTaken := rfl
@[simp] theorem State.modLaunch_slotTables (s : State) (l : Nat) (f : Launch → Launch) :
    (s.modLaunch l f).slotTables = s.slotTables := rfl
@[simp] theorem State.modLaunch_messages (s : State) (l : Nat) (f : Launch → Launch) :
    (s.modLaunch l f).messages = s.messages := rfl
@[simp] theorem State.modLaunch_notices (s : State) (l : Nat) (f : Launch → Launch) :
    (s.modLaunch l f).notices = s.notices := rfl
@[simp] theorem State.modLaunch_pageCounts (s : State) (l : Nat) (f : Launch → Launch) :
    (s.modLaunch l f).pageCounts = s.pageCounts := rfl
@[simp] theorem State.modLaunch_blocks (s : State) (l : Nat) (f : Launch → Launch) :
    (s.modLaunch l f).blocks = s.blocks := rfl
@[simp] theorem State.modLaunch_chunks (s : State) (l : Nat) (f : Launch → Launch) :
    (s.modLaunch l f).chunks = s.chunks := rfl
@[simp] theorem State.modLaunch_waitingWrites (s : State) (l : Nat) (f : Launch → Launch) :
    (s.modLaunch l f).waitingWrites = s.waitingWrites := rfl
@[simp] theorem State.modLaunch_packed (s : State) (l : Nat) (f : Launch → Launch) :
    (s.modLaunch l f).packed = s.packed := rfl
@[simp] theorem State.modLaunch_evicting (s : State) (l : Nat) (f : Launch → Launch) :
    (s.modLaunch l f).evicting = s.evicting := rfl
@[simp] theorem State.modLaunch_log (s : State) (l : Nat) (f : Launch → Launch) :
    (s.modLaunch l f).log = s.log := rfl
@[simp] theorem State.modLaunch_past (s : State) (l : Nat) (f : Launch → Launch) :
    (s.modLaunch l f).past = s.past := rfl
@[simp] theorem State.modLaunch_fbind (s : State) (l : Nat) (f : Launch → Launch) :
    (s.modLaunch l f).fbind = s.fbind := rfl
@[simp] theorem State.modLaunch_fifoq (s : State) (l : Nat) (f : Launch → Launch) :
    (s.modLaunch l f).fifoq = s.fifoq := rfl
@[simp] theorem State.modLaunch_claims (s : State) (l : Nat) (f : Launch → Launch) :
    (s.modLaunch l f).claims = s.claims := rfl
@[simp] theorem State.modLaunch_plane (s : State) (l : Nat) (f : Launch → Launch) :
    (s.modLaunch l f).plane = s.plane := rfl
@[simp] theorem State.modLaunch_late (s : State) (l : Nat) (f : Launch → Launch) :
    (s.modLaunch l f).late = s.late := rfl
@[simp] theorem State.modLaunch_wsels (s : State) (l : Nat) (f : Launch → Launch) :
    (s.modLaunch l f).wsels = s.wsels := rfl
@[simp] theorem State.modLaunch_replies (s : State) (l : Nat) (f : Launch → Launch) :
    (s.modLaunch l f).replies = s.replies := rfl
@[simp] theorem State.modLaunch_buffered (s : State) (l : Nat) (f : Launch → Launch) :
    (s.modLaunch l f).buffered = s.buffered := rfl
@[simp] theorem State.modLaunch_circling (s : State) (l : Nat) (f : Launch → Launch) :
    (s.modLaunch l f).circling = s.circling := rfl
@[simp] theorem State.modLaunch_lostRanks (s : State) (l : Nat) (f : Launch → Launch) :
    (s.modLaunch l f).lostRanks = s.lostRanks := rfl
@[simp] theorem State.modLaunch_heard (s : State) (l : Nat) (f : Launch → Launch) :
    (s.modLaunch l f).heard = s.heard := rfl
@[simp] theorem State.modLaunch_beats (s : State) (l : Nat) (f : Launch → Launch) :
    (s.modLaunch l f).beats = s.beats := rfl
@[simp] theorem State.modLaunch_expected (s : State) (l : Nat) (f : Launch → Launch) :
    (s.modLaunch l f).expected = s.expected := rfl
@[simp] theorem State.modLaunch_rounds (s : State) (l : Nat) (f : Launch → Launch) :
    (s.modLaunch l f).rounds = s.rounds := rfl
@[simp] theorem State.modLaunch_links (s : State) (l : Nat) (f : Launch → Launch) :
    (s.modLaunch l f).links = s.links := rfl
@[simp] theorem State.modLaunch_service (s : State) (l : Nat) (f : Launch → Launch) :
    (s.modLaunch l f).service = s.service := rfl
@[simp] theorem State.modLaunch_machineChecks (s : State) (l : Nat) (f : Launch → Launch) :
    (s.modLaunch l f).machineChecks = s.machineChecks := rfl
@[simp] theorem State.modLaunch_clearing (s : State) (l : Nat) (f : Launch → Launch) :
    (s.modLaunch l f).clearing = s.clearing := rfl
@[simp] theorem State.modLaunch_digests (s : State) (l : Nat) (f : Launch → Launch) :
    (s.modLaunch l f).digests = s.digests := rfl
@[simp] theorem State.modLaunch_outputs (s : State) (l : Nat) (f : Launch → Launch) :
    (s.modLaunch l f).outputs = s.outputs := rfl
@[simp] theorem State.modLaunch_agenda (s : State) (l : Nat) (f : Launch → Launch) :
    (s.modLaunch l f).agenda = s.agenda := rfl
@[simp] theorem State.modLaunch_phase (s : State) (l : Nat) (f : Launch → Launch) :
    (s.modLaunch l f).phase = s.phase := rfl
@[simp] theorem State.modLaunch_cur (s : State) (l : Nat) (f : Launch → Launch) :
    (s.modLaunch l f).cur = s.cur := rfl
@[simp] theorem State.modLaunch_draw (s : State) (l : Nat) (f : Launch → Launch) :
    (s.modLaunch l f).draw = s.draw := rfl
@[simp] theorem State.modLaunch_nextId (s : State) (l : Nat) (f : Launch → Launch) :
    (s.modLaunch l f).nextId = s.nextId := rfl
@[simp] theorem State.modLaunch_core (s : State) (l : Nat) (f : Launch → Launch) (j : Fin 64) :
    (s.modLaunch l f).core j = s.core j := rfl
@[simp] theorem State.modLaunch_ctx (s : State) (l : Nat) (f : Launch → Launch) (j : Fin 64) (d : Fin 4) :
    (s.modLaunch l f).ctx j d = s.ctx j d := rfl

/-! ### `State.modKept` -/

@[simp] theorem State.modKept_sclk (s : State) (f : Nat → Context → Context) : (s.modKept f).sclk = s.sclk := rfl
@[simp] theorem State.modKept_ringTime (s : State) (f : Nat → Context → Context) :
    (s.modKept f).ringTime = s.ringTime := rfl
@[simp] theorem State.modKept_stage (s : State) (f : Nat → Context → Context) : (s.modKept f).stage = s.stage := rfl
@[simp] theorem State.modKept_rank (s : State) (f : Nat → Context → Context) : (s.modKept f).rank = s.rank := rfl
@[simp] theorem State.modKept_mem (s : State) (f : Nat → Context → Context) : (s.modKept f).mem = s.mem := rfl
@[simp] theorem State.modKept_poison (s : State) (f : Nat → Context → Context) :
    (s.modKept f).poison = s.poison := rfl
@[simp] theorem State.modKept_regs (s : State) (f : Nat → Context → Context) : (s.modKept f).regs = s.regs := rfl
@[simp] theorem State.modKept_cores (s : State) (f : Nat → Context → Context) : (s.modKept f).cores = s.cores := rfl
@[simp] theorem State.modKept_barriers (s : State) (f : Nat → Context → Context) :
    (s.modKept f).barriers = s.barriers := rfl
@[simp] theorem State.modKept_barq (s : State) (f : Nat → Context → Context) : (s.modKept f).barq = s.barq := rfl
@[simp] theorem State.modKept_queues (s : State) (f : Nat → Context → Context) :
    (s.modKept f).queues = s.queues := rfl
@[simp] theorem State.modKept_launches (s : State) (f : Nat → Context → Context) :
    (s.modKept f).launches = s.launches := rfl
@[simp] theorem State.modKept_tasks (s : State) (f : Nat → Context → Context) : (s.modKept f).tasks = s.tasks := rfl
@[simp] theorem State.modKept_estimates (s : State) (f : Nat → Context → Context) :
    (s.modKept f).estimates = s.estimates := rfl
@[simp] theorem State.modKept_lastTaken (s : State) (f : Nat → Context → Context) :
    (s.modKept f).lastTaken = s.lastTaken := rfl
@[simp] theorem State.modKept_slotTables (s : State) (f : Nat → Context → Context) :
    (s.modKept f).slotTables = s.slotTables := rfl
@[simp] theorem State.modKept_messages (s : State) (f : Nat → Context → Context) :
    (s.modKept f).messages = s.messages := rfl
@[simp] theorem State.modKept_notices (s : State) (f : Nat → Context → Context) :
    (s.modKept f).notices = s.notices := rfl
@[simp] theorem State.modKept_pageCounts (s : State) (f : Nat → Context → Context) :
    (s.modKept f).pageCounts = s.pageCounts := rfl
@[simp] theorem State.modKept_blocks (s : State) (f : Nat → Context → Context) :
    (s.modKept f).blocks = s.blocks := rfl
@[simp] theorem State.modKept_chunks (s : State) (f : Nat → Context → Context) :
    (s.modKept f).chunks = s.chunks := rfl
@[simp] theorem State.modKept_waitingWrites (s : State) (f : Nat → Context → Context) :
    (s.modKept f).waitingWrites = s.waitingWrites := rfl
@[simp] theorem State.modKept_packed (s : State) (f : Nat → Context → Context) :
    (s.modKept f).packed = s.packed := rfl
@[simp] theorem State.modKept_evicting (s : State) (f : Nat → Context → Context) :
    (s.modKept f).evicting = s.evicting := rfl
@[simp] theorem State.modKept_log (s : State) (f : Nat → Context → Context) : (s.modKept f).log = s.log := rfl
@[simp] theorem State.modKept_past (s : State) (f : Nat → Context → Context) : (s.modKept f).past = s.past := rfl
@[simp] theorem State.modKept_fbind (s : State) (f : Nat → Context → Context) : (s.modKept f).fbind = s.fbind := rfl
@[simp] theorem State.modKept_fifoq (s : State) (f : Nat → Context → Context) : (s.modKept f).fifoq = s.fifoq := rfl
@[simp] theorem State.modKept_claims (s : State) (f : Nat → Context → Context) :
    (s.modKept f).claims = s.claims := rfl
@[simp] theorem State.modKept_plane (s : State) (f : Nat → Context → Context) : (s.modKept f).plane = s.plane := rfl
@[simp] theorem State.modKept_late (s : State) (f : Nat → Context → Context) : (s.modKept f).late = s.late := rfl
@[simp] theorem State.modKept_wsels (s : State) (f : Nat → Context → Context) : (s.modKept f).wsels = s.wsels := rfl
@[simp] theorem State.modKept_replies (s : State) (f : Nat → Context → Context) :
    (s.modKept f).replies = s.replies := rfl
@[simp] theorem State.modKept_buffered (s : State) (f : Nat → Context → Context) :
    (s.modKept f).buffered = s.buffered := rfl
@[simp] theorem State.modKept_circling (s : State) (f : Nat → Context → Context) :
    (s.modKept f).circling = s.circling := rfl
@[simp] theorem State.modKept_lostRanks (s : State) (f : Nat → Context → Context) :
    (s.modKept f).lostRanks = s.lostRanks := rfl
@[simp] theorem State.modKept_heard (s : State) (f : Nat → Context → Context) : (s.modKept f).heard = s.heard := rfl
@[simp] theorem State.modKept_beats (s : State) (f : Nat → Context → Context) : (s.modKept f).beats = s.beats := rfl
@[simp] theorem State.modKept_expected (s : State) (f : Nat → Context → Context) :
    (s.modKept f).expected = s.expected := rfl
@[simp] theorem State.modKept_rounds (s : State) (f : Nat → Context → Context) :
    (s.modKept f).rounds = s.rounds := rfl
@[simp] theorem State.modKept_links (s : State) (f : Nat → Context → Context) : (s.modKept f).links = s.links := rfl
@[simp] theorem State.modKept_service (s : State) (f : Nat → Context → Context) :
    (s.modKept f).service = s.service := rfl
@[simp] theorem State.modKept_machineChecks (s : State) (f : Nat → Context → Context) :
    (s.modKept f).machineChecks = s.machineChecks := rfl
@[simp] theorem State.modKept_clearing (s : State) (f : Nat → Context → Context) :
    (s.modKept f).clearing = s.clearing := rfl
@[simp] theorem State.modKept_digests (s : State) (f : Nat → Context → Context) :
    (s.modKept f).digests = s.digests := rfl
@[simp] theorem State.modKept_outputs (s : State) (f : Nat → Context → Context) :
    (s.modKept f).outputs = s.outputs := rfl
@[simp] theorem State.modKept_agenda (s : State) (f : Nat → Context → Context) :
    (s.modKept f).agenda = s.agenda := rfl
@[simp] theorem State.modKept_phase (s : State) (f : Nat → Context → Context) : (s.modKept f).phase = s.phase := rfl
@[simp] theorem State.modKept_cur (s : State) (f : Nat → Context → Context) : (s.modKept f).cur = s.cur := rfl
@[simp] theorem State.modKept_draw (s : State) (f : Nat → Context → Context) : (s.modKept f).draw = s.draw := rfl
@[simp] theorem State.modKept_nextId (s : State) (f : Nat → Context → Context) :
    (s.modKept f).nextId = s.nextId := rfl
@[simp] theorem State.modKept_core (s : State) (f : Nat → Context → Context) (j : Fin 64) :
    (s.modKept f).core j = s.core j := rfl
@[simp] theorem State.modKept_ctx (s : State) (f : Nat → Context → Context) (j : Fin 64) (d : Fin 4) :
    (s.modKept f).ctx j d = s.ctx j d := rfl

/-! ### `State.fresh` -/

@[simp] theorem State.fresh_sclk (s : State) : (s.fresh).sclk = s.sclk := rfl
@[simp] theorem State.fresh_ringTime (s : State) : (s.fresh).ringTime = s.ringTime := rfl
@[simp] theorem State.fresh_stage (s : State) : (s.fresh).stage = s.stage := rfl
@[simp] theorem State.fresh_rank (s : State) : (s.fresh).rank = s.rank := rfl
@[simp] theorem State.fresh_mem (s : State) : (s.fresh).mem = s.mem := rfl
@[simp] theorem State.fresh_poison (s : State) : (s.fresh).poison = s.poison := rfl
@[simp] theorem State.fresh_regs (s : State) : (s.fresh).regs = s.regs := rfl
@[simp] theorem State.fresh_cores (s : State) : (s.fresh).cores = s.cores := rfl
@[simp] theorem State.fresh_barriers (s : State) : (s.fresh).barriers = s.barriers := rfl
@[simp] theorem State.fresh_barq (s : State) : (s.fresh).barq = s.barq := rfl
@[simp] theorem State.fresh_queues (s : State) : (s.fresh).queues = s.queues := rfl
@[simp] theorem State.fresh_launches (s : State) : (s.fresh).launches = s.launches := rfl
@[simp] theorem State.fresh_tasks (s : State) : (s.fresh).tasks = s.tasks := rfl
@[simp] theorem State.fresh_preempts (s : State) : (s.fresh).preempts = s.preempts := rfl
@[simp] theorem State.fresh_estimates (s : State) : (s.fresh).estimates = s.estimates := rfl
@[simp] theorem State.fresh_lastTaken (s : State) : (s.fresh).lastTaken = s.lastTaken := rfl
@[simp] theorem State.fresh_slotTables (s : State) : (s.fresh).slotTables = s.slotTables := rfl
@[simp] theorem State.fresh_messages (s : State) : (s.fresh).messages = s.messages := rfl
@[simp] theorem State.fresh_notices (s : State) : (s.fresh).notices = s.notices := rfl
@[simp] theorem State.fresh_pageCounts (s : State) : (s.fresh).pageCounts = s.pageCounts := rfl
@[simp] theorem State.fresh_blocks (s : State) : (s.fresh).blocks = s.blocks := rfl
@[simp] theorem State.fresh_chunks (s : State) : (s.fresh).chunks = s.chunks := rfl
@[simp] theorem State.fresh_waitingWrites (s : State) : (s.fresh).waitingWrites = s.waitingWrites := rfl
@[simp] theorem State.fresh_packed (s : State) : (s.fresh).packed = s.packed := rfl
@[simp] theorem State.fresh_evicting (s : State) : (s.fresh).evicting = s.evicting := rfl
@[simp] theorem State.fresh_log (s : State) : (s.fresh).log = s.log := rfl
@[simp] theorem State.fresh_past (s : State) : (s.fresh).past = s.past := rfl
@[simp] theorem State.fresh_fbind (s : State) : (s.fresh).fbind = s.fbind := rfl
@[simp] theorem State.fresh_fifoq (s : State) : (s.fresh).fifoq = s.fifoq := rfl
@[simp] theorem State.fresh_claims (s : State) : (s.fresh).claims = s.claims := rfl
@[simp] theorem State.fresh_plane (s : State) : (s.fresh).plane = s.plane := rfl
@[simp] theorem State.fresh_late (s : State) : (s.fresh).late = s.late := rfl
@[simp] theorem State.fresh_wsels (s : State) : (s.fresh).wsels = s.wsels := rfl
@[simp] theorem State.fresh_replies (s : State) : (s.fresh).replies = s.replies := rfl
@[simp] theorem State.fresh_buffered (s : State) : (s.fresh).buffered = s.buffered := rfl
@[simp] theorem State.fresh_circling (s : State) : (s.fresh).circling = s.circling := rfl
@[simp] theorem State.fresh_lostRanks (s : State) : (s.fresh).lostRanks = s.lostRanks := rfl
@[simp] theorem State.fresh_heard (s : State) : (s.fresh).heard = s.heard := rfl
@[simp] theorem State.fresh_beats (s : State) : (s.fresh).beats = s.beats := rfl
@[simp] theorem State.fresh_expected (s : State) : (s.fresh).expected = s.expected := rfl
@[simp] theorem State.fresh_rounds (s : State) : (s.fresh).rounds = s.rounds := rfl
@[simp] theorem State.fresh_links (s : State) : (s.fresh).links = s.links := rfl
@[simp] theorem State.fresh_service (s : State) : (s.fresh).service = s.service := rfl
@[simp] theorem State.fresh_machineChecks (s : State) : (s.fresh).machineChecks = s.machineChecks := rfl
@[simp] theorem State.fresh_clearing (s : State) : (s.fresh).clearing = s.clearing := rfl
@[simp] theorem State.fresh_digests (s : State) : (s.fresh).digests = s.digests := rfl
@[simp] theorem State.fresh_outputs (s : State) : (s.fresh).outputs = s.outputs := rfl
@[simp] theorem State.fresh_agenda (s : State) : (s.fresh).agenda = s.agenda := rfl
@[simp] theorem State.fresh_phase (s : State) : (s.fresh).phase = s.phase := rfl
@[simp] theorem State.fresh_cur (s : State) : (s.fresh).cur = s.cur := rfl
@[simp] theorem State.fresh_draw (s : State) : (s.fresh).draw = s.draw := rfl
@[simp] theorem State.fresh_core (s : State) (j : Fin 64) : (s.fresh).core j = s.core j := rfl
@[simp] theorem State.fresh_ctx (s : State) (j : Fin 64) (d : Fin 4) : (s.fresh).ctx j d = s.ctx j d := rfl

/-! ### `State.redraw` -/

@[simp] theorem State.redraw_sclk (s : State) : (s.redraw).sclk = s.sclk := rfl
@[simp] theorem State.redraw_ringTime (s : State) : (s.redraw).ringTime = s.ringTime := rfl
@[simp] theorem State.redraw_stage (s : State) : (s.redraw).stage = s.stage := rfl
@[simp] theorem State.redraw_rank (s : State) : (s.redraw).rank = s.rank := rfl
@[simp] theorem State.redraw_mem (s : State) : (s.redraw).mem = s.mem := rfl
@[simp] theorem State.redraw_poison (s : State) : (s.redraw).poison = s.poison := rfl
@[simp] theorem State.redraw_regs (s : State) : (s.redraw).regs = s.regs := rfl
@[simp] theorem State.redraw_cores (s : State) : (s.redraw).cores = s.cores := rfl
@[simp] theorem State.redraw_barriers (s : State) : (s.redraw).barriers = s.barriers := rfl
@[simp] theorem State.redraw_barq (s : State) : (s.redraw).barq = s.barq := rfl
@[simp] theorem State.redraw_queues (s : State) : (s.redraw).queues = s.queues := rfl
@[simp] theorem State.redraw_launches (s : State) : (s.redraw).launches = s.launches := rfl
@[simp] theorem State.redraw_tasks (s : State) : (s.redraw).tasks = s.tasks := rfl
@[simp] theorem State.redraw_preempts (s : State) : (s.redraw).preempts = s.preempts := rfl
@[simp] theorem State.redraw_estimates (s : State) : (s.redraw).estimates = s.estimates := rfl
@[simp] theorem State.redraw_lastTaken (s : State) : (s.redraw).lastTaken = s.lastTaken := rfl
@[simp] theorem State.redraw_slotTables (s : State) : (s.redraw).slotTables = s.slotTables := rfl
@[simp] theorem State.redraw_messages (s : State) : (s.redraw).messages = s.messages := rfl
@[simp] theorem State.redraw_notices (s : State) : (s.redraw).notices = s.notices := rfl
@[simp] theorem State.redraw_pageCounts (s : State) : (s.redraw).pageCounts = s.pageCounts := rfl
@[simp] theorem State.redraw_blocks (s : State) : (s.redraw).blocks = s.blocks := rfl
@[simp] theorem State.redraw_chunks (s : State) : (s.redraw).chunks = s.chunks := rfl
@[simp] theorem State.redraw_waitingWrites (s : State) : (s.redraw).waitingWrites = s.waitingWrites := rfl
@[simp] theorem State.redraw_packed (s : State) : (s.redraw).packed = s.packed := rfl
@[simp] theorem State.redraw_evicting (s : State) : (s.redraw).evicting = s.evicting := rfl
@[simp] theorem State.redraw_log (s : State) : (s.redraw).log = s.log := rfl
@[simp] theorem State.redraw_past (s : State) : (s.redraw).past = s.past := rfl
@[simp] theorem State.redraw_fbind (s : State) : (s.redraw).fbind = s.fbind := rfl
@[simp] theorem State.redraw_fifoq (s : State) : (s.redraw).fifoq = s.fifoq := rfl
@[simp] theorem State.redraw_claims (s : State) : (s.redraw).claims = s.claims := rfl
@[simp] theorem State.redraw_plane (s : State) : (s.redraw).plane = s.plane := rfl
@[simp] theorem State.redraw_late (s : State) : (s.redraw).late = s.late := rfl
@[simp] theorem State.redraw_wsels (s : State) : (s.redraw).wsels = s.wsels := rfl
@[simp] theorem State.redraw_replies (s : State) : (s.redraw).replies = s.replies := rfl
@[simp] theorem State.redraw_buffered (s : State) : (s.redraw).buffered = s.buffered := rfl
@[simp] theorem State.redraw_circling (s : State) : (s.redraw).circling = s.circling := rfl
@[simp] theorem State.redraw_lostRanks (s : State) : (s.redraw).lostRanks = s.lostRanks := rfl
@[simp] theorem State.redraw_heard (s : State) : (s.redraw).heard = s.heard := rfl
@[simp] theorem State.redraw_beats (s : State) : (s.redraw).beats = s.beats := rfl
@[simp] theorem State.redraw_expected (s : State) : (s.redraw).expected = s.expected := rfl
@[simp] theorem State.redraw_rounds (s : State) : (s.redraw).rounds = s.rounds := rfl
@[simp] theorem State.redraw_links (s : State) : (s.redraw).links = s.links := rfl
@[simp] theorem State.redraw_service (s : State) : (s.redraw).service = s.service := rfl
@[simp] theorem State.redraw_machineChecks (s : State) : (s.redraw).machineChecks = s.machineChecks := rfl
@[simp] theorem State.redraw_clearing (s : State) : (s.redraw).clearing = s.clearing := rfl
@[simp] theorem State.redraw_digests (s : State) : (s.redraw).digests = s.digests := rfl
@[simp] theorem State.redraw_outputs (s : State) : (s.redraw).outputs = s.outputs := rfl
@[simp] theorem State.redraw_agenda (s : State) : (s.redraw).agenda = s.agenda := rfl
@[simp] theorem State.redraw_phase (s : State) : (s.redraw).phase = s.phase := rfl
@[simp] theorem State.redraw_cur (s : State) : (s.redraw).cur = s.cur := rfl
@[simp] theorem State.redraw_nextId (s : State) : (s.redraw).nextId = s.nextId := rfl
@[simp] theorem State.redraw_core (s : State) (j : Fin 64) : (s.redraw).core j = s.core j := rfl
@[simp] theorem State.redraw_ctx (s : State) (j : Fin 64) (d : Fin 4) : (s.redraw).ctx j d = s.ctx j d := rfl

/-! ### `State.atSlot` -/

@[simp] theorem State.atSlot_sclk (s : State) (u : Nat) (w : Word) : (s.atSlot u w).sclk = s.sclk := rfl
@[simp] theorem State.atSlot_ringTime (s : State) (u : Nat) (w : Word) : (s.atSlot u w).ringTime = s.ringTime := rfl
@[simp] theorem State.atSlot_stage (s : State) (u : Nat) (w : Word) : (s.atSlot u w).stage = s.stage := rfl
@[simp] theorem State.atSlot_rank (s : State) (u : Nat) (w : Word) : (s.atSlot u w).rank = s.rank := rfl
@[simp] theorem State.atSlot_mem (s : State) (u : Nat) (w : Word) : (s.atSlot u w).mem = s.mem := rfl
@[simp] theorem State.atSlot_poison (s : State) (u : Nat) (w : Word) : (s.atSlot u w).poison = s.poison := rfl
@[simp] theorem State.atSlot_regs (s : State) (u : Nat) (w : Word) : (s.atSlot u w).regs = s.regs := rfl
@[simp] theorem State.atSlot_cores (s : State) (u : Nat) (w : Word) : (s.atSlot u w).cores = s.cores := rfl
@[simp] theorem State.atSlot_barriers (s : State) (u : Nat) (w : Word) : (s.atSlot u w).barriers = s.barriers := rfl
@[simp] theorem State.atSlot_barq (s : State) (u : Nat) (w : Word) : (s.atSlot u w).barq = s.barq := rfl
@[simp] theorem State.atSlot_queues (s : State) (u : Nat) (w : Word) : (s.atSlot u w).queues = s.queues := rfl
@[simp] theorem State.atSlot_launches (s : State) (u : Nat) (w : Word) : (s.atSlot u w).launches = s.launches := rfl
@[simp] theorem State.atSlot_tasks (s : State) (u : Nat) (w : Word) : (s.atSlot u w).tasks = s.tasks := rfl
@[simp] theorem State.atSlot_preempts (s : State) (u : Nat) (w : Word) : (s.atSlot u w).preempts = s.preempts := rfl
@[simp] theorem State.atSlot_estimates (s : State) (u : Nat) (w : Word) :
    (s.atSlot u w).estimates = s.estimates := rfl
@[simp] theorem State.atSlot_lastTaken (s : State) (u : Nat) (w : Word) :
    (s.atSlot u w).lastTaken = s.lastTaken := rfl
@[simp] theorem State.atSlot_slotTables (s : State) (u : Nat) (w : Word) :
    (s.atSlot u w).slotTables = s.slotTables := rfl
@[simp] theorem State.atSlot_messages (s : State) (u : Nat) (w : Word) : (s.atSlot u w).messages = s.messages := rfl
@[simp] theorem State.atSlot_notices (s : State) (u : Nat) (w : Word) : (s.atSlot u w).notices = s.notices := rfl
@[simp] theorem State.atSlot_pageCounts (s : State) (u : Nat) (w : Word) :
    (s.atSlot u w).pageCounts = s.pageCounts := rfl
@[simp] theorem State.atSlot_blocks (s : State) (u : Nat) (w : Word) : (s.atSlot u w).blocks = s.blocks := rfl
@[simp] theorem State.atSlot_chunks (s : State) (u : Nat) (w : Word) : (s.atSlot u w).chunks = s.chunks := rfl
@[simp] theorem State.atSlot_waitingWrites (s : State) (u : Nat) (w : Word) :
    (s.atSlot u w).waitingWrites = s.waitingWrites := rfl
@[simp] theorem State.atSlot_packed (s : State) (u : Nat) (w : Word) : (s.atSlot u w).packed = s.packed := rfl
@[simp] theorem State.atSlot_evicting (s : State) (u : Nat) (w : Word) : (s.atSlot u w).evicting = s.evicting := rfl
@[simp] theorem State.atSlot_log (s : State) (u : Nat) (w : Word) : (s.atSlot u w).log = s.log := rfl
@[simp] theorem State.atSlot_past (s : State) (u : Nat) (w : Word) : (s.atSlot u w).past = s.past := rfl
@[simp] theorem State.atSlot_fbind (s : State) (u : Nat) (w : Word) : (s.atSlot u w).fbind = s.fbind := rfl
@[simp] theorem State.atSlot_fifoq (s : State) (u : Nat) (w : Word) : (s.atSlot u w).fifoq = s.fifoq := rfl
@[simp] theorem State.atSlot_claims (s : State) (u : Nat) (w : Word) : (s.atSlot u w).claims = s.claims := rfl
@[simp] theorem State.atSlot_plane (s : State) (u : Nat) (w : Word) : (s.atSlot u w).plane = s.plane := rfl
@[simp] theorem State.atSlot_late (s : State) (u : Nat) (w : Word) : (s.atSlot u w).late = s.late := rfl
@[simp] theorem State.atSlot_wsels (s : State) (u : Nat) (w : Word) : (s.atSlot u w).wsels = s.wsels := rfl
@[simp] theorem State.atSlot_replies (s : State) (u : Nat) (w : Word) : (s.atSlot u w).replies = s.replies := rfl
@[simp] theorem State.atSlot_buffered (s : State) (u : Nat) (w : Word) : (s.atSlot u w).buffered = s.buffered := rfl
@[simp] theorem State.atSlot_circling (s : State) (u : Nat) (w : Word) : (s.atSlot u w).circling = s.circling := rfl
@[simp] theorem State.atSlot_lostRanks (s : State) (u : Nat) (w : Word) :
    (s.atSlot u w).lostRanks = s.lostRanks := rfl
@[simp] theorem State.atSlot_heard (s : State) (u : Nat) (w : Word) : (s.atSlot u w).heard = s.heard := rfl
@[simp] theorem State.atSlot_beats (s : State) (u : Nat) (w : Word) : (s.atSlot u w).beats = s.beats := rfl
@[simp] theorem State.atSlot_expected (s : State) (u : Nat) (w : Word) : (s.atSlot u w).expected = s.expected := rfl
@[simp] theorem State.atSlot_rounds (s : State) (u : Nat) (w : Word) : (s.atSlot u w).rounds = s.rounds := rfl
@[simp] theorem State.atSlot_links (s : State) (u : Nat) (w : Word) : (s.atSlot u w).links = s.links := rfl
@[simp] theorem State.atSlot_service (s : State) (u : Nat) (w : Word) : (s.atSlot u w).service = s.service := rfl
@[simp] theorem State.atSlot_machineChecks (s : State) (u : Nat) (w : Word) :
    (s.atSlot u w).machineChecks = s.machineChecks := rfl
@[simp] theorem State.atSlot_clearing (s : State) (u : Nat) (w : Word) : (s.atSlot u w).clearing = s.clearing := rfl
@[simp] theorem State.atSlot_digests (s : State) (u : Nat) (w : Word) : (s.atSlot u w).digests = s.digests := rfl
@[simp] theorem State.atSlot_outputs (s : State) (u : Nat) (w : Word) : (s.atSlot u w).outputs = s.outputs := rfl
@[simp] theorem State.atSlot_agenda (s : State) (u : Nat) (w : Word) : (s.atSlot u w).agenda = s.agenda := rfl
@[simp] theorem State.atSlot_phase (s : State) (u : Nat) (w : Word) : (s.atSlot u w).phase = s.phase := rfl
@[simp] theorem State.atSlot_draw (s : State) (u : Nat) (w : Word) : (s.atSlot u w).draw = s.draw := rfl
@[simp] theorem State.atSlot_nextId (s : State) (u : Nat) (w : Word) : (s.atSlot u w).nextId = s.nextId := rfl
@[simp] theorem State.atSlot_core (s : State) (u : Nat) (w : Word) (j : Fin 64) :
    (s.atSlot u w).core j = s.core j := rfl
@[simp] theorem State.atSlot_ctx (s : State) (u : Nat) (w : Word) (j : Fin 64) (d : Fin 4) :
    (s.atSlot u w).ctx j d = s.ctx j d := rfl

/-! ### `State.transfer` -/

@[simp] theorem State.transfer_sclk (s : State) (x : Xfer) : (s.transfer x).sclk = s.sclk := rfl
@[simp] theorem State.transfer_ringTime (s : State) (x : Xfer) : (s.transfer x).ringTime = s.ringTime := rfl
@[simp] theorem State.transfer_stage (s : State) (x : Xfer) : (s.transfer x).stage = s.stage := rfl
@[simp] theorem State.transfer_rank (s : State) (x : Xfer) : (s.transfer x).rank = s.rank := rfl
@[simp] theorem State.transfer_mem (s : State) (x : Xfer) : (s.transfer x).mem = s.mem := rfl
@[simp] theorem State.transfer_poison (s : State) (x : Xfer) : (s.transfer x).poison = s.poison := rfl
@[simp] theorem State.transfer_regs (s : State) (x : Xfer) : (s.transfer x).regs = s.regs := rfl
@[simp] theorem State.transfer_cores (s : State) (x : Xfer) : (s.transfer x).cores = s.cores := rfl
@[simp] theorem State.transfer_barriers (s : State) (x : Xfer) : (s.transfer x).barriers = s.barriers := rfl
@[simp] theorem State.transfer_barq (s : State) (x : Xfer) : (s.transfer x).barq = s.barq := rfl
@[simp] theorem State.transfer_queues (s : State) (x : Xfer) : (s.transfer x).queues = s.queues := rfl
@[simp] theorem State.transfer_launches (s : State) (x : Xfer) : (s.transfer x).launches = s.launches := rfl
@[simp] theorem State.transfer_tasks (s : State) (x : Xfer) : (s.transfer x).tasks = s.tasks := rfl
@[simp] theorem State.transfer_preempts (s : State) (x : Xfer) : (s.transfer x).preempts = s.preempts := rfl
@[simp] theorem State.transfer_estimates (s : State) (x : Xfer) : (s.transfer x).estimates = s.estimates := rfl
@[simp] theorem State.transfer_lastTaken (s : State) (x : Xfer) : (s.transfer x).lastTaken = s.lastTaken := rfl
@[simp] theorem State.transfer_slotTables (s : State) (x : Xfer) : (s.transfer x).slotTables = s.slotTables := rfl
@[simp] theorem State.transfer_messages (s : State) (x : Xfer) : (s.transfer x).messages = s.messages := rfl
@[simp] theorem State.transfer_notices (s : State) (x : Xfer) : (s.transfer x).notices = s.notices := rfl
@[simp] theorem State.transfer_pageCounts (s : State) (x : Xfer) : (s.transfer x).pageCounts = s.pageCounts := rfl
@[simp] theorem State.transfer_blocks (s : State) (x : Xfer) : (s.transfer x).blocks = s.blocks := rfl
@[simp] theorem State.transfer_chunks (s : State) (x : Xfer) : (s.transfer x).chunks = s.chunks := rfl
@[simp] theorem State.transfer_waitingWrites (s : State) (x : Xfer) :
    (s.transfer x).waitingWrites = s.waitingWrites := rfl
@[simp] theorem State.transfer_packed (s : State) (x : Xfer) : (s.transfer x).packed = s.packed := rfl
@[simp] theorem State.transfer_evicting (s : State) (x : Xfer) : (s.transfer x).evicting = s.evicting := rfl
@[simp] theorem State.transfer_log (s : State) (x : Xfer) : (s.transfer x).log = s.log := rfl
@[simp] theorem State.transfer_past (s : State) (x : Xfer) : (s.transfer x).past = s.past := rfl
@[simp] theorem State.transfer_fbind (s : State) (x : Xfer) : (s.transfer x).fbind = s.fbind := rfl
@[simp] theorem State.transfer_fifoq (s : State) (x : Xfer) : (s.transfer x).fifoq = s.fifoq := rfl
@[simp] theorem State.transfer_claims (s : State) (x : Xfer) : (s.transfer x).claims = s.claims := rfl
@[simp] theorem State.transfer_plane (s : State) (x : Xfer) : (s.transfer x).plane = s.plane := rfl
@[simp] theorem State.transfer_late (s : State) (x : Xfer) : (s.transfer x).late = s.late := rfl
@[simp] theorem State.transfer_wsels (s : State) (x : Xfer) : (s.transfer x).wsels = s.wsels := rfl
@[simp] theorem State.transfer_replies (s : State) (x : Xfer) : (s.transfer x).replies = s.replies := rfl
@[simp] theorem State.transfer_buffered (s : State) (x : Xfer) : (s.transfer x).buffered = s.buffered := rfl
@[simp] theorem State.transfer_circling (s : State) (x : Xfer) : (s.transfer x).circling = s.circling := rfl
@[simp] theorem State.transfer_lostRanks (s : State) (x : Xfer) : (s.transfer x).lostRanks = s.lostRanks := rfl
@[simp] theorem State.transfer_heard (s : State) (x : Xfer) : (s.transfer x).heard = s.heard := rfl
@[simp] theorem State.transfer_beats (s : State) (x : Xfer) : (s.transfer x).beats = s.beats := rfl
@[simp] theorem State.transfer_expected (s : State) (x : Xfer) : (s.transfer x).expected = s.expected := rfl
@[simp] theorem State.transfer_rounds (s : State) (x : Xfer) : (s.transfer x).rounds = s.rounds := rfl
@[simp] theorem State.transfer_links (s : State) (x : Xfer) : (s.transfer x).links = s.links := rfl
@[simp] theorem State.transfer_service (s : State) (x : Xfer) : (s.transfer x).service = s.service := rfl
@[simp] theorem State.transfer_machineChecks (s : State) (x : Xfer) :
    (s.transfer x).machineChecks = s.machineChecks := rfl
@[simp] theorem State.transfer_clearing (s : State) (x : Xfer) : (s.transfer x).clearing = s.clearing := rfl
@[simp] theorem State.transfer_digests (s : State) (x : Xfer) : (s.transfer x).digests = s.digests := rfl
@[simp] theorem State.transfer_outputs (s : State) (x : Xfer) : (s.transfer x).outputs = s.outputs := rfl
@[simp] theorem State.transfer_agenda (s : State) (x : Xfer) : (s.transfer x).agenda = s.agenda := rfl
@[simp] theorem State.transfer_phase (s : State) (x : Xfer) : (s.transfer x).phase = s.phase := rfl
@[simp] theorem State.transfer_draw (s : State) (x : Xfer) : (s.transfer x).draw = s.draw := rfl
@[simp] theorem State.transfer_nextId (s : State) (x : Xfer) : (s.transfer x).nextId = s.nextId := rfl
@[simp] theorem State.transfer_core (s : State) (x : Xfer) (j : Fin 64) : (s.transfer x).core j = s.core j := rfl
@[simp] theorem State.transfer_ctx (s : State) (x : Xfer) (j : Fin 64) (d : Fin 4) :
    (s.transfer x).ctx j d = s.ctx j d := rfl

/-! ### `State.land` -/

@[simp] theorem State.land_sclk (s : State) (w : Landing) (latency : Nat) : (s.land w latency).sclk = s.sclk := rfl
@[simp] theorem State.land_ringTime (s : State) (w : Landing) (latency : Nat) :
    (s.land w latency).ringTime = s.ringTime := rfl
@[simp] theorem State.land_stage (s : State) (w : Landing) (latency : Nat) :
    (s.land w latency).stage = s.stage := rfl
@[simp] theorem State.land_rank (s : State) (w : Landing) (latency : Nat) : (s.land w latency).rank = s.rank := rfl
@[simp] theorem State.land_mem (s : State) (w : Landing) (latency : Nat) : (s.land w latency).mem = s.mem := rfl
@[simp] theorem State.land_poison (s : State) (w : Landing) (latency : Nat) :
    (s.land w latency).poison = s.poison := rfl
@[simp] theorem State.land_regs (s : State) (w : Landing) (latency : Nat) : (s.land w latency).regs = s.regs := rfl
@[simp] theorem State.land_barriers (s : State) (w : Landing) (latency : Nat) :
    (s.land w latency).barriers = s.barriers := rfl
@[simp] theorem State.land_barq (s : State) (w : Landing) (latency : Nat) : (s.land w latency).barq = s.barq := rfl
@[simp] theorem State.land_queues (s : State) (w : Landing) (latency : Nat) :
    (s.land w latency).queues = s.queues := rfl
@[simp] theorem State.land_launches (s : State) (w : Landing) (latency : Nat) :
    (s.land w latency).launches = s.launches := rfl
@[simp] theorem State.land_tasks (s : State) (w : Landing) (latency : Nat) :
    (s.land w latency).tasks = s.tasks := rfl
@[simp] theorem State.land_preempts (s : State) (w : Landing) (latency : Nat) :
    (s.land w latency).preempts = s.preempts := rfl
@[simp] theorem State.land_estimates (s : State) (w : Landing) (latency : Nat) :
    (s.land w latency).estimates = s.estimates := rfl
@[simp] theorem State.land_lastTaken (s : State) (w : Landing) (latency : Nat) :
    (s.land w latency).lastTaken = s.lastTaken := rfl
@[simp] theorem State.land_slotTables (s : State) (w : Landing) (latency : Nat) :
    (s.land w latency).slotTables = s.slotTables := rfl
@[simp] theorem State.land_messages (s : State) (w : Landing) (latency : Nat) :
    (s.land w latency).messages = s.messages := rfl
@[simp] theorem State.land_notices (s : State) (w : Landing) (latency : Nat) :
    (s.land w latency).notices = s.notices := rfl
@[simp] theorem State.land_pageCounts (s : State) (w : Landing) (latency : Nat) :
    (s.land w latency).pageCounts = s.pageCounts := rfl
@[simp] theorem State.land_blocks (s : State) (w : Landing) (latency : Nat) :
    (s.land w latency).blocks = s.blocks := rfl
@[simp] theorem State.land_chunks (s : State) (w : Landing) (latency : Nat) :
    (s.land w latency).chunks = s.chunks := rfl
@[simp] theorem State.land_waitingWrites (s : State) (w : Landing) (latency : Nat) :
    (s.land w latency).waitingWrites = s.waitingWrites := rfl
@[simp] theorem State.land_packed (s : State) (w : Landing) (latency : Nat) :
    (s.land w latency).packed = s.packed := rfl
@[simp] theorem State.land_evicting (s : State) (w : Landing) (latency : Nat) :
    (s.land w latency).evicting = s.evicting := rfl
@[simp] theorem State.land_log (s : State) (w : Landing) (latency : Nat) : (s.land w latency).log = s.log := rfl
@[simp] theorem State.land_past (s : State) (w : Landing) (latency : Nat) : (s.land w latency).past = s.past := rfl
@[simp] theorem State.land_fbind (s : State) (w : Landing) (latency : Nat) :
    (s.land w latency).fbind = s.fbind := rfl
@[simp] theorem State.land_fifoq (s : State) (w : Landing) (latency : Nat) :
    (s.land w latency).fifoq = s.fifoq := rfl
@[simp] theorem State.land_claims (s : State) (w : Landing) (latency : Nat) :
    (s.land w latency).claims = s.claims := rfl
@[simp] theorem State.land_plane (s : State) (w : Landing) (latency : Nat) :
    (s.land w latency).plane = s.plane := rfl
@[simp] theorem State.land_late (s : State) (w : Landing) (latency : Nat) : (s.land w latency).late = s.late := rfl
@[simp] theorem State.land_wsels (s : State) (w : Landing) (latency : Nat) :
    (s.land w latency).wsels = s.wsels := rfl
@[simp] theorem State.land_replies (s : State) (w : Landing) (latency : Nat) :
    (s.land w latency).replies = s.replies := rfl
@[simp] theorem State.land_buffered (s : State) (w : Landing) (latency : Nat) :
    (s.land w latency).buffered = s.buffered := rfl
@[simp] theorem State.land_circling (s : State) (w : Landing) (latency : Nat) :
    (s.land w latency).circling = s.circling := rfl
@[simp] theorem State.land_lostRanks (s : State) (w : Landing) (latency : Nat) :
    (s.land w latency).lostRanks = s.lostRanks := rfl
@[simp] theorem State.land_heard (s : State) (w : Landing) (latency : Nat) :
    (s.land w latency).heard = s.heard := rfl
@[simp] theorem State.land_beats (s : State) (w : Landing) (latency : Nat) :
    (s.land w latency).beats = s.beats := rfl
@[simp] theorem State.land_expected (s : State) (w : Landing) (latency : Nat) :
    (s.land w latency).expected = s.expected := rfl
@[simp] theorem State.land_rounds (s : State) (w : Landing) (latency : Nat) :
    (s.land w latency).rounds = s.rounds := rfl
@[simp] theorem State.land_links (s : State) (w : Landing) (latency : Nat) :
    (s.land w latency).links = s.links := rfl
@[simp] theorem State.land_service (s : State) (w : Landing) (latency : Nat) :
    (s.land w latency).service = s.service := rfl
@[simp] theorem State.land_machineChecks (s : State) (w : Landing) (latency : Nat) :
    (s.land w latency).machineChecks = s.machineChecks := rfl
@[simp] theorem State.land_clearing (s : State) (w : Landing) (latency : Nat) :
    (s.land w latency).clearing = s.clearing := rfl
@[simp] theorem State.land_digests (s : State) (w : Landing) (latency : Nat) :
    (s.land w latency).digests = s.digests := rfl
@[simp] theorem State.land_outputs (s : State) (w : Landing) (latency : Nat) :
    (s.land w latency).outputs = s.outputs := rfl
@[simp] theorem State.land_agenda (s : State) (w : Landing) (latency : Nat) :
    (s.land w latency).agenda = s.agenda := rfl
@[simp] theorem State.land_phase (s : State) (w : Landing) (latency : Nat) :
    (s.land w latency).phase = s.phase := rfl
@[simp] theorem State.land_cur (s : State) (w : Landing) (latency : Nat) : (s.land w latency).cur = s.cur := rfl
@[simp] theorem State.land_draw (s : State) (w : Landing) (latency : Nat) : (s.land w latency).draw = s.draw := rfl

/-! ### `Core.modCtx` -/

@[simp] theorem Core.modCtx_holdcy (co : Core) (c : Fin 4) (f : Context → Context) :
    (co.modCtx c f).holdcy = co.holdcy := rfl
@[simp] theorem Core.modCtx_held (co : Core) (c : Fin 4) (f : Context → Context) :
    (co.modCtx c f).held = co.held := rfl
@[simp] theorem Core.modCtx_holdLeft (co : Core) (c : Fin 4) (f : Context → Context) :
    (co.modCtx c f).holdLeft = co.holdLeft := rfl
@[simp] theorem Core.modCtx_tiles (co : Core) (c : Fin 4) (f : Context → Context) :
    (co.modCtx c f).tiles = co.tiles := rfl
@[simp] theorem Core.modCtx_tileGen (co : Core) (c : Fin 4) (f : Context → Context) :
    (co.modCtx c f).tileGen = co.tileGen := rfl
@[simp] theorem Core.modCtx_slots (co : Core) (c : Fin 4) (f : Context → Context) :
    (co.modCtx c f).slots = co.slots := rfl
@[simp] theorem Core.modCtx_tables (co : Core) (c : Fin 4) (f : Context → Context) :
    (co.modCtx c f).tables = co.tables := rfl
@[simp] theorem Core.modCtx_sketches (co : Core) (c : Fin 4) (f : Context → Context) :
    (co.modCtx c f).sketches = co.sketches := rfl
@[simp] theorem Core.modCtx_engineTiles (co : Core) (c : Fin 4) (f : Context → Context) :
    (co.modCtx c f).engineTiles = co.engineTiles := rfl
@[simp] theorem Core.modCtx_flips (co : Core) (c : Fin 4) (f : Context → Context) :
    (co.modCtx c f).flips = co.flips := rfl
@[simp] theorem Core.modCtx_rings (co : Core) (c : Fin 4) (f : Context → Context) :
    (co.modCtx c f).rings = co.rings := rfl
@[simp] theorem Core.modCtx_channels (co : Core) (c : Fin 4) (f : Context → Context) :
    (co.modCtx c f).channels = co.channels := rfl
@[simp] theorem Core.modCtx_inbox (co : Core) (c : Fin 4) (f : Context → Context) :
    (co.modCtx c f).inbox = co.inbox := rfl
@[simp] theorem Core.modCtx_windows (co : Core) (c : Fin 4) (f : Context → Context) :
    (co.modCtx c f).windows = co.windows := rfl
@[simp] theorem Core.modCtx_memq (co : Core) (c : Fin 4) (f : Context → Context) :
    (co.modCtx c f).memq = co.memq := rfl
@[simp] theorem Core.modCtx_wake (co : Core) (c : Fin 4) (f : Context → Context) :
    (co.modCtx c f).wake = co.wake := rfl
@[simp] theorem Core.modCtx_idleSince (co : Core) (c : Fin 4) (f : Context → Context) :
    (co.modCtx c f).idleSince = co.idleSince := rfl

/-! ### `Context.push` -/

@[simp] theorem Context.push_state (cx : Context) (id left gen : Nat) (w : Landing) (unit : Nat) (passed : Bool) :
    (cx.push id left gen w unit passed).state = cx.state := rfl
@[simp] theorem Context.push_wait (cx : Context) (id left gen : Nat) (w : Landing) (unit : Nat) (passed : Bool) :
    (cx.push id left gen w unit passed).wait = cx.wait := rfl
@[simp] theorem Context.push_waitId (cx : Context) (id left gen : Nat) (w : Landing) (unit : Nat) (passed : Bool) :
    (cx.push id left gen w unit passed).waitId = cx.waitId := rfl
@[simp] theorem Context.push_waitrec (cx : Context) (id left gen : Nat) (w : Landing) (unit : Nat) (passed : Bool) :
    (cx.push id left gen w unit passed).waitrec = cx.waitrec := rfl
@[simp] theorem Context.push_imageCells (cx : Context) (id left gen : Nat) (w : Landing) (unit : Nat) (passed : Bool) :
    (cx.push id left gen w unit passed).imageCells = cx.imageCells := rfl
@[simp] theorem Context.push_task (cx : Context) (id left gen : Nat) (w : Landing) (unit : Nat) (passed : Bool) :
    (cx.push id left gen w unit passed).task = cx.task := rfl
@[simp] theorem Context.push_reservedTask (cx : Context) (id left gen : Nat) (w : Landing) (unit : Nat) (passed : Bool) :
    (cx.push id left gen w unit passed).reservedTask = cx.reservedTask := rfl
@[simp] theorem Context.push_reservedLaunch (cx : Context) (id left gen : Nat) (w : Landing) (unit : Nat) (passed : Bool) :
    (cx.push id left gen w unit passed).reservedLaunch = cx.reservedLaunch := rfl
@[simp] theorem Context.push_sibling (cx : Context) (id left gen : Nat) (w : Landing) (unit : Nat) (passed : Bool) :
    (cx.push id left gen w unit passed).sibling = cx.sibling := rfl
@[simp] theorem Context.push_ending (cx : Context) (id left gen : Nat) (w : Landing) (unit : Nat) (passed : Bool) :
    (cx.push id left gen w unit passed).ending = cx.ending := rfl
@[simp] theorem Context.push_pc (cx : Context) (id left gen : Nat) (w : Landing) (unit : Nat) (passed : Bool) :
    (cx.push id left gen w unit passed).pc = cx.pc := rfl
@[simp] theorem Context.push_fellThrough (cx : Context) (id left gen : Nat) (w : Landing) (unit : Nat) (passed : Bool) :
    (cx.push id left gen w unit passed).fellThrough = cx.fellThrough := rfl
@[simp] theorem Context.push_sregs (cx : Context) (id left gen : Nat) (w : Landing) (unit : Nat) (passed : Bool) :
    (cx.push id left gen w unit passed).sregs = cx.sregs := rfl
@[simp] theorem Context.push_vregs (cx : Context) (id left gen : Nat) (w : Landing) (unit : Nat) (passed : Bool) :
    (cx.push id left gen w unit passed).vregs = cx.vregs := rfl
@[simp] theorem Context.push_preds (cx : Context) (id left gen : Nat) (w : Landing) (unit : Nat) (passed : Bool) :
    (cx.push id left gen w unit passed).preds = cx.preds := rfl
@[simp] theorem Context.push_nfc (cx : Context) (id left gen : Nat) (w : Landing) (unit : Nat) (passed : Bool) :
    (cx.push id left gen w unit passed).nfc = cx.nfc := rfl
@[simp] theorem Context.push_pbsr (cx : Context) (id left gen : Nat) (w : Landing) (unit : Nat) (passed : Bool) :
    (cx.push id left gen w unit passed).pbsr = cx.pbsr := rfl
@[simp] theorem Context.push_pbsw (cx : Context) (id left gen : Nat) (w : Landing) (unit : Nat) (passed : Bool) :
    (cx.push id left gen w unit passed).pbsw = cx.pbsw := rfl
@[simp] theorem Context.push_pbmem (cx : Context) (id left gen : Nat) (w : Landing) (unit : Nat) (passed : Bool) :
    (cx.push id left gen w unit passed).pbmem = cx.pbmem := rfl
@[simp] theorem Context.push_qbound (cx : Context) (id left gen : Nat) (w : Landing) (unit : Nat) (passed : Bool) :
    (cx.push id left gen w unit passed).qbound = cx.qbound := rfl
@[simp] theorem Context.push_qcount (cx : Context) (id left gen : Nat) (w : Landing) (unit : Nat) (passed : Bool) :
    (cx.push id left gen w unit passed).qcount = cx.qcount := rfl
@[simp] theorem Context.push_qmiss (cx : Context) (id left gen : Nat) (w : Landing) (unit : Nat) (passed : Bool) :
    (cx.push id left gen w unit passed).qmiss = cx.qmiss := rfl
@[simp] theorem Context.push_wkid (cx : Context) (id left gen : Nat) (w : Landing) (unit : Nat) (passed : Bool) :
    (cx.push id left gen w unit passed).wkid = cx.wkid := rfl
@[simp] theorem Context.push_wkfld (cx : Context) (id left gen : Nat) (w : Landing) (unit : Nat) (passed : Bool) :
    (cx.push id left gen w unit passed).wkfld = cx.wkfld := rfl
@[simp] theorem Context.push_bkey (cx : Context) (id left gen : Nat) (w : Landing) (unit : Nat) (passed : Bool) :
    (cx.push id left gen w unit passed).bkey = cx.bkey := rfl
@[simp] theorem Context.push_tm (cx : Context) (id left gen : Nat) (w : Landing) (unit : Nat) (passed : Bool) :
    (cx.push id left gen w unit passed).tm = cx.tm := rfl
@[simp] theorem Context.push_resume (cx : Context) (id left gen : Nat) (w : Landing) (unit : Nat) (passed : Bool) :
    (cx.push id left gen w unit passed).resume = cx.resume := rfl
@[simp] theorem Context.push_blk (cx : Context) (id left gen : Nat) (w : Landing) (unit : Nat) (passed : Bool) :
    (cx.push id left gen w unit passed).blk = cx.blk := rfl
@[simp] theorem Context.push_tcause (cx : Context) (id left gen : Nat) (w : Landing) (unit : Nat) (passed : Bool) :
    (cx.push id left gen w unit passed).tcause = cx.tcause := rfl
@[simp] theorem Context.push_ncause (cx : Context) (id left gen : Nat) (w : Landing) (unit : Nat) (passed : Bool) :
    (cx.push id left gen w unit passed).ncause = cx.ncause := rfl
@[simp] theorem Context.push_taddr (cx : Context) (id left gen : Nat) (w : Landing) (unit : Nat) (passed : Bool) :
    (cx.push id left gen w unit passed).taddr = cx.taddr := rfl
@[simp] theorem Context.push_tepc (cx : Context) (id left gen : Nat) (w : Landing) (unit : Nat) (passed : Bool) :
    (cx.push id left gen w unit passed).tepc = cx.tepc := rfl
@[simp] theorem Context.push_tvec (cx : Context) (id left gen : Nat) (w : Landing) (unit : Nat) (passed : Bool) :
    (cx.push id left gen w unit passed).tvec = cx.tvec := rfl
@[simp] theorem Context.push_tsp (cx : Context) (id left gen : Nat) (w : Landing) (unit : Nat) (passed : Bool) :
    (cx.push id left gen w unit passed).tsp = cx.tsp := rfl
@[simp] theorem Context.push_reentry (cx : Context) (id left gen : Nat) (w : Landing) (unit : Nat) (passed : Bool) :
    (cx.push id left gen w unit passed).reentry = cx.reentry := rfl
@[simp] theorem Context.push_xfer (cx : Context) (id left gen : Nat) (w : Landing) (unit : Nat) (passed : Bool) :
    (cx.push id left gen w unit passed).xfer = cx.xfer := rfl
@[simp] theorem Context.push_pending (cx : Context) (id left gen : Nat) (w : Landing) (unit : Nat) (passed : Bool) :
    (cx.push id left gen w unit passed).pending = cx.pending := rfl
@[simp] theorem Context.push_pendingExit (cx : Context) (id left gen : Nat) (w : Landing) (unit : Nat) (passed : Bool) :
    (cx.push id left gen w unit passed).pendingExit = cx.pendingExit := rfl
@[simp] theorem Context.push_pendingSoft (cx : Context) (id left gen : Nat) (w : Landing) (unit : Nat) (passed : Bool) :
    (cx.push id left gen w unit passed).pendingSoft = cx.pendingSoft := rfl
@[simp] theorem Context.push_snapshot (cx : Context) (id left gen : Nat) (w : Landing) (unit : Nat) (passed : Bool) :
    (cx.push id left gen w unit passed).snapshot = cx.snapshot := rfl
@[simp] theorem Context.push_held (cx : Context) (id left gen : Nat) (w : Landing) (unit : Nat) (passed : Bool) :
    (cx.push id left gen w unit passed).held = cx.held := rfl
@[simp] theorem Context.push_shadow (cx : Context) (id left gen : Nat) (w : Landing) (unit : Nat) (passed : Bool) :
    (cx.push id left gen w unit passed).shadow = cx.shadow := rfl
@[simp] theorem Context.push_loops (cx : Context) (id left gen : Nat) (w : Landing) (unit : Nat) (passed : Bool) :
    (cx.push id left gen w unit passed).loops = cx.loops := rfl
@[simp] theorem Context.push_repbuf (cx : Context) (id left gen : Nat) (w : Landing) (unit : Nat) (passed : Bool) :
    (cx.push id left gen w unit passed).repbuf = cx.repbuf := rfl
@[simp] theorem Context.push_latchA (cx : Context) (id left gen : Nat) (w : Landing) (unit : Nat) (passed : Bool) :
    (cx.push id left gen w unit passed).latchA = cx.latchA := rfl
@[simp] theorem Context.push_latchB (cx : Context) (id left gen : Nat) (w : Landing) (unit : Nat) (passed : Bool) :
    (cx.push id left gen w unit passed).latchB = cx.latchB := rfl
@[simp] theorem Context.push_fences (cx : Context) (id left gen : Nat) (w : Landing) (unit : Nat) (passed : Bool) :
    (cx.push id left gen w unit passed).fences = cx.fences := rfl
@[simp] theorem Context.push_inherited (cx : Context) (id left gen : Nat) (w : Landing) (unit : Nat) (passed : Bool) :
    (cx.push id left gen w unit passed).inherited = cx.inherited := rfl
@[simp] theorem Context.push_edges (cx : Context) (id left gen : Nat) (w : Landing) (unit : Nat) (passed : Bool) :
    (cx.push id left gen w unit passed).edges = cx.edges := rfl
@[simp] theorem Context.push_claimed (cx : Context) (id left gen : Nat) (w : Landing) (unit : Nat) (passed : Bool) :
    (cx.push id left gen w unit passed).claimed = cx.claimed := rfl
@[simp] theorem Context.push_view (cx : Context) (id left gen : Nat) (w : Landing) (unit : Nat) (passed : Bool) :
    (cx.push id left gen w unit passed).view = cx.view := rfl
@[simp] theorem Context.push_blockedOn (cx : Context) (id left gen : Nat) (w : Landing) (unit : Nat) (passed : Bool) :
    (cx.push id left gen w unit passed).blockedOn = cx.blockedOn := rfl
@[simp] theorem Context.push_latched (cx : Context) (id left gen : Nat) (w : Landing) (unit : Nat) (passed : Bool) :
    (cx.push id left gen w unit passed).latched = cx.latched := rfl
@[simp] theorem Context.push_tmFrom (cx : Context) (id left gen : Nat) (w : Landing) (unit : Nat) (passed : Bool) :
    (cx.push id left gen w unit passed).tmFrom = cx.tmFrom := rfl
@[simp] theorem Context.push_fi (cx : Context) (id left gen : Nat) (w : Landing) (unit : Nat) (passed : Bool) :
    (cx.push id left gen w unit passed).fi = cx.fi := rfl
@[simp] theorem Context.push_copy (cx : Context) (id left gen : Nat) (w : Landing) (unit : Nat) (passed : Bool) :
    (cx.push id left gen w unit passed).copy = cx.copy := rfl
@[simp] theorem Context.push_accepted (cx : Context) (id left gen : Nat) (w : Landing) (unit : Nat) (passed : Bool) :
    (cx.push id left gen w unit passed).accepted = cx.accepted := rfl
@[simp] theorem Context.push_bubble (cx : Context) (id left gen : Nat) (w : Landing) (unit : Nat) (passed : Bool) :
    (cx.push id left gen w unit passed).bubble = cx.bubble := rfl
@[simp] theorem Context.push_waitCount (cx : Context) (id left gen : Nat) (w : Landing) (unit : Nat) (passed : Bool) :
    (cx.push id left gen w unit passed).waitCount = cx.waitCount := rfl
@[simp] theorem Context.push_lastCut (cx : Context) (id left gen : Nat) (w : Landing) (unit : Nat) (passed : Bool) :
    (cx.push id left gen w unit passed).lastCut = cx.lastCut := rfl
@[simp] theorem Context.push_heldCut (cx : Context) (id left gen : Nat) (w : Landing) (unit : Nat) (passed : Bool) :
    (cx.push id left gen w unit passed).heldCut = cx.heldCut := rfl
@[simp] theorem Context.push_stopped (cx : Context) (id left gen : Nat) (w : Landing) (unit : Nat) (passed : Bool) :
    (cx.push id left gen w unit passed).stopped = cx.stopped := rfl
@[simp] theorem Context.push_swapEntry (cx : Context) (id left gen : Nat) (w : Landing) (unit : Nat) (passed : Bool) :
    (cx.push id left gen w unit passed).swapEntry = cx.swapEntry := rfl
@[simp] theorem Context.push_swapAddr (cx : Context) (id left gen : Nat) (w : Landing) (unit : Nat) (passed : Bool) :
    (cx.push id left gen w unit passed).swapAddr = cx.swapAddr := rfl
@[simp] theorem Context.push_swapSaved (cx : Context) (id left gen : Nat) (w : Landing) (unit : Nat) (passed : Bool) :
    (cx.push id left gen w unit passed).swapSaved = cx.swapSaved := rfl
@[simp] theorem Context.push_swapAnswer (cx : Context) (id left gen : Nat) (w : Landing) (unit : Nat) (passed : Bool) :
    (cx.push id left gen w unit passed).swapAnswer = cx.swapAnswer := rfl

/-! ### `State.land`: the issuer gains one result in flight, and nothing else moves -/

@[simp] theorem State.land_me (s : State) (w : Landing) (latency : Nat) :
    (s.land w latency).me = s.me.push s.nextId latency 0 w s.cur.unit :=
  State.ctx_modCtx_self s s.cur.core s.cur.ctx _

@[simp] theorem State.land_nextId (s : State) (w : Landing) (latency : Nat) :
    (s.land w latency).nextId = s.nextId + 1 := rfl

theorem State.land_ctx_of_ne (s : State) (w : Landing) (latency : Nat) {k : Fin 64} {c : Fin 4}
    (h : k ≠ s.cur.core ∨ c ≠ s.cur.ctx) : (s.land w latency).ctx k c = s.ctx k c :=
  State.ctx_modCtx_of_ne s _ h

end Sys2Proof.Machine
end

