-- ==== Sys2Proof/Laws/Memory.lean ====
section
/-! SUPPORT. What the memory operations do: reading after writing, and that each keeps the canonical form. -/

namespace Sys2Proof.Machine

open Sys2Proof.Config

/-! ### What an unlisted byte reads as -/

@[simp] theorem Memory.gens_write (m : Memory) (a : Nat) (bs : List Byte) : (m.write a bs).gens = m.gens := rfl

@[simp] theorem Memory.blank_write (m : Memory) (a : Nat) (bs : List Byte) (k : Nat) :
    (m.write a bs).blank k = m.blank k := rfl

/-! ### The bytes of a run that have to be listed -/

theorem Memory.listed_keys (m : Memory) (bs : List Byte) (a : Nat) :
    ∀ c ∈ m.listed a bs, a ≤ c.1 ∧ c.1 < a + bs.length ∧ c.2 ≠ m.blank c.1 := by
  induction bs generalizing a with
  | nil => simp [Memory.listed]
  | cons b bs ih =>
    intro c hc
    by_cases h : b = m.blank a
    · rw [Memory.listed, if_pos h] at hc
      have h3 := ih (a + 1) c hc
      exact ⟨by omega, by simp only [List.length_cons]; omega, h3.2.2⟩
    · rw [Memory.listed, if_neg h] at hc
      simp only [List.length_cons]
      rcases List.mem_cons.mp hc with rfl | hc
      · exact ⟨Nat.le_refl _, by omega, h⟩
      · have h3 := ih (a + 1) c hc
        exact ⟨by omega, by omega, h3.2.2⟩

theorem Memory.listed_sorted (m : Memory) (bs : List Byte) (a : Nat) :
    (m.listed a bs).Pairwise (fun x y => x.1 < y.1) := by
  induction bs generalizing a with
  | nil => exact List.Pairwise.nil
  | cons b bs ih =>
    by_cases h : b = m.blank a
    · rw [Memory.listed, if_pos h]; exact ih (a + 1)
    · rw [Memory.listed, if_neg h]
      refine List.pairwise_cons.mpr ⟨fun c hc => ?_, ih (a + 1)⟩
      have := m.listed_keys bs (a + 1) c hc
      show a < c.1
      omega

/-! ### The canonical form is kept -/

theorem Memory.wf_filter {m : Memory} (h : m.wf) (p : Host.Cell → Bool) :
    (m.cells.filter p).Pairwise (fun x y => x.1 < y.1) ∧ ∀ c ∈ m.cells.filter p, c.2 ≠ m.blank c.1 :=
  ⟨h.1.filter p, fun c hc => h.2 c ((List.mem_filter.mp hc).1)⟩

theorem Memory.write_wf {m : Memory} (h : m.wf) (a : Nat) (bs : List Byte) : (m.write a bs).wf := by
  have lo := m.wf_filter h (fun c => decide (c.1 < a))
  have hi := m.wf_filter h (fun c => decide (a + bs.length ≤ c.1))
  refine ⟨?_, ?_⟩
  · refine List.pairwise_append.mpr ⟨lo.1, List.pairwise_append.mpr ⟨m.listed_sorted bs a, hi.1, ?_⟩, ?_⟩
    · intro x hx y hy
      have h1 := m.listed_keys bs a x hx
      have h2 := (List.mem_filter.mp hy).2
      simp only [decide_eq_true_eq] at h2
      show x.1 < y.1
      omega
    · intro x hx y hy
      have h1 := (List.mem_filter.mp hx).2
      simp only [decide_eq_true_eq] at h1
      show x.1 < y.1
      rcases List.mem_append.mp hy with hy | hy
      · have h2 := m.listed_keys bs a y hy
        omega
      · have h2 := (List.mem_filter.mp hy).2
        simp only [decide_eq_true_eq] at h2
        omega
  · intro c hc
    rcases List.mem_append.mp hc with hc | hc
    · exact lo.2 c hc
    · rcases List.mem_append.mp hc with hc | hc
      · exact (m.listed_keys bs a c hc).2.2
      · exact hi.2 c hc

theorem Memory.writeCells_wf (cells : List (Nat × Byte)) {m : Memory} (h : m.wf) : (m.writeCells cells).wf := by
  induction cells generalizing m with
  | nil => exact h
  | cons c cs ih => exact ih (m.write_wf h c.1 [c.2])

theorem Memory.lookup_filter_map (n g q page : Nat) (gens : List (Nat × Nat)) (h : q < page ∨ page + n ≤ q) :
    ((List.range n).map (fun i => (page + i, g)) ++
      gens.filter fun p => decide (p.1 < page) || decide (page + n ≤ p.1)).lookup q = gens.lookup q := by
  have h1 : ((List.range n).map (fun i => (page + i, g))).lookup q = none := by
    rw [List.lookup_eq_none_iff]
    intro p hp
    obtain ⟨i, hi, rfl⟩ := List.mem_map.mp hp
    have := List.mem_range.mp hi
    simp only [ne_eq, bne_iff_ne]
    omega
  rw [List.lookup_append, h1, Option.none_or]
  induction gens with
  | nil => rfl
  | cons p ps ih =>
    by_cases hp : p.1 = q
    · subst hp
      have : (decide (p.1 < page) || decide (page + n ≤ p.1)) = true := by
        rw [Bool.or_eq_true, decide_eq_true_eq, decide_eq_true_eq]; exact h
      rw [List.filter_cons, if_pos this]
      simp [List.lookup]
    · have hb : (q == p.1) = false := by simp; omega
      rw [List.filter_cons]
      split
      · rw [List.lookup, List.lookup, hb]; exact ih
      · rw [ih, List.lookup, hb]

theorem Memory.gen_release_of_outside (m : Memory) (page n g q : Nat) (h : q < page ∨ page + n ≤ q) :
    (m.release page n g).gen q = m.gen q := by
  unfold Memory.gen Memory.release
  rw [Memory.lookup_filter_map n g q page m.gens h]

theorem Memory.gen_clear_of_outside (m : Memory) (page n q : Nat) (h : q < page ∨ page + n ≤ q) :
    (m.clear page n).gen q = m.gen q := by
  have := Memory.lookup_filter_map n 0 q page m.gens h
  rw [List.lookup_append] at this
  unfold Memory.gen Memory.clear
  have h1 : ((List.range n).map (fun i => (page + i, 0))).lookup q = none := by
    rw [List.lookup_eq_none_iff]
    intro p hp
    obtain ⟨i, hi, rfl⟩ := List.mem_map.mp hp
    have := List.mem_range.mp hi
    simp only [ne_eq, bne_iff_ne]
    omega
  rw [h1, Option.none_or] at this
  show ((m.gens.filter _).lookup q).getD 0 = _
  rw [this]

theorem Memory.blank_of_gen {m m' : Memory} {k : Nat} (h : m'.gen (k / tileBytes) = m.gen (k / tileBytes)) :
    m'.blank k = m.blank k := by
  simp [Memory.blank, h]

theorem Memory.release_wf {m : Memory} (h : m.wf) (page n g : Nat) : (m.release page n g).wf := by
  have f := m.wf_filter h fun c => decide (c.1 / tileBytes < page) || decide (page + n ≤ c.1 / tileBytes)
  refine ⟨f.1, fun c hc => ?_⟩
  have ho := (List.mem_filter.mp hc).2
  rw [Bool.or_eq_true, decide_eq_true_eq, decide_eq_true_eq] at ho
  rw [Memory.blank_of_gen (m.gen_release_of_outside page n g _ ho)]
  exact f.2 c hc

theorem Memory.clear_wf {m : Memory} (h : m.wf) (page n : Nat) : (m.clear page n).wf := by
  have f := m.wf_filter h fun c => decide (c.1 / tileBytes < page) || decide (page + n ≤ c.1 / tileBytes)
  refine ⟨f.1, fun c hc => ?_⟩
  have ho := (List.mem_filter.mp hc).2
  rw [Bool.or_eq_true, decide_eq_true_eq, decide_eq_true_eq] at ho
  rw [Memory.blank_of_gen (m.gen_clear_of_outside page n _ ho)]
  exact f.2 c hc

/-- Memory in canonical form stays so under a store of bytes at a key. -/
theorem State.put_wf {s : State} (h : s.mem.wf) (k : Nat) (bs : List Byte) : (s.put k bs).mem.wf :=
  Memory.write_wf h k bs

theorem State.putValue_wf {s : State} (h : s.mem.wf) (k n v : Nat) : (s.putValue k n v).mem.wf :=
  Memory.write_wf h k _

theorem State.move_wf {s : State} (h : s.mem.wf) (src dst n : Nat) : (s.move src dst n).mem.wf :=
  Memory.write_wf h dst _

end Sys2Proof.Machine
end

