-- ==== Sys2Proof/Laws/Operands.lean ====
section
/-! SUPPORT. What the shared operations of the meanings do, once each: the end of a slot, reading and writing registers,
and the common frames of the vector and scalar forms. A proof about an instruction cites these and unfolds none of them. -/

namespace Sys2Proof.Machine

/-! ### The end of a slot -/

@[simp] theorem State.settle_ok (s t : State) : s.settle (.ok t) = .next t := rfl

theorem State.settle_trap (s : State) (t : Trap) : s.settle (.error (.trap t)) = outcome (s.slotTrap t) := by
  simp only [State.settle, outcome]

@[simp] theorem State.settle_trapWith (s : State) (w : Cause) :
    s.settle (trapWith w) = outcome (s.slotTrap { cause := w }) := s.settle_trap _

@[simp] theorem State.settle_trapAt (s : State) (w : Cause) (a : Dword) :
    s.settle (trapAt w a) = outcome (s.slotTrap { cause := w, addr := some a }) := s.settle_trap _

theorem State.settle_fault (s : State) (f : Fault) : s.settle (.error (.fault f)) = .fault f := rfl

/-- A form reaches a next state by its own effect, or by the trap it takes. -/
theorem State.settle_next {s t : State} {r : Except Stop State} (h : s.settle r = .next t) :
    r = .ok t ∨ ∃ e, r = .error (.trap e) ∧ s.slotTrap e = .ok t := by
  match r, h with
  | .ok u, h => simp only [State.settle_ok, Host.Outcome.next.injEq] at h; exact .inl (h ▸ rfl)
  | .error (.fault f), h => simp [State.settle] at h
  | .error (.trap e), h =>
    refine .inr ⟨e, rfl, ?_⟩
    rw [State.settle_trap] at h
    cases hs : s.slotTrap e with
    | ok u => rw [hs] at h; simp only [outcome, Host.Outcome.next.injEq] at h; rw [h]
    | error f => rw [hs] at h; simp [outcome] at h

@[simp] theorem bind_trapWith (w : Cause) (f : α → Except Stop β) : (trapWith w >>= f) = trapWith w := rfl

@[simp] theorem bind_trapAt (w : Cause) (a : Dword) (f : α → Except Stop β) : (trapAt w a >>= f) = trapAt w a := rfl

@[simp] theorem bind_ok (x : α) (f : α → Except Stop β) : ((.ok x : Except Stop α) >>= f) = f x := rfl

@[simp] theorem check_true (w : Cause) : check true w = .ok () := rfl
@[simp] theorem check_false (w : Cause) : check false w = trapWith w := rfl
@[simp] theorem checkAt_true (w : Cause) (a : Dword) : checkAt true w a = .ok () := rfl
@[simp] theorem checkAt_false (w : Cause) (a : Dword) : checkAt false w a = trapAt w a := rfl

/-! ### Registers -/

theorem State.readS_reg (s : State) (pos : Nat) {f : BitVec 6} (h : f.toNat < 32) :
    s.readS pos f = (s.sreg pos f.toNat, s) := by simp [State.readS, h]

theorem State.readS_fi (s : State) (pos : Nat) {f : BitVec 6} (h : 32 ≤ f.toNat) :
    s.readS pos f = s.popFi (f.toNat - 32) := by simp [State.readS, Nat.not_lt.mpr h]

theorem State.writeS_reg (s : State) {f : BitVec 6} (h : f.toNat < 32) (v : Dword) (n : Nat) :
    s.writeS f v n = .ok (s.land (.scalar f.toNat v) n) := by simp [State.writeS, h]

theorem State.writeS_fo (s : State) {f : BitVec 6} (h : 32 ≤ f.toNat) (v : Dword) (n : Nat) :
    s.writeS f v n = if bindingOk (s.binding s.cur.core s.cur.ctx (f.toNat - 32)) then
      .ok (s.land (.push (f.toNat - 32) v) n) else trapWith .illegal := by
  simp [State.writeS, Nat.not_lt.mpr h]

/-- A scalar destination takes its result on the way, or traps ILLEGAL; nothing else. -/
theorem State.writeS_cases (s : State) (f : BitVec 6) (v : Dword) (n : Nat) :
    (∃ w, s.writeS f v n = .ok (s.land w n) ∧ w.ofContext = true) ∨ s.writeS f v n = trapWith .illegal := by
  unfold State.writeS
  split
  · exact .inl ⟨_, rfl, rfl⟩
  · split
    · exact .inl ⟨_, rfl, rfl⟩
    · exact .inr rfl

theorem State.readV_ok (s : State) (pos : Nat) (f : BitVec 6) (h : tagValid (s.vreg pos f.toNat).tag = true) :
    s.readV pos f = .ok (s.vreg pos f.toNat) := by simp [State.readV, h]

theorem State.readV_bad (s : State) (pos : Nat) (f : BitVec 6) (h : tagValid (s.vreg pos f.toNat).tag = false) :
    s.readV pos f = trapWith .format := by simp [State.readV, h]

theorem State.readVIf_ok (s : State) (pos : Nat) (f : BitVec 6) (ok : Nat → Bool)
    (h : tagValid (s.vreg pos f.toNat).tag = true) (h2 : ok (tagCode (s.vreg pos f.toNat).tag) = true) :
    s.readVIf pos f ok = .ok (s.vreg pos f.toNat) := by simp [State.readVIf, s.readV_ok pos f h, h2]

theorem State.writeV_ok (s : State) (f : BitVec 6) (tag : Half) (lanes : Lanes) (which : Dword) (n : Nat)
    (h : tagValid tag = true) : s.writeV f tag lanes which n = .ok (s.land (.vector f.toNat tag lanes which) n) := by
  simp [State.writeV, h]

theorem State.writeV_bad (s : State) (f : BitVec 6) (tag : Half) (lanes : Lanes) (which : Dword) (n : Nat)
    (h : tagValid tag = false) : s.writeV f tag lanes which n = trapWith .format := by
  simp [State.writeV, h]

/-- A vector destination takes its result on the way, or traps FORMAT; nothing else. -/
theorem State.writeV_cases (s : State) (f : BitVec 6) (tag : Half) (lanes : Lanes) (which : Dword) (n : Nat) :
    s.writeV f tag lanes which n = .ok (s.land (.vector f.toNat tag lanes which) n) ∨
      s.writeV f tag lanes which n = trapWith .format := by
  unfold State.writeV
  split
  · exact .inl rfl
  · exact .inr rfl

/-! ### The common frames of the vector forms -/

/-- The lanes that an element-wise form gives its destination (R156). -/
def maskedLanes (s : State) (a : BitVec 6) (m : BitVec 3) (tag : Half) (f : Fin 64 → Nat) : Lanes :=
  Vector.ofFn fun i => laneOf (laneWidth (tagCode tag)) (if (s.mask m.toNat).getLsbD i then f i
    else ((s.vreg 2 a.toNat).lanes.get i).toNat)

theorem State.elemForm_ok (s : State) (a : BitVec 6) (m : BitVec 3) (tag : Half) (n : Nat) (f : Fin 64 → Nat)
    (ht : tagValid tag = true) (hm : m = 0 ∨ (s.vreg 2 a.toNat).tag = tag) :
    s.elemForm a m tag n f = .ok (s.land (.vector a.toNat tag (maskedLanes s a m tag f) allLanes) n) := by
  have h2 : (decide (m = 0) || (s.vreg 2 a.toNat).tag == tag) = true := by simpa using hm
  simp only [State.elemForm, ht, h2, check_true, bind_ok, State.writeV, if_true, maskedLanes]

theorem State.elemForm_mask_bad (s : State) (a : BitVec 6) (m : BitVec 3) (tag : Half) (n : Nat) (f : Fin 64 → Nat)
    (hm : m ≠ 0) (ht : (s.vreg 2 a.toNat).tag ≠ tag) : s.elemForm a m tag n f = trapWith .format := by
  have h2 : (decide (m = 0) || (s.vreg 2 a.toNat).tag == tag) = false := by
    rw [beq_eq_false_iff_ne.mpr ht, decide_eq_false hm]; rfl
  cases ht : tagValid tag <;> simp only [State.elemForm, ht, h2, check_true, check_false, bind_ok, bind_trapWith]

theorem State.wholeForm_ok (s : State) (a : BitVec 6) (tag : Half) (n : Nat) (f : Fin 64 → Nat)
    (ht : tagValid tag = true) :
    s.wholeForm a tag n f = .ok (s.land (.vector a.toNat tag
      (Vector.ofFn fun i => laneOf (laneWidth (tagCode tag)) (f i)) allLanes) n) := s.writeV_ok _ _ _ _ _ ht

/-- A form of the T unit over a register: the checks on its tag, then what it does with it. -/
theorem State.sourceForm_reg (s : State) {b : BitVec 6} (h : b.toNat < 32) (ok : Half → Except Stop Unit)
    (use : VReg → State → Except Stop State) (ht : tagValid (s.vreg 0 b.toNat).tag = true) :
    s.sourceForm b ok use =
      s.settle (ok (s.vreg 0 b.toNat).tag >>= fun _ => use (s.vreg 0 b.toNat) s) := by
  simp [State.sourceForm, State.readVAny, h, s.readV_ok 0 b ht, Except.map]

/-! ### The common frames of the scalar forms -/

theorem State.alu2_eq (s : State) (a b c : BitVec 6) (n : Nat) (f : Dword → Dword → Dword) :
    s.alu2 a b c n f = s.settle (((s.readS 0 b).2.readS 1 c).2.writeS a
      (f (s.readS 0 b).1 ((s.readS 0 b).2.readS 1 c).1) n) := rfl

theorem State.alu1_eq (s : State) (a b : BitVec 6) (f : Dword → Dword) :
    s.alu1 a b f = s.settle ((s.readS 0 b).2.writeS a (f (s.readS 0 b).1) 1) := rfl

/-! ### Memory accesses -/

theorem State.access_ok (s : State) (k : Fin 64) (c : Fin 4) (right : Right) (base : Nat) (as : List Nat)
    (h : s.accessTrap k c right base as = none) (h2 : ∀ a ∈ as, keyAbsent (s.keyOf k c a) = false) :
    s.access k c right base as = .ok (as.map (s.keyOf k c)) := by
  unfold State.access
  rw [h]
  have h3 : (as.map (s.keyOf k c)).find? keyAbsent = none := by
    rw [List.find?_eq_none]
    intro x hx
    obtain ⟨a, ha, rfl⟩ := List.mem_map.mp hx
    simp [h2 a ha]
  simp only [h3]

theorem State.access_trap (s : State) (k : Fin 64) (c : Fin 4) (right : Right) (base : Nat) (as : List Nat) {t : Trap}
    (h : s.accessTrap k c right base as = some t) : s.access k c right base as = .error (.trap t) := by
  unfold State.access
  rw [h]

/-- An access that stands no trap and no fault gives the keys of its bytes. -/
theorem State.access_keys {s : State} {k : Fin 64} {c : Fin 4} {right : Right} {base : Nat} {as ks : List Nat}
    (h : s.access k c right base as = .ok ks) : ks = as.map (s.keyOf k c) := by
  unfold State.access at h
  split at h
  · cases h
  · simp only at h
    split at h
    · cases h
    · cases h; rfl

end Sys2Proof.Machine
end

