-- ==== Sys2Proof/Safety.lean ====
section
/-! DEFINITION. What counts as a safe run: no step of it ends in a fault or a refusal. A trap, a kill or a STOPPED context
is no fault: the manual gives each of them an effect, and the machine goes on. -/

namespace Sys2Proof.Machine

/-- The state after n steps is t. -/
def Reaches (s : State) (n : Nat) (t : State) : Prop := Sys2Proof.core.run n s = .next t

/-- No run from the state, however long, ends in a fault or a refusal. -/
def Safe (s : State) : Prop := ∀ n, ∃ t, Reaches s n t

/-- A property that the state has and that every step keeps. -/
structure Invariant (P : State → Prop) (s : State) : Prop where
  now : P s
  kept : ∀ t u, P t → step t = .next u → P u

end Sys2Proof.Machine
end

