-- ==== Sys2Proof/Tests/Slice0.lean ====
section
/-! SUPPORT. Tests: a term that well-formedness refuses for each of its checks, words written out from the opcode table
and what they decode to, results worked from the manual, and for each statement with hypotheses a state and operands that
meet them, clause by clause. -/

set_option maxRecDepth 100000
set_option synthInstance.maxSize 4096
set_option Elab.async false

open Sys2Proof Sys2Proof.Machine Sys2Proof.Spec Sys2Proof.Config

/-! ### States of the tests -/

namespace Sys2Proof.Tests

/-- A context in task mode that issues a bundle of one NOP. -/
def base : State := State.reset.place 0x80000000
/-- The same with values in s1 and up. -/
def withS (s : State) (vs : List Dword) : State := s.modMe fun cx => { cx with sregs := loadRegs vs }
def trapped (s : State) : State := s.modMe fun cx => { cx with tm := true }
/-- Every output register is bound to channel 2. -/
def bound (s : State) : State :=
  { s with fbind := Vector.replicate 64 (Vector.replicate 4 (Vector.replicate 4 0x8000000200010000)) }
def withV (s : State) (r : Fin 32) (tag : Half) (lane : Word) : State :=
  s.modMe fun cx => { cx with vregs := cx.vregs.set r ⟨tag, Vector.replicate 64 lane⟩ }
def withLoops (s : State) (l : List LoopEntry) : State := s.modMe fun cx => { cx with loops := l }
def atCur (s : State) (f : Cursor → Cursor) : State := { s with cur := f s.cur }
/-- A bundle of an explicit S0 word behind a REP header, with this word of a unit in the repeat buffer. -/
def repeating (u : Fin 8) (w : Word) : State :=
  (atCur base fun c => { c with explicit := [0x90000000] }).modMe fun cx => { cx with repbuf := placedRep.set u (some w) }
/-- The results that an outcome has on their way: cycles left and what lands. -/
def sent : Host.Outcome State Fault Refusal → List (Nat × Landing)
  | .next t => t.me.flight.map fun f => (f.left, f.what)
  | _ => []
def goes : Host.Outcome State Fault Refusal → Bool
  | .next _ => true
  | _ => false
/-- The outcome is a next state of this kind. -/
def yields (o : Host.Outcome State Fault Refusal) (p : State → Bool) : Bool :=
  match o with
  | .next t => p t
  | _ => false
/-- The cause of the trap that an outcome has taken, and TADDR. -/
def caught : Host.Outcome State Fault Refusal → Byte × Dword
  | .next t => (t.me.tcause, t.me.taddr)
  | _ => (0, 0)

end Sys2Proof.Tests

open Sys2Proof.Tests

/-! ### Scalar forms: results worked by hand -/

theorem test_add_wraps : sent (exec (.add .s0 3 1 2) (withS base [0xFFFFFFFFFFFFFFFF, 2])) = [(1, .scalar 3 1)] := by
  decide +kernel
theorem test_sub : sent (exec (.sub .s1 3 1 2) (withS base [2, 3])) = [(1, .scalar 3 0xFFFFFFFFFFFFFFFF)] := by decide +kernel
theorem test_mulh_signed : sent (exec (.mulh .s0 1 1 2) (withS base [0xFFFFFFFFFFFFFFFF, 2])) =
    [(3, .scalar 1 0xFFFFFFFFFFFFFFFF)] := by decide +kernel
theorem test_mulhu : sent (exec (.mulhu .s0 1 1 2) (withS base [0xFFFFFFFFFFFFFFFF, 2])) = [(3, .scalar 1 1)] := by
  decide +kernel
theorem test_div_truncates : sent (exec (.div .s0 3 1 2) (withS base [0xFFFFFFFFFFFFFFF9, 2])) =
    [(18, .scalar 3 0xFFFFFFFFFFFFFFFD)] := by decide +kernel
theorem test_rem_sign : sent (exec (.rem .s0 3 1 2) (withS base [0xFFFFFFFFFFFFFFF9, 2])) =
    [(18, .scalar 3 0xFFFFFFFFFFFFFFFF)] := by decide +kernel
theorem test_sar_over : sent (exec (.sar .s0 3 1 2) (withS base [0x8000000000000000, 64])) =
    [(1, .scalar 3 0xFFFFFFFFFFFFFFFF)] := by decide +kernel
theorem test_shl_over : sent (exec (.shl .s0 3 1 2) (withS base [1, 64])) = [(1, .scalar 3 0)] := by decide +kernel
theorem test_fshl : sent (exec (.fshl .s0 3 1 2) (withS base [0x8000000000000000, 1, 1])) = [(1, .scalar 3 3)] := by
  decide +kernel
theorem test_clz_zero : sent (exec (.clz .s0 3 0) base) = [(1, .scalar 3 64)] := by decide +kernel
theorem test_ctz : sent (exec (.ctz .s0 3 1) (withS base [0x10])) = [(1, .scalar 3 4)] := by decide +kernel
theorem test_lih : sent (exec (.lih .s0 1 0x8000) (withS base [0x1234])) = [(1, .scalar 1 0x12348000)] := by decide +kernel
theorem test_addi_negative : sent (exec (.addi .s0 1 0xFFFF) (withS base [0])) = [(1, .scalar 1 0xFFFFFFFFFFFFFFFF)] := by
  decide +kernel
theorem test_cmp_signed : sent (exec (.cmp .s0 3 1 2 2) (withS base [0xFFFFFFFFFFFFFFFF, 0])) = [(1, .scalar 3 1)] := by
  decide +kernel
theorem test_cmp_unsigned : sent (exec (.cmp .s0 3 1 2 4) (withS base [0xFFFFFFFFFFFFFFFF, 0])) = [(1, .scalar 3 0)] := by
  decide +kernel
theorem test_qfroms_any : sent (exec (.qfroms .s0 5 1 1) (withS base [4])) = [(1, .pred 5 0xFFFFFFFFFFFFFFFF)] := by
  decide +kernel
theorem test_push_lands_on_fo : sent (exec (.mov .s0 33 1) (bound (withS base [7]))) = [(1, .push 1 7)] := by decide +kernel

/-! ### Scalar, predicate and control statements: their hypotheses are met -/

theorem test_meets_writable : Writable base 31 ∧ Writable (bound base) 35 ∧ ¬ Writable base 32 ∧
    ¬ Writable (afterC base 0 0) 35 := by unfold Writable; decide +kernel

theorem test_meets_division : srcC base 0 0 = 0 ∧
    (let s := withS base [0x8000000000000000, 0xFFFFFFFFFFFFFFFF]
     srcB s 1 = 0x8000000000000000 ∧ srcC s 1 2 = 0xFFFFFFFFFFFFFFFF ∧ srcC s 1 1 ≠ 0 ∧ srcC s 2 2 ≠ 0) := by decide +kernel

theorem test_meets_one_source : srcB base 0 = 0 ∧ srcB (withS base [1]) 1 ≠ 0 := by decide +kernel

theorem test_meets_quiet : Quiet base ∧
    (base.modMe fun cx => { cx with fi := cx.fi.set 3 [7, 8] }).me.fi.get 3 = [7, 8] := by unfold Quiet; decide +kernel

theorem test_meets_canonical : base.mem.wf ∧ goes (step base) = true := by decide +kernel
theorem test_meets_encoding : encode (.add .s0 31 35 0) = some 0x101F8C00 ∧ (Instr.add .s0 31 35 0).wellFormed = true ∧
    decode 0x901F8C00 = some (.add .s0 31 35 0) := by decide +kernel
theorem test_meets_memory : ([1, 2] : List Byte)[1]? = some 2 ∧ 0 + 8 ≤ peerBase ∧ 2 ^ 64 - 1 < 256 ^ 8 := by decide +kernel

/-- A step at a bundle of one NOP, and one behind a REP header that repeats every class. -/
theorem test_meets_step : base.agenda = [] ∧ base.phase = .issue 0 0 none ∧
    (let s0 := issuing base 0 0 none
     (s0.ctx 0 0).nextLatched = none ∧ (s0.ctx 0 0).overQuota = false ∧
     (match s0.bundleAt 0 0 with
      | .ok b => b.words == [0x80000000] && (s0.ctx 0 0).toIssue b.slots == [(0, 0x80000000)]
      | .error _ => false) = true) ∧ isRep 0x80000000 = false ∧ decode 0x80000000 = some .nop := by decide +kernel
theorem test_meets_rep_step : (let s := State.reset.place 0x833FC000
    let s0 := issuing s 0 0 none
    s.agenda = [] ∧ s.phase = .issue 0 0 none ∧ (s0.ctx 0 0).nextLatched = none ∧ (s0.ctx 0 0).overQuota = false ∧
    (match s0.bundleAt 0 0 with
      | .ok b => b.words == [0x833FC000]
      | .error _ => false) = true) ∧ isRep 0x833FC000 = true ∧ decode 0x833FC000 = some (.rep 0xFF 0) := by decide +kernel
theorem test_meets_agenda : ({ base with agenda := [(0, Instr.launchTake)] }).agenda = [(0, .launchTake)] ∧
    encode .launchTake = none ∧ ({ base with agenda := [(2, Instr.launchTake)] }).agenda = [(1 + 1, .launchTake)] := by
  decide +kernel

theorem test_meets_transfers : (Taken 0 (base.qreg 0 24) ∧ Taken 1 (base.qreg 0 24) ∧ Taken 2 (base.qreg 0 0) ∧
    Taken 3 (base.qreg 0 0)) ∧ (¬ Taken 0 (base.qreg 0 0) ∧ ¬ Taken 1 (base.qreg 0 0) ∧ ¬ Taken 2 (base.qreg 0 24) ∧
    ¬ Taken 3 (base.qreg 0 24)) ∧ (base.sreg 0 0).toNat % 4 = 0 ∧ ((withS base [3]).sreg 0 1).toNat % 4 ≠ 0 := by
  simp only [Taken]; decide +kernel
theorem test_meets_completion : Completes base ∧ base.cur.xfer = none ∧ base.me.loops = [] ∧
    (let s := withLoops (atCur base fun c => { c with addr := 8, next := 12 }) [⟨4, 8, 1⟩]
     Completes s ∧ s.cur.addr = 8) ∧
    (let s := withLoops (atCur base fun c => { c with addr := 8, next := 12 }) [⟨4, 8, 2⟩]
     Completes s ∧ ∀ e ∈ s.me.loops.head?, s.cur.addr = e.stop ∧ e.count ≠ 1) := by unfold Completes; decide +kernel
theorem test_meets_transfer_kinds : ∀ k ∈ ([.br, .brq, .jr, .call, .callr, .ret, .loop, .loopi] : List XferKind),
    Completes (noted base k 8 0 8) ∧ (noted base k 8 0 8).cur.xfer = some ⟨k, 8, 0, 8⟩ := by unfold Completes; decide +kernel
theorem test_meets_skip : (base.after 0 0 (BitVec.ofNat 64 placedAt)).toOption = some (BitVec.ofNat 64 (placedAt + 4)) := by
  decide +kernel
theorem test_meets_loop_tests :
    LoopIllegal (atCur base fun c => { c with addr := 0, next := 4 }) 0 ∧
    LoopIllegal (withLoops base (List.replicate 4 ⟨0, 4, 1⟩)) 8 ∧
    LoopIllegal (withLoops base [⟨0, 8, 1⟩]) 8 ∧ LoopIllegal (withLoops base [⟨0, 0, 1⟩]) 8 ∧
    ¬ LoopIllegal base (wordsOn base 0) ∧ (withS base [1]).sreg 0 1 ≠ 0 := by unfold LoopIllegal; decide +kernel
theorem test_meets_exit : (let s := atCur base fun c => { c with exit := true }
    s.cur.exit = true ∧ s.cur.stopped = false ∧ s.me.tm = false ∧ (trapped s).me.tm = true ∧ s.me.task = some 0 ∧
      (s.task 0).map (·.killed) = some none ∧ base.log = [] ∧ base.grouped = false) := by decide +kernel
theorem test_meets_quiet_form : base.me.tm = false ∧ base.me.flight = [] ∧ base.me.snapshot = [] ∧ base.me.held = [] ∧
    base.me.pbsr = 0 ∧ base.me.pbsw = 0 ∧ base.me.pbmem = 0 ∧ base.sketchBusy 0 base.me.task = false ∧
    (trapped base).me.tm = true ∧ (base.modMe fun cx => { cx with pbsr := 1 }).me.pbsr ≠ 0 := by decide +kernel
theorem test_meets_spawn : (let s := base.modTask 0 fun t => { t with ctxs := [0, 1, 2, 3] }
    s.me.task = some 0 ∧ ((s.task 0).map fun t => (t.handler, t.ctxs)) = some (false, [0, 1, 2, 3]) ∧
    (s.launch 0).isSome = true ∧ (s.ctx 0 3).state = .free ∧ (s.sreg 0 0).toNat % 4 = 0 ∧
    ((withS s [2]).sreg 0 1).toNat % 4 ≠ 0 ∧ s.cur.ctx = 0 ∧
    (s.task 0).map (·.killed) = some none ∧ ((s.modTask 0 fun t => { t with killed := some 3 }).task 0).map (·.killed.isSome) = some true) := by
  decide +kernel
theorem test_meets_rep : (let s := repeating 6 0x60C00000
    s.cur.explicit = [0x90000000] ∧ unitOf 0x90000000 = 1 ∧ (0x40#8).getLsbD 1 = false ∧ (0x02#8).getLsbD 1 = true ∧
    (∀ u : Fin 8, (0x40#8).getLsbD u = true → u = 6) ∧ s.me.repbuf.get 6 = some 0x60C00000) ∧
    (repeating 6 0x61800000).me.repbuf.get 6 = some 0x61800000 ∧ (repeating 3 0xB1000200).me.repbuf.get 3 = some 0xB1000200 ∧
    base.me.repbuf.get 0 = none := by decide +kernel
theorem test_meets_rep_ranges : StaysInRange 6 0x60C00000 255 ∧ ¬ StaysInRange 6 0x60C00000 256 ∧
    StaysInRange 6 0x61800000 127 ∧ ¬ StaysInRange 6 0x61800000 128 ∧ StaysInRange 3 0xB1000200 1023 ∧
    ¬ StaysInRange 3 0xB1000200 0x3FFF ∧ StaysInRange 0 0x60C00000 0x1FFF := by unfold StaysInRange wideK drainK; decide +kernel
theorem test_meets_trap : (let s := atCur base fun c => { c with soft := some 9 }
    s.cur.soft = some 9 ∧ s.cur.exit = false ∧ s.cur.stopped = false ∧ s.me.tm = false ∧ s.me.ending = false ∧
    Accessible s .write (s.me.tsp - 64).toNat (addrRun (s.me.tsp - 64).toNat 64)) ∧ (trapped base).me.ending = false := by
  unfold Accessible AccessibleBy MayTouch; decide +kernel
theorem test_meets_rett : (let s := (trapped base).modMe fun cx => { cx with tsp := cx.tsp - 64 }
    s.me.tm = true ∧ s.me.waitrec = none ∧ rangeOf 0 s.me.tsp.toNat = .loc ∧
    Accessible s .read s.me.tsp.toNat (addrRun s.me.tsp.toNat 64)) := by
  unfold Accessible AccessibleBy MayTouch; decide +kernel
theorem test_meets_rett_main : (let s := (trapped base).modMe fun cx => { cx with tsp := BitVec.ofNat 64 placedAt }
    s.me.tm = true ∧ rangeOf 0 s.me.tsp.toNat = .main ∧ Accessible s .read s.me.tsp.toNat (addrRun s.me.tsp.toNat 64) ∧
    OnePage s (addrRun s.me.tsp.toNat 64)) := by
  unfold Accessible AccessibleBy MayTouch OnePage; decide +kernel
theorem test_meets_sysrd : Writable base 31 ∧ base.me.pbsr < 2 ^ 40 ∧ base.me.pbsw < 2 ^ 40 ∧ base.me.pbmem < 2 ^ 40 ∧
    (0x3F#8).toNat = 0x30 + 15 ∧ (0x6F#8).toNat = 0x68 + 7 := by unfold Writable; decide +kernel
theorem test_meets_syswr : base.me.tm = false ∧ (0x2F#8).toNat < 0x30 ∧ 0x40 ≤ (0x40#8).toNat ∧ (trapped base).me.tm = true := by
  decide +kernel

/-! ### Well-formed operands: one term for each check, which the check refuses -/

theorem test_wf_control : ∀ i ∈ ([.brq 25 0 0, .jr 32, .callr 32, .ret 35, .quiet 32 0, .ctxsv 32, .ctxrs 32, .blz 0 32 0 0,
    .blzobj 0 32, .loop 32 0, .spawn 32 0 0 0, .spawn 0 32 0 0, .spawn 0 24 0 8, .tbinit 0 36, .tbarr 36 0, .tbwait 36 0 0,
    .tbwait 0 36 0, .fence 6 0, .fence 5 15, .sysrd 36 0, .sysrd 0 7, .syswr 0 0x71, .blzrd 32 0 0, .blzrd 0 3 0,
    .blzwt 32 0 0, .blzwt 0 32 0] : List Instr), i.wellFormed = false := by decide

theorem test_wf_scalar : ∀ i ∈ ([.add .s0 36 0 0, .add .s0 0 36 0, .add .s0 0 0 36, .fshl .s0 32 0 0, .fshl .s0 0 36 0,
    .sel .s0 0 0 36, .addi .s0 32 0, .lih .s0 32 0, .shli .s0 36 0 0, .mov .s0 0 36, .cmp .s0 0 0 0 10, .cmp .s0 36 0 0 0,
    .cmpi .s0 0 0 0 10, .cmpi .s0 0 36 0 0, .li .s0 36 0, .qand .s0 24 0 0, .qand .s0 0 25 0, .qand .s0 0 0 25,
    .qnot .s0 24 0, .qnot .s0 0 25, .qfroms .s0 24 0 0, .qfroms .s0 0 36 0, .qtos .s0 36 0, .qtos .s0 0 25] : List Instr),
    i.wellFormed = false := by decide

theorem test_wf_memory : ∀ i ∈ ([.ldw 32 0 0, .ldw 0 32 0, .stw 36 0 0, .stw 0 32 0, .ldv 32 0 0 0, .ldv 0 32 0 0,
    .stv 48 0 0, .stv 0 32 0, .stvb 32 0 0, .stvb 0 32 0, .stvb 0 0 32, .ldvt 29 0 0, .ldvt 0 32 0, .ldvt 0 0 32,
    .gath 32 0 0 0, .gath 0 32 0 0, .gath 0 0 32 0, .stmsk 25 0 0, .stmsk 0 32 0, .ldmsk 24 0 0, .ldmsk 0 32 0,
    .gstv 32 0 0 0 0, .gstv 0 0 0 25 0, .aadd 32 0 0 0 0 0, .aadd 0 32 0 0 0 0, .aadd 0 0 32 0 0 0, .amin 32 0 0 0 0 0 0,
    .afadd 0 0 32 0 0, .ared 0 0 0 3, .ared 32 0 0 0, .ldaq 32 0 0, .strl 0 32 0, .cpy 0 0 0 3, .cpy 32 0 0 0, .cpysh 32 0,
    .cpysh 0 4, .cpysh 0 15, .cpysh 0 32, .cbadv 16 0, .cbwt 16 0, .ownf 32 0 0, .send 32 0 0, .send 0 32 0,
    .send 0 0 32] : List Instr), i.wellFormed = false := by decide

theorem test_wf_vector : ∀ i ∈ ([.vadd .v0 32 0 0 0 0, .vadd .v0 0 32 0 0 0, .vadd .v0 0 0 32 0 0, .vmin .v0 0 0 32 0,
    .vabs .v0 32 0 0 0, .vnot .v0 0 32 0, .vcmp .v0 24 0 0 0, .vcmp .v0 0 0 0 7, .vsel .v0 0 0 32 0, .vcvt .v0 0 0 0x0C 0 0 0,
    .vcvt .v0 0 0 0x03 0 0 0, .vretag .v0 32 0, .vexp2 32 0 0 0, .vredsum .v0 0 0 0 3, .vredmax .v0 0 0 3, .vscan .v0 0 0 0 0 3,
    .vbcst .v0 0 32 0, .vperm .v0 0 0 32, .vslide .v0 0 0 36 0, .vexts .v0 36 0 0 0, .vinss .v0 0 36 0, .vmov .v0 32 33 0,
    .vmov .v0 32 0 1, .vmov .v0 48 0 0, .vmov .v0 0 48 0] : List Instr), i.wellFormed = false := by decide

theorem test_wf_matrix : ∀ i ∈ ([.orels 32, .oload 32 0 0, .oload 0 32 0, .oload 0 0 36, .xpush 32 0, .xacc 0 0 1, .xsexp 0 36 0 0,
    .xsexp 0 0 1 1, .xgexp 32 0, .skdef 0 36, .skfold 0 0 32 0, .skfold 0 0 0 32, .skshr 16, .skacc 16 0, .skacc 0 16,
    .skrdl 32 0 0, .skrdl 0 16 0, .skrdl 0 0 36, .skwrl 16 0 0, .skwrl 0 32 0, .sksil 0 0 0 3, .sksil 0 16 0 0, .skclr 16 0 0,
    .skclr 0 1 1, .skstat 0 16, .txpose 0 0 3, .txpose 32 0 0, .txpose 0 48 0, .tunpack 0 48 0 0, .tpack 0 0 0 0, .texpand 32 0 0 0,
    .tctld 4 0, .tctld 0 48, .tcvt 0 0 0x0F 0 0 0, .tintlv 0 0 32 0] : List Instr), i.wellFormed = false := by decide

theorem test_wf_events : ∀ i ∈ ([.reductionContribution 0 0 3 0 0 0, .hostBar2Read (2 ^ 40) 1,
    .hostBar2Write (2 ^ 40) [0], .remoteMessageDelivery 0 0 0 0 0 0 0 []] : List Instr), i.wellFormed = false := by decide +kernel

theorem test_wf_slot : (Instr.ringSlotReceive 0 0 false (.write (List.replicate 257 0)) 0).wellFormed = false ∧
    (Instr.ringSlotReceive 0 4 false (.atomic .add (List.replicate 8 0)) 0).wellFormed = false ∧
    (Instr.ringSlotReceive 0 0 false (.atomic .fadd (List.replicate 8 0)) 0).wellFormed = false := by decide

/-- Words that no row takes: reserved opcodes, and fields that must be zero. -/
theorem test_undecoded : decode 0x07000000 = none ∧ decode 0x1B000000 = none ∧ decode 0x39800000 = none ∧
    decode 0x4A000000 = none ∧ decode 0x5A000000 = none ∧ decode 0x65C00000 = none ∧ decode 0x71C00000 = none ∧
    decode 0x00000001 = none ∧ decode 0x10000001 = none ∧ decode 0x02400001 = none ∧ decode 0x04C60000 = none := by
  decide +kernel
theorem test_decode_C1 : ∀ p ∈ ([(0x006B5A6C, .br 2841196), (0x00989A6C, .brq 24 2 6764), (0x00C02400, .jr 9), (0x012B5A6C, .call 2841196),
    (0x01402400, .callr 9), (0x01802400, .ret 9), (0x01C55A6C, .loop 5 23148), (0x022C5A6C, .loopi 44 23148),
    (0x02802401, .quiet 9 1), (0x02C62023, .spawn 6 8 2 3), (0x031B1A6C, .rep 108 6764),
    (0x03405A6C, .trap 23148), (0x03C25A6C, .waitb 2 23148), (0x04062400, .tbinit 6 9),
    (0x04450060, .tbarr 5 6), (0x04852460, .tbwait 5 9 6), (0x04C5000B, .fence 5 11), (0x0505003A, .sysrd 5 58),
    (0x05450021, .syswr 5 33), (0x058E2760, .blz 14 9 6 6)] : List (Word × Instr)),
    decode p.1 = some p.2 := by decide

theorem test_decode_C2 : ∀ p ∈ ([(0x05CE2400, .blzobj 14 9), (0x0605002E, .blzrd 5 2 14), (0x0645240E, .blzwt 5 9 14),
    (0x86801400, .ctxsv 5), (0x86C02400, .ctxrs 9), (0x00000000, .nop), (0x02400000, .exit),
    (0x83800000, .rett)] : List (Word × Instr)),
    decode p.1 = some p.2 := by decide

theorem test_decode_S1 : ∀ p ∈ ([(0x200524C0, .add .s1 5 9 12), (0x204524C0, .sub .s1 5 9 12), (0x20855A6C, .addi .s1 5 23148),
    (0x20C524C0, .mul .s1 5 9 12), (0x210524C0, .mulh .s1 5 9 12), (0x214524C0, .mulhu .s1 5 9 12),
    (0x218524C0, .div .s1 5 9 12), (0x21C524C0, .divu .s1 5 9 12), (0x220524C0, .rem .s1 5 9 12),
    (0x224524C0, .remu .s1 5 9 12), (0x228524C0, .and .s1 5 9 12), (0x22C524C0, .or .s1 5 9 12),
    (0x230524C0, .xor .s1 5 9 12), (0x23455A6C, .andi .s1 5 23148), (0x23855A6C, .ori .s1 5 23148),
    (0x23C55A6C, .xori .s1 5 23148), (0x240524C0, .shl .s1 5 9 12), (0x244524C0, .shr .s1 5 9 12),
    (0x248524C0, .sar .s1 5 9 12), (0x24C526C0, .shli .s1 5 9 44)] : List (Word × Instr)),
    decode p.1 = some p.2 := by decide

theorem test_decode_S2 : ∀ p ∈ ([(0x250526C0, .shri .s1 5 9 44), (0x254526C0, .sari .s1 5 9 44), (0x258524C0, .fshl .s1 5 9 12),
    (0x25C524C0, .fshr .s1 5 9 12), (0x26052400, .clz .s1 5 9), (0x26452400, .ctz .s1 5 9),
    (0x26852400, .popc .s1 5 9), (0x26C524C0, .min .s1 5 9 12), (0x270524C0, .max .s1 5 9 12),
    (0x274524C0, .minu .s1 5 9 12), (0x278524C0, .maxu .s1 5 9 12), (0x27C524C0, .sel .s1 5 9 12),
    (0x280524C7, .cmp .s1 5 9 12 7), (0x284526C8, .cmpi .s1 5 9 44 8), (0x28855A6C, .li .s1 5 23148),
    (0x28C55A6C, .lih .s1 5 23148), (0x29052400, .mov .s1 5 9), (0x294524C0, .qand .s1 5 9 12),
    (0x298524C0, .qor .s1 5 9 12), (0x29C524C0, .qxor .s1 5 9 12)] : List (Word × Instr)),
    decode p.1 = some p.2 := by decide

theorem test_decode_S3 : ∀ p ∈ ([(0x2A052400, .qnot .s1 5 9), (0x2A452401, .qfroms .s1 5 9 1), (0x2A852400, .qtos .s1 5 9),
    (0x2AC52400, .qpopc .s1 5 9)] : List (Word × Instr)),
    decode p.1 = some p.2 := by decide

theorem test_decode_M1 : ∀ p ∈ ([(0x3005266C, .ldb 5 9 620), (0x3045266C, .ldbz 5 9 620), (0x3085266C, .ldh 5 9 620),
    (0x30C5266C, .ldhz 5 9 620), (0x3105266C, .ldw 5 9 620), (0x3145266C, .ldwz 5 9 620),
    (0x3185266C, .ldd 5 9 620), (0x31C5266C, .stb 5 9 620), (0x3205266C, .sth 5 9 620),
    (0x3245266C, .stw 5 9 620), (0x3285266C, .std 5 9 620), (0x32C526CE, .ldv 5 9 44 14),
    (0x3305266C, .stv 5 9 620), (0x334524C0, .stvb 5 9 12), (0x339C24C0, .ldvt 28 9 12),
    (0x33C524CE, .gath 5 9 12 14), (0x340524CE, .scat 5 9 12 14), (0x3445266C, .stmsk 5 9 620),
    (0x3485266C, .ldmsk 5 9 620), (0x34C5A4CE, .gstv 5 1 9 12 14)] : List (Word × Instr)),
    decode p.1 = some p.2 := by decide

theorem test_decode_M2 : ∀ p ∈ ([(0x350524C7, .aadd 5 9 12 1 1 1), (0x354524CF, .amin 5 9 12 1 1 1 1), (0x358524CF, .amax 5 9 12 1 1 1 1),
    (0x35C524C7, .aand 5 9 12 1 1 1), (0x360524C7, .aor 5 9 12 1 1 1), (0x364524C7, .axor 5 9 12 1 1 1),
    (0x368524C7, .aswp 5 9 12 1 1 1), (0x36C524C7, .acas 5 9 12 1 1 1), (0x370524C7, .afadd 5 9 12 1 1),
    (0x374524C2, .ared 5 9 12 2), (0x37852401, .ldaq 5 9 1), (0x37C52401, .strl 5 9 1),
    (0x38052450, .cpy 5 9 1 1), (0x38450013, .cpysh 5 19), (0x38855A6C, .cbadv 5 23148),
    (0x38C55A6C, .cbwt 5 23148), (0x390024C1, .ownf 9 12 1), (0x394524C0, .send 5 9 12)] : List (Word × Instr)),
    decode p.1 = some p.2 := by decide

theorem test_decode_V1 : ∀ p ∈ ([(0x500524CE, .vadd .v1 5 9 12 1 6), (0x504524CE, .vsub .v1 5 9 12 1 6), (0x508524CE, .vmul .v1 5 9 12 1 6),
    (0x50C524CE, .vfma .v1 5 9 12 1 6), (0x510524CE, .vfms .v1 5 9 12 1 6), (0x514524C6, .vmin .v1 5 9 12 6),
    (0x518524C6, .vmax .v1 5 9 12 6), (0x51C5240E, .vabs .v1 5 9 1 6), (0x5205240E, .vneg .v1 5 9 1 6),
    (0x524524C6, .vand .v1 5 9 12 6), (0x528524C6, .vor .v1 5 9 12 6), (0x52C524C6, .vxor .v1 5 9 12 6),
    (0x53052406, .vnot .v1 5 9 6), (0x534524C6, .vshl .v1 5 9 12 6), (0x538524C6, .vshr .v1 5 9 12 6),
    (0x53C524C6, .vsar .v1 5 9 12 6), (0x540524C6, .vfshl .v1 5 9 12 6), (0x544524C6, .vfshr .v1 5 9 12 6),
    (0x54852406, .vclz .v1 5 9 6), (0x54C52406, .vpopc .v1 5 9 6)] : List (Word × Instr)),
    decode p.1 = some p.2 := by decide

theorem test_decode_V2 : ∀ p ∈ ([(0x550524C6, .vcmp .v1 5 9 12 6), (0x554524CE, .vsel .v1 5 9 12 14), (0x5585265E, .vcvt .v1 5 9 37 1 1 2),
    (0x55C55A6C, .vretag .v1 5 23148), (0x4605240E, .vexp2 5 9 1 6), (0x4645240E, .vlog2 5 9 1 6),
    (0x4685240E, .vrcp 5 9 1 6), (0x46C5240E, .vrsq 5 9 1 6), (0x5705240A, .vredsum .v1 5 9 1 2),
    (0x57452401, .vredmax .v1 5 9 1), (0x57852402, .vredmin .v1 5 9 2), (0x57C5240E, .vscan .v1 5 9 1 1 2),
    (0x580526C0, .vbcst .v1 5 9 44), (0x584524C0, .vperm .v1 5 9 12), (0x588524C1, .vslide .v1 5 9 12 1),
    (0x58C524C1, .vexts .v1 5 9 12 1), (0x590524C0, .vinss .v1 5 9 12), (0x59452405, .vmov .v1 5 9 5),
    (0x59855A6C, .vli .v1 5 23148), (0x59C50000, .vnfc .v1 5)] : List (Word × Instr)),
    decode p.1 = some p.2 := by decide

theorem test_decode_X1 : ∀ p ∈ ([(0x60255A6C, .oclaim 1 5 23148), (0x60450000, .orels 5), (0x608524C0, .oload 5 9 12),
    (0x60C5006C, .xpush 5 108), (0x6105006C, .xshft 5 108), (0x614504E0, .xacc 5 1 14),
    (0x6185DB2C, .xdrn 5 1 2 108 44), (0x61AA1B2C, .xdrnRaw 5 108 44), (0x61C55A6C, .xclr 5 23148),
    (0x62050000, .xnorm 5), (0x624524C0, .xsexp 5 9 12 0), (0x62852400, .xgexp 5 9), (0x62C52400, .skdef 5 9),
    (0x631524C0, .skfold 1 5 9 12), (0x6355B18C, .skfoldo 1 5 44 12 12), (0x63850000, .skshr 5),
    (0x63C52400, .skacc 5 9), (0x640524C0, .skrdl 5 9 12), (0x644524C0, .skrdr 5 9 12),
    (0x648524C0, .skwrl 5 9 12)] : List (Word × Instr)),
    decode p.1 = some p.2 := by decide

theorem test_decode_X2 : ∀ p ∈ ([(0x64C524C0, .skwrr 5 9 12), (0x65052406, .sksil 5 9 1 2), (0x65452400, .skclr 5 9 0),
    (0x65852400, .skstat 5 9)] : List (Word × Instr)),
    decode p.1 = some p.2 := by decide

theorem test_decode_T : ∀ p ∈ ([(0x70052402, .txpose 5 9 2), (0x704524C2, .tunpack 5 9 12 2), (0x708524C3, .tpack 5 9 12 3),
    (0x70C524C2, .texpand 5 9 12 2), (0x71032400, .tctld 3 9), (0x7145265E, .tcvt 5 9 37 1 1 2),
    (0x718524C2, .tintlv 5 9 12 2)] : List (Word × Instr)),
    decode p.1 = some p.2 := by decide
/-! ### Barriers, accesses and streams -/

namespace Sys2Proof.Tests

/-- s1 names main memory, s2 local memory, s3 the landing, s4 no page, s5 an odd byte. -/
def places : State := withS base [BitVec.ofNat 64 (placedAt + 0x100), BitVec.ofNat 64 locbase, BitVec.ofNat 64 lbase, 0x10,
  BitVec.ofNat 64 (placedAt + 1)]
/-- The launch names tb2, and its record stands in cluster 0. -/
def barred : State :=
  { base with
    launches := base.launches.map fun l => { l with tbset := 4 }
    barriers := base.barriers.set 0 [Barrier.new 0 0 2 1] }
/-- Lanes 0 and 63 active under q5. -/
def masked (s : State) : State := s.modMe fun cx => { cx with preds := cx.preds.set 5 0x8000000000000001 }
/-- A producer ring cb3 of four tiles. -/
def ringed (role : Bool) : State :=
  base.modCore 0 fun co => { co with rings := co.rings.set 3 { Ring.reset with holder := some 0, role := role, len := 4 } }
/-- A result of the S unit on its way. -/
def onWay (id left : Nat) (what : Landing) : Flight := ⟨id, left, false, false, [], 0, 1, what⟩
/-- An access of main memory on its way, behind nothing, of single-copy-atomic units of n bytes. -/
def access (id n : Nat) (act : MemAct) : Async :=
  { id := id, whole := id, addr := 0, act := act, unit := n, places := List.range n, got := [], runs := [], charge := 8
    kind := .strong, acquire := false, releases := false, after := [], within := [], waiting := none, suspended := false
    overtaken := false, fresh := false }
/-- One access of context 0 in flight, to be made. -/
def asyncOf (n : Nat) (act : MemAct) : State := base.modMe fun cx => { cx with pbmem := 8, async := [access 9 n act] }
/-- The machine at the end of a cycle, when no bundle issues. -/
def resting (s : State) : State := { s with phase := .tick }

end Sys2Proof.Tests

theorem test_meets_barrier : barred.me.task = some 0 ∧ (barred.task 0).map (fun t => (t.core, t.launch, t.group, t.rank)) =
      some (0, 0, 0, 0) ∧ barred.barrierList 0 = [Barrier.new 0 0 2 1] ∧ base.barrierList 0 = [] ∧ barred.barq = [] ∧
    (let r := Barrier.new 0 0 2 1
     r.launch = 0 ∧ r.group = 0 ∧ r.name = (2#3).toNat ∧ r.size = 1 ∧ r.pm.testBit 0 = true ∧ r.arrived = [] ∧
     ({ r with pm := 0 }).pm.testBit 0 = false ∧ Writable barred 31 ∧ ¬ Writable barred 35) ∧
    (srcB (withS barred [1]) 1).toNat = 2 ^ 1 - 1 ∧ (srcB barred 0).toNat = 0 ∧ (srcB (withS barred [2]) 1).toNat = 2 ^ 1 := by
  unfold Writable; decide +kernel
theorem test_meets_arrivals : (let r := { Barrier.new 0 0 2 1 with arrived := [(0, true)], arrivedNext := [(0, true)] }
     (∃ p ∈ r.arrived, p.1 = 0) ∧ (∃ p ∈ r.arrivedNext, p.1 = 0) ∧ r.pm.testBit 0 = true) ∧
    (let m : BarMsg := ⟨7, 0, 0, 0, 2, .init 1⟩
     let s := { barred with barq := [m] }
     s.barq = [] ++ [m] ∧ m.name = 2 ∧ m.task = 0 ∧ (1 : Dword).getLsbD 0 = true ∧ (2 : Dword).getLsbD 0 = false) ∧
    (let on (i : Nat) : BarMsg := ⟨7, 0, 0, 0, 2, .arrive i⟩
     (∀ y ∈ [on 1, on 2], y.name = 2 ∧ y.task = 0) ∧
     (let r := Barrier.new 0 0 2 2
      r.arrived = [] ∧ r.pm.testBit 0 = true ∧ 1 ∈ ranksOf r.pm)) := by
  decide +kernel
theorem test_meets_scalar_access :
    (∀ n ∈ [1, 2, 4, 8], ∀ r ∈ [1, 2, 3], (places.sreg 0 r).toNat % n = 0 ∧
      Accessible places .read (places.sreg 0 r).toNat (addrRun (places.sreg 0 r).toNat n) ∧
      Accessible places .write (places.sreg 0 r).toNat (addrRun (places.sreg 0 r).toNat n)) ∧
    rangeOf 0 (places.sreg 0 1).toNat = .main ∧ rangeOf 0 (places.sreg 0 2).toNat = .loc ∧
    rangeOf 0 (places.sreg 0 3).toNat = .own ∧ OnePage places (addrRun (places.sreg 0 1).toNat 8) := by
  unfold Accessible AccessibleBy MayTouch OnePage; decide +kernel
theorem test_meets_access_traps : (places.sreg 0 5).toNat % 2 ≠ 0 ∧
    ((places.accessTrap 0 0 .read 0x10 (addrRun 0x10 8)).map (·.cause)) = some .window ∧
    (∀ a ∈ addrRun placedAt 8, a < 2 ^ 64 ∧ rangeOf 0 a = rangeOf 0 placedAt) := by decide +kernel
theorem test_unaligned_load : caught (exec (.ldw 3 5 0) places) = (1, BitVec.ofNat 64 (placedAt + 1)) := by decide +kernel

theorem test_meets_vector_access :
    (let v := places.vreg 2 0
     tagValid v.tag = true ∧ tagCode v.tag ≠ 0x0F ∧ codeWhole (tagCode v.tag) = true ∧ mkTag 0 0 = v.tag ∧ imageSize v.tag = 256) ∧
    (∀ r ∈ [1, 2, 3], (places.sreg 0 r).toNat % 8 = 0 ∧
      Accessible places .read (places.sreg 0 r).toNat (addrRun (places.sreg 0 r).toNat 256) ∧
      Accessible places .write (places.sreg 0 r).toNat (addrRun (places.sreg 0 r).toNat 256)) ∧
    (places.sreg 1 0).toNat % 256 + ((places.sreg 1 0).toNat / 256 % 256 + 1) ≤ 256 := by
  unfold Accessible AccessibleBy MayTouch; decide +kernel
theorem test_meets_lane_access : (let s := masked places
    let w := widthOf (tagCode (s.vreg 2 0).tag) / 8
    w = 4 ∧ lanesIn (s.qreg 1 5) = [0, 63] ∧ lanesIn (s.qreg 1 0) = [] ∧
    Accessible s .write (s.sreg 0 1).toNat ((lanesIn (s.qreg 1 5)).flatMap fun i => addrRun ((s.sreg 0 1).toNat + i.val * w) w) ∧
    s.me.blk = 0 ∧ (s.sreg 1 0).toNat % w = 0 ∧
    (∀ j < 4, Accessible s .read (s.sreg 0 1).toNat (blockBytes (s.sreg 0 1) (s.sreg 1 0) w j)) ∧
    ((((withV s 2 0x0006 0).laneAddresses (s.sreg 0 1) 2 0 w).toOption.map (·.length)) = some 64)) := by
  unfold Accessible AccessibleBy MayTouch; decide +kernel
theorem test_meets_lane_bytes : (let s := withV places 2 0x0006 0
    let lanes := (lanesIn (s.mask 0)).map fun i => (i, s.sreg 0 1 + ((s.vreg 1 2).lanes.get i).signExtend 64)
    lanes.length = 64 ∧ (lanes.all fun l => l.2.toNat % 4 == 0) = true ∧ lanesIn ((masked s).mask 0) ≠ [] ∧
    Accessible s .read (s.sreg 0 1).toNat (lanes.flatMap fun l => addrRun l.2.toNat 4) ∧
    Accessible s .write (s.sreg 0 1).toNat (lanes.flatMap fun l => addrRun l.2.toNat 4)) ∧
    lanesIn (base.mask 1) = [] := by unfold Accessible AccessibleBy MayTouch; decide +kernel
theorem test_meets_window_word : (let s : State := { places with
      regs := { places.regs with rdwin := places.regs.rdwin.set 1 ⟨BitVec.ofNat 64 placedAt, 0x8000000000000001⟩ } }
    let a := (s.sreg 0 1).toNat
    a % 8 = 0 ∧ rangeOf 0 a = .main ∧ Accessible s .write a (addrRun a 8) ∧
    ∀ e ∈ s.entryOf 0 0 a, InWindow s 1 (e.place a).1 (e.place a).2) ∧ (places.entryOf 0 0 (places.sreg 0 1).toNat).isSome = true := by
  unfold Accessible AccessibleBy MayTouch InWindow Within; decide +kernel
theorem test_atomic_add_word : atomResult .add 4 0xFFFFFFFF 1 = 0 ∧ atomResult (.min true) 8 0xFFFFFFFFFFFFFFFF 1 = 1 := by
  decide +kernel
theorem test_atomic_min_signed : atomResult (.min false) 4 0xFFFFFFFF 1 = 0xFFFFFFFF ∧
    atomResult (.cas 5) 8 5 7 = 7 ∧ atomResult (.cas 5) 8 6 7 = 6 := by decide +kernel

theorem test_meets_landing : (let s := base.modMe fun cx => { cx with flight := [onWay 0 1 (.scalar 31 7)] }
    (s.core 0).held = false ∧ (s.core 0).memq = [] ∧ (∀ d : Fin 4, d ≠ 0 → (s.ctx 0 d).flight = []) ∧
    (s.ctx 0 0).state ≠ .stopped ∧ (s.ctx 0 0).flight.map (fun f => (f.overtaken, f.what.ofContext)) = [(false, true)] ∧
    (s.ctx 0 0).tm = false) ∧
    (let s := (trapped base).modMe fun cx => { cx with flight := [onWay 4 1 (.scalar 31 7)], tmFrom := 5 }
     (s.ctx 0 0).tm = true ∧ (s.ctx 0 0).flight.map (fun f => (f.id < (s.ctx 0 0).tmFrom : Bool)) = [true] ∧
     (s.core 0).held = false ∧ (s.core 0).memq = [] ∧ (∀ d : Fin 4, d ≠ 0 → (s.ctx 0 d).flight = [])) := by
  decide +kernel
theorem test_result_lands : (match exec (.resultLand 0) (base.modMe fun cx =>
      { cx with flight := [onWay 0 1 (.scalar 31 7), onWay 1 2 (.scalar 30 8)] }) with
    | .next t => (t.me.sregs.get 31, t.me.sregs.get 30, t.me.flight.map (·.left))
    | _ => (0, 0, [])) = (7, 0, [1]) := by decide +kernel
theorem test_meets_on_chip_store : (let m : MemOp := ⟨1, 0, 0, 0, .write [(localKey 0 0, 1), (localKey 0 1, 2)], false, false, []⟩
    let s := base.modCore 0 fun co => { co with memq := [m] }
    (s.core 0).memq = [m] ∧ m.left ≤ 1 ∧ s.log = [] ∧ (s.core 0).held = false ∧ ([localKey 0 0, localKey 0 1] : List Nat).Nodup) := by decide +kernel
theorem test_meets_async : (let a := access 9 2 (.read [placedAt, placedAt + 1] (.scalar 31 true))
    let s := asyncOf 2 a.act
    s.me.async = [a] ∧ Sys2Proof.Spec.Free s a ∧ a.unit = 2 ∧ a.places = List.range 2 ∧ a.got = [] ∧ a.overtaken = false ∧
      s.me.flight = [] ∧ s.me.claimed = 0) ∧
    (let a := access 9 1 (.write [(hbmBytes - 1, 1)])
     let s := asyncOf 1 a.act
     s.me.async = [a] ∧ Sys2Proof.Spec.Free s a) ∧ hbmBytes - 1 < hbmBytes ∧
    (let a := access 9 8 (.atomic (List.range 8) .add 5 31)
     let s := asyncOf 8 a.act
     s.me.async = [a] ∧ Sys2Proof.Spec.Free s a ∧ (List.range 8).length = 8 ∧ (List.range 8).Nodup ∧ a.got = []) := by
  unfold Sys2Proof.Spec.Free; decide +kernel
theorem test_meets_poison :
    (let a := access 9 8 (.read (addrRun placedAt 8) (.scalar 31 false))
     let s := { asyncOf 8 a.act with poison := [placedAt + 3] }
     (∃ x ∈ addrRun placedAt 8, x ∈ s.poison) ∧ s.me.async = [a] ∧ a.whole = a.id ∧ a.fresh = false ∧ a.suspended = false ∧
     a.after = [] ∧ a.within = [] ∧ s.log = [] ∧ a.unit = (addrRun placedAt 8).length ∧ a.places = List.range 8 ∧ a.got = [] ∧
     a.id ∉ s.me.blockedOn) ∧
    (let m : MemOp := ⟨1, 0, 9, 64, .read [localKey 0 64] (.scalar 31 false), false, false, []⟩
     let f := onWay 9 1 (.load (.scalar 31 false))
     let s := { (base.modMe fun cx => { cx with flight := [f] }).modCore 0 fun co => { co with memq := [m] } with
       poison := [localKey 0 64] }
     (s.core 0).held = false ∧ (s.core 0).memq = [m] ∧ m.left ≤ 1 ∧ (∀ d : Fin 4, d ≠ 0 → (s.ctx 0 d).flight = []) ∧
     s.me.flight = [f] ∧ f.id = m.id ∧ s.me.snapshot = [] ∧ m.id ∉ s.me.blockedOn ∧
     yields (exec (.resultLand 0) s) fun t => t.me.latched == [(Cause.poison, (64 : Dword), false)] && t.me.flight == []) := by
  decide +kernel
theorem test_store_is_performed : (match exec (.storeOrderingPoint 0 0 9) (asyncOf 1 (.write [(hbmBytes - 1, 1)])) with
    | .next t => (t.mem.read (hbmBytes - 1), t.me.pbmem)
    | _ => (0, 1)) = (1, 0) := by decide +kernel

theorem test_meets_copy :
    let set (s : State) (f : CopyRegs → CopyRegs) : State := s.modMe fun cx => { cx with copy := f cx.copy }
    let held := places.modCore 0 fun co => { co with
      slots := co.slots.set 31 { Slot.reset with state := .held, holder := 0 } }
    let allowed (s : State) (x : BitVec 2) (src dst : Side) : Prop :=
      let r := s.me.copy
      r.rows ≠ 0 ∧ r.rowb ≠ 0 ∧ r.egeoReserved = 0 ∧ r.ecfg &&& ~~~0xF0FB = 0 ∧ 1 ≤ r.sizeClass ∧ r.sizeClass ≤ 8 ∧
      r.policy < 2 ∧ (x ≠ 0 → r.rowb % 256 = 0) ∧ r.bound = false ∧ (x = 1 → src.isLocal = true) ∧ (x = 2 → dst.isLocal = true)
    let main := sideOf 0 (places.sreg 0 1)
    let loc := sideOf 0 (places.sreg 0 2)
    let own := sideOf 0 (places.sreg 0 3)
    places.me.task = some 0 ∧ (places.channel 0 0).length < 32 ∧ allowed places 0 main loc ∧ allowed places 1 loc own ∧
      allowed places 2 own loc ∧ own = .landing lbase ∧ ¬ allowed (set places fun r => { r with rows := 0 }) 0 main loc ∧
      places.me.pbmem + 256 < 2 ^ 40 ∧ places.me.pbsw + 256 < 2 ^ 40 ∧
      ¬ (places.modMe fun cx => { cx with pbmem := 2 ^ 40 }).me.pbmem < 2 ^ 40 ∧
      (0x0001001F : Dword) &&& 0xFFFFFFFF0000FFE0 = 0 ∧ held.holdsSlot (bits (0x0001001F : Dword) 4 0) = true ∧
      places.holdsSlot (bits (0x0001001F : Dword) 4 0) = false ∧
      (let s := set (places.modCore 0 fun co => { co with rings := co.rings.set 3 { Ring.reset with holder := some 0, role := true, len := 4 } })
         fun r => { r with rowb := 4096, ecfg := 0x8038 }
       s.me.copy.bound = true ∧ s.me.copy.handle = 3 ∧ s.holdsRing 3 = true ∧ s.me.copy.rows * s.me.copy.rowb % 4096 = 0 ∧
         own.isLocal = false ∧ s.me.copy.ecfg &&& ~~~0xF0FB = 0 ∧ 1 ≤ s.me.copy.sizeClass) := by decide +kernel
theorem test_copy_charges : (match exec (.cpy 2 1 0 0) places with
    | .next t => ((t.channel 0 0).map (fun c => (c.src, c.dst)), t.me.pbmem, t.me.pbsw, t.me.pbsr)
    | _ => ([], 0, 0, 0)) = ([(sideOf 0 (places.sreg 0 1), sideOf 0 (places.sreg 0 2))], 256, 256, 0) := by decide +kernel
theorem test_meets_ring_claim : (let v : Dword := 0xC000000000000000
    v.getLsbD 63 = true ∧ tagValid (v.extractLsb' 0 16) = true ∧ tagCode (v.extractLsb' 0 16) ≠ 0x0F ∧
    (base.ring 15).holder = none ∧ base.boundTo 0 0 15 = false ∧ base.taskTile 0 0 0 = true ∧ base.taskTile 0 0 127 = true) ∧
    base.boundTo 0 0 3 = false ∧ ((ringed true).ring 3).holder = some 0 ∧ (ringed true).boundTo 0 0 3 = false := by
  decide +kernel
theorem test_meets_ring_forms : base.holdsRing 15 = false ∧ (ringed true).holdsRing 3 = true ∧
    ((ringed true).ring 3).len < 5 ∧ ((ringed true).ring 3).ready = 4 ∧ ((ringed false).ring 3).ready < 1 := by decide +kernel
theorem test_producer_advances : (match exec (.cbadv 3 4) (ringed true) with
    | .next t => ((t.ring 3).pp, t.myCore.flips.map (·.tiles))
    | _ => (0, [])) = (4, [[0, 1, 2, 3]]) := by decide +kernel


/-! ### Owner bits, messages, claims and the copy engine -/

namespace Sys2Proof.Tests

/-- s1 names local memory, s2 the landing, s3 asks for eight bytes to core 0; the launch has a handler. -/
def sender : State :=
  { withS base [BitVec.ofNat 64 locbase, BitVec.ofNat 64 lbase, 0x700] with
    launches := base.launches.map fun l => { l with handlers := [8] } }
/-- Group 0 is ranks 0 and 1, with a wide window. -/
def inGroup : State :=
  { base with regs := { base.regs with bgrp := base.regs.bgrp.set 0 0x8000000000020100, bwin := 100000 } }
/-- A set of the own rank and rank 1 that is open in claim slot 3. -/
def openSet : OpenSet :=
  ⟨0, [⟨0, 1, 5, 0⟩, ⟨1, 2, 7, 0⟩], 100000, 10, 0x8000000000020100, 0, 0, none, false, false, false⟩
def claimed : State := { inGroup with claims := inGroup.claims.set 3 { ClaimSlot.reset with opened := some openSet } }
/-- A command from local memory to local memory, of n bytes. -/
def command (src dst : Side) (n : Nat) : Command :=
  { id := 0, task := 0, src := src, dst := dst, srcAddr := 0, regs := { CopyRegs.reset with ecfg := 0, rows := 1, rowb := n }
    xform := 0, key := 0, done := 0, started := some 0, waited := 0, finished := 0, bad := false, message := none
    circuit := [], readyAt := none, legs := [], before := [], edges := [], dirty := [], got := [], ahead := []
    unread := n, unwritten := n }
/-- The turn of core 0 to write, with this command on the channel of its context 0. -/
def copying (cmd : Command) : State :=
  { (base.modCtx 0 0 fun cx => { cx with pbsr := 256, pbsw := 256 }).modCore 0 fun co =>
    { co with channels := co.channels.set 0 [cmd], engineTiles := [0, 1, 2, 3] } with sclk := 100000, phase := .port 0 }

end Sys2Proof.Tests

theorem test_meets_owner_bits :
    ((List.range 1).map ((base.sreg 0 0).toNat + ·)).all (base.taskTile 0 0) = true ∧
    ((List.range 64).map ((base.sreg 0 0).toNat + ·)).all (base.taskTile 0 0) = true ∧
    (let s := withS base [1000]
     ((List.range 64).map ((s.sreg 0 1).toNat + ·)).any (fun t => !s.taskTile 0 0 t) = true) ∧
    (let s := withS (ringed true) [10]
     let ringed (t : Nat) := s.myCore.rings.toList.any fun r => r.holder.isSome && (List.range r.len).any fun i => t == r.base + i % r.len
     ringed (s.sreg 0 0).toNat = true ∧ s.taskTile 0 0 0 = true ∧ ringed (s.sreg 0 1).toNat = false ∧ s.taskTile 0 0 10 = true ∧
     s.channel 0 0 = []) ∧
    (let cmd := command (.localMem locbase) (.localMem (locbase + 4096)) 256
     (copying cmd).channel 0 0 = [cmd] ∧ (copying cmd).commandTiles 0 cmd = [0, 1]) := by decide +kernel
theorem test_meets_send : (let s := sender
    let srcA := s.sreg 0 1
    s.me.task = some 0 ∧ (s.task 0).map (·.launch) = some 0 ∧ (s.launch 0).map (·.handlers) = some [8] ∧
    (0x700 : Dword) &&& sendReserved = 0 ∧ s.sreg 2 3 = 0x700 ∧ bits (0x700 : Dword) 19 8 + 1 = 8 ∧ s.rank = 0 ∧
    bits (0x700 : Dword) 27 24 = 0 ∧ BitVec.ofNat 7 (bits (0x700 : Dword) 38 32) = 0 ∧
    (∀ y ∈ addrRun (s.sreg 1 2).toNat 8, lbase ≤ y ∧ y < lbase + landingRange ∧ s.samePartition 0 ((y - lbase) / landingBytes) = true) ∧
    rangeOf 0 srcA.toNat = .loc ∧ (∀ y ∈ addrRun srcA.toNat 8, rangeOf 0 y = rangeOf 0 srcA.toNat ∧ MayTouch s 0 0 .read y) ∧
    rangeOf 0 (s.sreg 0 2).toNat = .own ∧
    (∀ y ∈ addrRun (s.sreg 0 2).toNat 8, rangeOf 0 y = rangeOf 0 (s.sreg 0 2).toNat ∧ MayTouch s 0 0 .read y) ∧
    (s.channel 0 0).length < 32 ∧ s.me.pbmem + 8 < 2 ^ 40 ∧ ([8] : List Dword).length ≤ bits (0x01000700 : Dword) 27 24 ∧
    (0x40 : Dword) &&& sendReserved ≠ 0 ∧ BitVec.ofNat 7 (bits (0x100000700 : Dword) 38 32) ≠ s.rank ∧
    (0x100000700 : Dword) &&& sendReserved = 0) := by unfold MayTouch; decide +kernel
theorem test_send_enters : yields (exec (.send 2 1 3) sender) (fun t =>
    (t.messages.map fun m => (m.target.val, m.handler, m.charge, m.accepted)) == [(0, 8, 8, false)] && t.me.pbmem == 8) = true := by
  decide +kernel

theorem test_meets_claims : base.mayClaim 0 = false ∧ inGroup.mayClaim 0 = true ∧ (inGroup.claimSlot 3).opened = none ∧
    (claimed.claimSlot 3).opened = some openSet ∧ claimed.mayClaim 0 = true ∧
    (groupMembers openSet.group).contains claimed.rank = true ∧ claimed.ringTime < openSet.t0 + openSet.win ∧
    (let s := { claimed with ringTime := 100000 }
     openSet.t0 + openSet.win ≤ s.ringTime) := by decide +kernel
theorem test_claim_opens : yields (exec (.blz 3 1 5 0) { withS inGroup [42] with ringTime := 9 }) (fun t =>
    ((t.claimSlot 3).opened.map fun o => (o.claims, o.t0)) == some ([⟨0, 5, 42, 9⟩], 9)) = true := by decide +kernel
theorem test_early_objection_counts : yields (exec (.blz 3 1 5 0) { withS inGroup [42] with
    claims := inGroup.claims.set 3 { ClaimSlot.reset with early := [(1, 9)] } }) (fun t =>
    ((t.claimSlot 3).opened.map fun o => (o.objections, o.maxv)) == some (1, 9) && (t.claimSlot 3).early == []) = true := by
  decide +kernel
theorem test_objection_counts : yields (exec (.blzobj 3 1) { withS claimed [42] with rank := 0 }) (fun t =>
    ((t.claimSlot 3).opened.map fun o => (o.objections, o.maxv, o.lowobj)) == some (1, 42, some 0)) = true := by decide +kernel
theorem test_meets_slot_reads : Writable base 1 ∧ ((base.claimSlot 15).seq - 0 : Word).toNat < 2 ^ 31 ∧
    2 ^ 31 ≤ ((base.claimSlot 15).seq - 1 : Word).toNat := by unfold Writable; decide +kernel

theorem test_meets_copy_commands :
    (let cmd := { command (.localMem locbase) (.localMem (locbase + 4096)) 256 with started := none }
     (copying cmd).channel 0 0 = [cmd] ∧ cmd.message = none ∧ cmd.started = none) ∧
    (let cmd := command (.localMem locbase) (.localMem (locbase + 4096)) 256
     let s := copying cmd
     s.channel 0 0 = [cmd] ∧ s.portCore = some 0 ∧ base.portCore ≠ some 0 ∧ cmd.message = none ∧ cmd.ahead = [] ∧
     cmd.started.isSome = true ∧ cmd.bad = false ∧ cmd.xform = 0 ∧ cmd.regs.policy = 0 ∧ cmd.regs.bound = false ∧
     cmd.regs.rows = 1 ∧ cmd.regs.rowb = 256 ∧ cmd.done = 0 ∧ cmd.circuit = [] ∧ cmd.legs = [] ∧ cmd.dirty = [] ∧ cmd.edges = [] ∧ cmd.got = [] ∧
     cmd.before = [] ∧ s.poison = [] ∧ s.waitingWrites = [] ∧ s.log = [] ∧ cmd.dueAt 0 ≤ s.sclk.toNat ∧
     (∀ y ∈ addrRun locbase 256 ++ addrRun (locbase + 4096) 256, rangeOf 0 y = .loc ∧
       s.taskTile 0 0 ((y - locbase) / tileBytes) = true ∧ (y - locbase) / tileBytes ∈ (s.core 0).engineTiles) ∧
     (∀ y ∈ addrRun locbase 256, y ∉ addrRun (locbase + 4096) 256) ∧
     (s.ctx 0 0).pbsr = 256 ∧ (s.ctx 0 0).pbsw = 256 ∧ locbase + 4096 < 2 ^ 63 ∧
     (∃ y ∈ addrRun (locbase + 16384) 256, ¬ (y - locbase) / tileBytes ∈ (s.core 0).engineTiles) ∧
     (copying (command (.localMem (locbase + 16384)) (.localMem (locbase + 4096)) 256)).channel 0 0 =
       [command (.localMem (locbase + 16384)) (.localMem (locbase + 4096)) 256]) := by
  decide +kernel
theorem test_copy_moves : (let s := copying (command (.localMem locbase) (.localMem (locbase + 4096)) 256)
    yields (exec (.copyCommandEnd 0 0 1) { s with mem := s.mem.write (localKey 0 255) [9] }) fun t =>
      t.channel 0 0 == [] && t.mem.read (localKey 0 (4096 + 255)) == 9 && t.me.pbsr == 0 && t.me.pbsw == 0) = true := by
  decide +kernel

theorem test_meets_circuits :
    (let dst := lbase + landingBytes
     let cmd := { command (.localMem locbase) (.landing dst) 256 with readyAt := some 9 }
     let s := { copying cmd with
       slotTables := base.slotTables.set 0 (some (4, [(0, 0, 8)]))
       launches := base.launches.map fun (l : Launch) => { l with stab := 64 } }
     s.channel 0 0 = [cmd] ∧ s.portCore = some 0 ∧ cmd.message = none ∧ cmd.bad = false ∧ cmd.xform = 0 ∧
     cmd.legs = [] ∧ cmd.ahead = [] ∧ cmd.edges = [] ∧ cmd.before = [] ∧ cmd.dirty = [] ∧ s.log = [] ∧ s.poison = [] ∧
     s.waitingWrites = [] ∧ rangeOf 0 (cmd.addressAt 0 dst cmd.regs.estd false cmd.done) = .remote ∧
     (cmd.addressAt 0 dst cmd.regs.estd false cmd.done - lbase) / landingBytes = 1 ∧ cmd.done < cmd.blocks 0 ∧
     cmd.readyAt = some 9 ∧ cmd.circuit = [] ∧ cmd.got = [] ∧
     (s.blockKeys 0 0 cmd false cmd.done).toOption = some ((List.range 256).map (localKey 0)) ∧
     (s.blockKeys 0 0 cmd true cmd.done).toOption.isSome = true ∧
     (∀ d : Fin 4, d ≠ 0 → s.channel 0 d = []) ∧ s.messages = [] ∧ s.slotTableOf 0 0 = some (4, [(0, 0, 8)]) ∧
     s.sclk.toNat % 4 = 0 ∧ 8 / 8 = (dst - lbase) / landingBytes) ∧
    (let dst := lbase + landingBytes
     let cmd := { command (.localMem locbase) (.landing dst) 256 with
       done := 1, circuit := [(9, 41, 0, 8)], got := [(0, (List.replicate 256 (7 : Byte)).map some)] }
     let s := { copying cmd with phase := .store 9 }
     s.channel 0 0 = [cmd] ∧ s.circuitCore = some 8 ∧ rangeOf 0 dst = .remote ∧ 41 ≤ s.sclk.toNat ∧ s.log = [] ∧
     cmd.started.isSome = true ∧ cmd.regs.bound = false ∧ cmd.regs.policy = 0 ∧ cmd.regs.rows = 1 ∧
     cmd.regs.rowb = 256 ∧ dst % 256 + 256 ≤ 256 ∧ cmd.done = 1 ∧ s.regs.cmpBusy = false ∧
     (List.replicate 256 (7 : Byte)).length = cmd.regs.rowb ∧ s.samePartition 0 ((dst - lbase) / landingBytes) = true) := by
  decide +kernel
theorem test_block_departs_with_its_bytes :
    (let cmd := { command (.localMem locbase) (.landing (lbase + landingBytes)) 256 with readyAt := some 9 }
     let s := { copying cmd with
       mem := base.mem.write (localKey 0 255) [9]
       slotTables := base.slotTables.set 0 (some (4, [(0, 0, 8)]))
       launches := base.launches.map fun (l : Launch) => { l with stab := 64 } }
     yields (exec (.circuitBlockDepart 0 0) s) fun t => t.me.pbsr == 0 && t.me.pbsw == 256 &&
       (t.channel 0 0).map (fun c => (c.circuit, (c.got.lookup 0).map fun l => (l.getD 255 none))) ==
         [([(100000, 100032, 0, 8)], some (some 9))]) = true := by decide +kernel
theorem test_meets_ring_tile :
    (let cmd := { command (.ringBuf 3) (.landing lbase) 4096 with
        done := 15, regs := { CopyRegs.reset with rows := 1, rowb := 4096, ecfg := 0x38 } }
     let s := (copying cmd).modCore 0 fun co =>
       { co with rings := co.rings.set 3 { Ring.reset with holder := some 0, role := true, len := 4, pp := 1 } }
     let r := s.ringOf 0 3
     s.channel 0 0 = [cmd] ∧ s.portCore = some 0 ∧ cmd.message = none ∧ cmd.bad = false ∧ cmd.started.isSome = true ∧
     cmd.xform = 0 ∧ cmd.legs = [] ∧ cmd.ahead = [] ∧ cmd.before = [] ∧ cmd.circuit = [] ∧ cmd.dirty = [] ∧
     cmd.edges = [] ∧ cmd.got = [] ∧ s.poison = [] ∧ s.log = [] ∧
     s.waitingWrites = [] ∧ cmd.regs.bound = true ∧ cmd.regs.rows = 1 ∧ cmd.regs.rowb = 4096 ∧ cmd.done = 15 ∧
     cmd.finished = 0 ∧ cmd.dueAt 15 ≤ s.sclk.toNat ∧ cmd.src = .ringBuf 3 ∧ (∀ i < 4096, rangeOf 0 (lbase + i) = .own) ∧
     r.role = true ∧ 1 ≤ r.len ∧ r.base + r.len ≤ 512 ∧ (r.base + r.cp % r.len) ∈ (s.core 0).engineTiles ∧
     yields (exec (.engineTileFinish 0 0) s) fun t => (t.ringOf 0 3).cp == 1 && (t.core 0).engineTiles == [1, 2, 3]) := by
  decide +kernel
/-! ### Vector forms -/

namespace Sys2Proof.Tests

/-- v0 and v1 of a tag with these lanes. -/
def two (tag : Half) (x y : Word) : State := withV (withV base 0 tag x) 1 tag y
/-- Lane 0 and the tag of the one vector result that an outcome has on its way. -/
def lane0 : Host.Outcome State Fault Refusal → Option (Nat × Half × Word)
  | .next t =>
    match t.me.flight with
    | [f] =>
      match f.what with
      | .vector _ tag l _ => some (f.left, tag, l.get 0)
      | _ => none
    | _ => none
  | _ => none

end Sys2Proof.Tests

theorem test_meets_vector_arithmetic :
    (let s := two 0 0x40000000 0x40400000
     let x := s.vreg 0 0
     tagValid x.tag = true ∧ FloatPair x (s.vreg 1 1) ∧ MaskFits s 0 7 x.tag ∧ codeFloat (tagCode x.tag) = true) ∧
    (let s := two 0x0006 3 4
     let x := s.vreg 0 0
     tagValid x.tag = true ∧ IntPair x (s.vreg 1 1) ∧ MaskFits s 0 7 x.tag ∧ tagScale x.tag = 0 ∧ ¬ FloatPair x (s.vreg 1 1)) ∧
    (let s := two 0x4006 3 4
     let x := s.vreg 0 0
     IntPair x (s.vreg 1 1) ∧ ¬(-128 ≤ tagScale x.tag + tagScale x.tag ∧ tagScale x.tag + tagScale x.tag ≤ 127) ∧
     (let z := two 0x4006 3 4
      IntPair x x ∧ ¬ MaskFits z 2 7 x.tag)) ∧
    (let s := withV (two 0 0 0) 1 0x0006 0
     ¬ FloatPair (s.vreg 0 0) (s.vreg 1 1) ∧ ¬ IntPair (s.vreg 0 0) (s.vreg 1 1) ∧ tagValid (s.vreg 1 1).tag = true) := by
  unfold FloatPair IntPair MaskFits; decide +kernel
theorem test_vadd_f32 : lane0 (exec (.vadd .v0 2 0 1 0 0) (two 0 0x40000000 0x40400000)) = some (4, 0, 0x40A00000) := by
  decide +kernel
theorem test_vfma_int_sat : lane0 (exec (.vmul .v1 2 0 1 1 0) (two 0x0006 0x7FFFFFFF 2)) = some (2, 0x0006, 0x7FFFFFFF) := by
  decide +kernel
theorem test_meets_vector_bits : (let s := two 0 5 6
    tagValid (s.vreg 0 0).tag = true ∧ WholeCode (s.vreg 0 0) ∧ MaskFits s 0 0 (mkTag 0x0A 0) ∧ ¬ Amounts (s.vreg 1 1) ∧
    (let t := withV s 1 0x0006 1
     Amounts (t.vreg 1 1) ∧ tagCode (t.vreg 2 0).tag = tagCode (t.vreg 0 0).tag ∧ MaskFits t 0 7 (t.vreg 0 0).tag)) := by
  unfold WholeCode Amounts MaskFits; decide +kernel
theorem test_vsar : lane0 (exec (.vsar .v0 2 0 1 0) (two 0x0006 0x80000000 4)) = some (2, 0x0006, 0xF8000000) := by
  decide +kernel
theorem test_vfshl : lane0 (exec (.vfshl .v0 0 0 1 0) (two 0x0006 0x80000001 33)) = some (2, 0x0006, 3) := by decide +kernel
theorem test_meets_vector_tags : (let s := two 0 0x3F800000 0
    FloatPair (s.vreg 0 0) (s.vreg 1 1) ∧ (6#4).toNat ≤ 6 ∧ (s.vreg 0 0).tag = (s.vreg 1 1).tag ∧ WholeCode (s.vreg 0 0) ∧
    tagValid (mkTag 6 0) = true ∧ retagWidth (tagCode 0) = retagWidth (tagCode 0x0006) ∧ tagValid 0x0006 = true ∧
    tagValid 0x0003 = false ∧ tagValid ((withV s 2 0x0003 0).vreg 2 2).tag = false ∧ (s.vreg 0 0).tag ≠ ((withV s 1 0x0006 0).vreg 1 1).tag) ∧
    IntPair ((two 0x0006 1 2).vreg 0 0) ((two 0x0006 1 2).vreg 1 1) := by unfold FloatPair IntPair WholeCode; decide +kernel
theorem test_vcmp_unordered : sent (exec (.vcmp .v0 5 0 1 0) (two 0 0x7FC00000 0x7FC00000)) = [(2, .pred 5 0)] ∧
    sent (exec (.vcmp .v0 5 0 1 1) (two 0 0x7FC00000 0x7FC00000)) = [(2, .pred 5 0xFFFFFFFFFFFFFFFF)] := by decide +kernel
theorem test_vcvt_rounds : lane0 (exec (.vcvt .v0 2 0 6 0 0 0) (two 0 0x40200000 0)) = some (4, 0x0006, 2) ∧
    lane0 (exec (.vcvt .v0 2 0 6 0 0 1) (two 0 0xC0200000 0)) = some (4, 0x0006, 0xFFFFFFFE) := by decide +kernel
theorem test_meets_folds : tagCode (base.vreg 0 0).tag < 3 ∧ MaskFits base 0 7 (mkTag 0 0) ∧
    codeFloat (tagCode (base.vreg 0 0).tag) = true ∧ codeInt (tagCode ((two 0x0006 1 1).vreg 0 0).tag) = true ∧
    (let x := (two 0x000F 1 1).vreg 0 0
     tagValid x.tag = true ∧ codeFloat (tagCode x.tag) = false ∧ codeInt (tagCode x.tag) = false) := by
  unfold MaskFits; decide +kernel
theorem test_vredsum : lane0 (exec (.vredsum .v0 2 0 0 0) (two 0x0006 2 0)) = some (6, 0x0006, 16) := by decide +kernel
theorem test_vscan_exclusive : lane0 (exec (.vscan .v0 2 0 0 1 0) (two 0x0006 2 0)) = some (6, 0x0006, 0) := by decide +kernel
theorem test_meets_transcendental_values : (Machine.Num.fin false 3 (-1)).lt (.ofInt 1) = false ∧
    (Machine.Num.fin false 3 (-1)).lt (.ofInt 2) = true ∧ (3 : Nat) < 2 ^ 64 ∧ (128 : Int) ≤ 128 := by decide +kernel
theorem test_vrcp : lane0 (exec (.vrcp 2 0 0 0) (two 0 0x40000000 0)) = some (10, 0, 0x3F000000) := by decide +kernel
theorem test_vexp2_special : lane0 (exec (.vexp2 2 0 0 0) (two 0 0xFF800000 0)) = some (10, 0, 0) ∧
    lane0 (exec (.vexp2 2 0 0 0) (two 0 0x80000000 0)) = some (10, 0, 0x3F800000) ∧
    lane0 (exec (.vlog2 2 0 0 0) (two 0 0x80000000 0)) = some (10, 0, 0xFF800000) := by decide +kernel
theorem test_meets_vector_moves : (let s := withS (two 0x0006 7 65) [63]
    tagValid (s.vreg 0 0).tag = true ∧ Amounts (s.vreg 1 1) ∧
    retagWidth (tagCode (s.vreg 0 0).tag) = retagWidth (tagCode (s.vreg 2 2).tag) ∧ Writable s 3 ∧ MaskFits s 2 0 0x0006 ∧
    srcC s 0 1 = 63 ∧ (31#6).toNat < 32) := by unfold Amounts Writable MaskFits; decide +kernel
theorem test_vinss : lane0 (exec (.vinss .v0 0 1 0) (withS (two 0x0006 7 65) [0x1FFFFFFFF])) = some (2, 0x0006, 0xFFFFFFFF) := by
  decide +kernel
theorem test_vexts_signed : sent (exec (.vexts .v0 5 0 0 1) (two 0x0006 0x80000000 0)) = [(2, .scalar 5 0xFFFFFFFF80000000)] := by
  decide +kernel

/-! ### Operand slots, tiles, the T unit and circular-buffer heads -/

namespace Sys2Proof.Tests

/-- Operand slot n in this state. -/
def slotted (n : Fin 32) (st : SlotState) (holder : Nat) (sideB : Bool) (tag : Half) : State :=
  base.modCore 0 fun co => { co with slots := co.slots.set n ⟨st, holder, sideB, tag, 0⟩ }
/-- Tile 3 belongs to a task, tile 4 to another. -/
def tiled : State := base.modCore 0 fun co => { co with tiles := (co.tiles.set 3 (.held 0)).set 4 (.held 7) }
/-- Latches of bf16 ones, and of the same with a NaN in front. -/
def ones (n : Nat) (first : List Byte) : List Byte := first ++ ((List.replicate n [0x80, 0x3F]).flatten.drop first.length)
/-- The same context holding the four tables. -/
def tabled : State :=
  base.modCore 0 fun co => { co with tables := Vector.replicate 4 { Table.reset with holder := some 0, entries := List.replicate 8 0x1234 } }
/-- Ring cb3 of four tiles at CTX, of tag fp32. -/
def headed (role : Bool) : State :=
  base.modCore 0 fun co => { co with rings := co.rings.set 3 { Ring.reset with holder := some 0, role := role, len := 4 } }

end Sys2Proof.Tests

theorem test_meets_slots : base.me.task = some 0 ∧ slotTag 1 = true ∧ (base.slot 31).state = .free ∧ slotTag 0 = false ∧
    (let s := slotted 31 .held 7 false 1
     (s.slot 31).state = .held ∧ (s.slot 31).holder ≠ 0 ∧ s.holdsSlot 31 = false) ∧
    (let s := slotted 31 .held 0 false 1
     s.holdsSlot 31 = true ∧ (s.vreg 0 0).tag ≠ (s.slot 31).tag ∧ tagValid (s.vreg 0 0).tag = true ∧
     (let t := withS (withV s 0 1 0) [1, 63]
      64 * (t.readS 2 1).1.toNat % imageSize (t.vreg 0 0).tag ≠ 0 ∧
      (t.vreg 0 0).tag = (t.slot 31).tag) ∧
     (let t := withS (withV s 0 1 0) [0x10000]
      slotBytes < 64 * (t.readS 2 1).1.toNat + imageSize (t.vreg 0 0).tag) ∧
     tagValid ((withV s 0 0x0003 0).vreg 0 0).tag = false ∧ tagValid (s.slot 31).tag = true ∧
     slotBytes / sliceBytes (s.slot 31).sideB (s.slot 31).tag ≤ (0xFF#8).toNat ∧
     (∀ b ∈ [true, false], let t := slotted 31 .held 0 b 0x0003
      t.holdsSlot 31 = true ∧ tagValid (t.slot 31).tag = false ∧ (t.slot 31).sideB = b) ∧
     (let t := withV s 0 1 0
      (t.vreg 0 0).tag = (t.slot 31).tag ∧ (64 * (t.readS 2 0).1.toNat) % imageSize 1 = 0 ∧
      64 * (t.readS 2 0).1.toNat + imageSize 1 ≤ slotBytes)) := by decide +kernel
theorem test_meets_latches : (∀ b ∈ [true, false], let s := slotted 31 .held 0 b 1
    s.holdsSlot 31 = true ∧ tagValid (s.slot 31).tag = true ∧ s.poison = [] ∧ 0 < slotBytes / sliceBytes (s.slot 31).sideB (s.slot 31).tag ∧
    (s.slot 31).sideB = b ∧ ∀ d : Fin 4, (s.ctx 0 d).flight = [] ∧ (s.ctx 0 d).held = []) ∧
    (∀ k : Fin 64, ∀ d : Fin 4, (base.ctx k d).flight = [] ∧ (base.ctx k d).held = []) := by decide +kernel
theorem test_oclaim_waits : yields (exec (.oclaim 0 31 1) (slotted 31 .held 7 false 1)) (fun t =>
    t.me.wait == some (.oclaim 31) && t.me.state == .waiting) = true := by decide +kernel
theorem test_meets_tiles : tiled.me.task = some 0 ∧ tiled.tilePending 3 = [] ∧ tiled.poison = [] ∧
    tiled.myCore.tiles[3]? = some (.held 0) ∧ tiled.myCore.tiles[63]? = some .free ∧ tiled.myCore.tiles[4]? ≠ some (.held 0) ∧
    tiled.tilePending 4 = [] ∧ tiled.tilePending 63 = [] ∧
    beatDepth (tagCode tiled.me.latchA.tag) (tagCode tiled.me.latchB.tag) = none ∧
    (let s := tiled.modMe fun cx => { cx with latchA := ⟨1, [], false⟩, latchB := ⟨1, [], false⟩ }
     (beatDepth (tagCode s.me.latchA.tag) (tagCode s.me.latchB.tag)).isSome = true ∧ s.me.latchA.poison = false ∧
     tagValid s.me.latchA.tag = true ∧ tagValid s.me.latchB.tag = true) ∧ tagValid (0xC1 : Half) = false := by
  decide +kernel
theorem test_meets_drains : 95 < (127#7).toNat ∧ (95#7).toNat ≤ 95 ∧ tagValid (tiled.vreg 2 31).tag = true ∧
    WholeCode (tiled.vreg 2 31) := by unfold WholeCode; decide +kernel
theorem test_meets_beats : beatDepth 1 1 = some 2 ∧
    (let a : Latch := ⟨1, ones 512 [], false⟩
     let b : Latch := ⟨1, ones 1024 [], false⟩
     (∀ k < 2, latchValue a 0 (0 * 2 + k) = .fin false 128 (-7) ∧ latchValue b 0 (k * tileCols + 95) = .fin false 128 (-7)) ∧
     (latchValue ⟨1, ones 512 [0xC0, 0x7F], false⟩ 0 0).isFinite = false ∧ (0#64).getLsbD 58 = false ∧
     (1#64 <<< 58).getLsbD 58 = true) := by decide +kernel
theorem test_meets_norm : (let v : TileView := ⟨fun _ j => if j = 0 then 3 else 0, fun _ => 0⟩
    let row := rowMax ((List.range tileCols).map (v.word 0))
    row = 3 ∧ -32768 < (v.exp 0).toInt + normShift row (v.exp 0).toInt ∧ (v.exp 0).toInt + normShift row (v.exp 0).toInt < 32767) ∧
    (let v : TileView := ⟨fun _ _ => 0, fun _ => 5⟩
     rowMax ((List.range tileCols).map (v.word 0)) = 0) ∧
    (let v : TileView := ⟨fun _ _ => 2 ^ 46, fun _ => 5⟩
     rowMax ((List.range tileCols).map (v.word 0)) = 2 ^ 46 ∧ (v.word 0 95).getLsbD 58 = false) ∧
    (let v : TileView := ⟨fun _ j => if j = 0 then 2 ^ 47 + 1 else 2 ^ 58, fun _ => 5⟩
     2 ^ 47 ≤ rowMax ((List.range tileCols).map (v.word 0)) ∧ (v.word 0 0).getLsbD 58 = false ∧ (v.word 0 1).getLsbD 58 = true) := by
  decide +kernel
theorem test_norm_rounds_right : (let v : TileView := ⟨fun _ j => if j = 0 then 2 ^ 50 + 4 else if j = 1 then 12 else 0, fun _ => 5⟩
    let u := (Landing.norm 0).onTile v
    (accMant (u.word 0 0), accMant (u.word 0 1), (u.word 0 0).getLsbD 56, (u.word 0 1).getLsbD 56, (u.exp 0).toInt) =
      (2 ^ 46, 1, true, true, 9)) := by decide +kernel
theorem test_xclr_takes_tile : yields (exec (.xclr 63 5) tiled) (fun t =>
    t.myCore.tiles[63]? == some (.held 0) && t.me.flight.map (fun f => (f.left, f.what)) == [(2, .clearTile 63 5)]) = true := by
  decide +kernel

theorem test_meets_transforms :
    (let s := two 0 5 6
     s.me.task = some 0 ∧ laneMoveTag (s.vreg 0 0).tag = true ∧
     tagValid (s.vreg 0 0).tag = true ∧ (s.vreg 1 1).tag = (s.vreg 0 0).tag ∧ WholeCode (s.vreg 0 0) ∧ tagValid (mkTag 6 0) = true) ∧
    (let s := headed false
     let as := headAddrs (s.ring 3) 0 0
     (s.ring 3).holder = some 0 ∧ (s.ring 3).role = false ∧ Reachable s as ∧ tagValid (s.ring 3).tag = true ∧
     ∀ y ∈ localKeys s as, y ∉ s.poison) := by
  unfold WholeCode Reachable; decide +kernel
theorem test_meets_unpack : tagCode ((two 0x000C 0 0).vreg 0 0).tag = 0x0C ∧ tagCode ((two 0x0008 0 0).vreg 0 0).tag = 0x08 ∧
    (1#2) ≠ 0 ∧ ((two 0x0008 0 0).vreg 0 0).tag = 0x08 ∧ tagValid ((two 0x0003 0 0).vreg 2 0).tag = false ∧ packWidth 1 * (64 * 0 + 64) ≤ 2048 ∧
    (let t := withV (two 0x0008 0 0) 2 (BitVec.ofNat 16 (packCode (packWidth 1))) 0
     (t.vreg 2 2).tag = BitVec.ofNat 16 (packCode (packWidth 1)) ∧ packWidth 1 * 64 * (0 + 1) ≤ 2047) ∧
    laneMoveTag ((two 0x000C 0 0).vreg 0 0).tag = false := by decide +kernel
theorem test_meets_tables : tagCode ((two 1 0 0).vreg 0 0).tag = 0x01 ∧ (base.table 3).holder = none ∧ (tabled.table 3).holder = some 0 ∧
    (let s := base.modCore 0 fun co => { co with tables := co.tables.set 3 { Table.reset with holder := some 7 } }
     (s.table 3).holder = some 7 ∧ s.me.task = some 0) ∧
    (∀ q < 4, (tabled.table q).holder = some 0) := by decide +kernel
theorem test_texpand : lane0 (exec (.texpand 2 0 0 0) (withV tabled 0 0x000C 0)) = some (4, mkTag 0x01 0, 0x1234) := by
  decide +kernel
theorem test_txpose : lane0 (exec (.tcvt 2 0 6 0 0 0) (two 0 0x40000000 0)) = some (5, 0x0006, 2) := by decide +kernel

theorem test_meets_heads : (∀ role ∈ [true, false], let s := headed role
    let r := s.ring 3
    s.me.task = some 0 ∧ r.holder = some 0 ∧ r.role = role ∧ imageSize r.tag = 256 ∧
    Reachable s (headAddrs r 0 0) ∧ (∀ y ∈ localKeys s (headAddrs r 0 0), y ∉ s.poison) ∧
    tagValid (s.vreg 0 31).tag = true ∧ (s.vreg 0 31).tag = r.tag ∧ ((withV s 31 1 0).vreg 0 31).tag ≠ r.tag ∧
    tagValid 1 = true ∧ tagValid r.tag = true) ∧ tagValid ({ Ring.reset with tag := 3 } : Ring).tag = false ∧
    (base.ring 3).holder ≠ some 0 ∧ (35#6).toNat = 32 + 3 := by
  unfold Reachable; decide +kernel
theorem test_head_write_steps : yields (exec (.vmov .v0 35 31 0) (headed true)) (fun t =>
    (t.ring 3).poff == 4 && t.myCore.memq.map (·.left) == [2]) = true := by decide +kernel

/-! ### Sketches -/

namespace Sys2Proof.Tests

/-- A descriptor of one row and one column, rank 2 and capacity 3, with these columns. -/
def descriptor (cols : List Word) : Sketch :=
  { Sketch.reset with
    holder := some 0, defined := true, definition := 0x100000, cols := cols.length
    left := cols.map fun w => [w], right := cols.map fun _ => [0x3F800000] }
def sketching (d : Sketch) : State := base.modCore 0 fun co => { co with sketches := co.sketches.set 3 d }

end Sys2Proof.Tests

theorem test_meets_definition : (let s := withS base [0x100000]
    s.me.task = some 0 ∧ (s.sketch 3).holder = none ∧ (s.readS 1 1).1 &&& 0xFFC0F0FE00000000 = 0 ∧
    (definitionOf 0x100000).base + (definitionOf 0x100000).nt ≤ 64 ∧
    (∀ i ∈ (definitionOf 0x100000).tiles, s.myCore.tiles[i]? = some .free ∨ s.myCore.tiles[i]? = some (.held 0)) ∧
    (s.modCore 0 fun co => { co with tiles := co.tiles.set 1 (.held 0) }).myCore.tiles[1]? = some (.held 0) ∧
    64 < (definitionOf 0x003F000000100000).base + (definitionOf 0x003F000000100000).nt) := by decide +kernel
theorem test_meets_sketch : (let s := sketching (descriptor [0x3F800000])
    SketchReady s 3 0 ∧ Writable s 31 ∧ (s.readS 1 0).1.toNat ≤ (s.sketch 3).cap ∧
    (let t := s.modMe fun cx => { cx with sregs := loadRegs [100] }
     (t.sketch 3).cap < (t.readS 1 1).1.toNat) ∧ (s.sketch 4).holder = none) ∧
    (let s := sketching { descriptor [] with holder := some 7 }
     (s.sketch 3).holder ≠ none ∧ (s.sketch 3).holder ≠ some 0) ∧
    (let s := sketching { descriptor [] with defined := false }
     (s.sketch 3).holder = some 0 ∧ (s.sketch 3).defined = false) := by unfold SketchReady Writable; decide +kernel
theorem test_skdef_takes_tiles : yields (exec (.skdef 3 1) (withS base [0x100000])) (fun t =>
    (t.sketch 3).holder == some 0 && !(t.sketch 3).defined && t.myCore.tiles[1]? == some (.sketch 3) &&
      t.myCore.tiles[2]? == some .free && t.me.flight.map (fun f => (f.left, f.what)) == [(2, .skClear 3 0)]) = true := by
  decide +kernel
theorem test_skstat : sent (exec (.skstat 5 3) (sketching (descriptor [0x3F800000]))) =
    [(2, .scalar 5 (3 * 2 ^ 40 + 2 * 2 ^ 32 + 2 * 2 ^ 16 + 2 ^ 8 + 1))] := by decide +kernel

theorem test_meets_folding : (let s := sketching (descriptor [0x3F800000])
    let d := s.sketch 3
    SketchReady s 3 0 ∧ d.pois = false ∧ d.cols < d.cap ∧
    (∀ q ∈ groupRegs 0 d.m ++ groupRegs 0 d.n, q < 32 ∧ foldTag (s.vreg 0 q).tag = true) ∧
    (foldColumns d.bf16 false [s.groupElems 0 d.m]).isSome = true ∧
    (foldColumns d.bf16 false [(withV s 0 0 0x7FC00000).groupElems 0 d.m]) = none ∧
    (foldColumns d.bf16 true [(withV s 0 0 0x7FC00000).groupElems 0 d.m]).isSome = true ∧
    foldTag ((withV s 0 0x0006 0).vreg 0 0).tag = false) ∧
    (let s := sketching (descriptor [0x3F800000, 0x3F800000, 0x3F800000])
     SketchReady s 3 0 ∧ (s.sketch 3).cap ≤ (s.sketch 3).cols) := by unfold SketchReady; decide +kernel
theorem test_meets_block_folding : (let s := (sketching (descriptor [])).modCore 0 fun co =>
      { co with slots := (co.slots.set 31 ⟨.held, 0, false, 1, 0⟩).set 30 ⟨.held, 0, false, 1, 0⟩ }
    let d := s.sketch 3
    SketchReady s 3 0 ∧ s.holdsSlot 31 = true ∧ s.holdsSlot 30 = true ∧ foldTag (s.slot 31).tag = true ∧
    foldTag (s.slot 30).tag = true ∧ 0 + 1 ≤ d.cap - d.rank ∧ 1 * d.m * (widthOf (tagCode (s.slot 31).tag) / 8) ≤ slotBytes ∧
    (foldColumns d.bf16 false ((List.range 1).map (s.slotColumn 31 d.m))).isSome = true ∧ d.cols + 1 ≤ d.cap ∧
    s.holdsSlot 29 = false) := by unfold SketchReady; decide +kernel
theorem test_skfold_appends : yields (exec (.skfold 0 3 0 1) (withV (withV (sketching (descriptor [])) 0 0 0x40000000) 1 0 0x3F800000))
    (fun t => (t.sketch 3).cols == 1 &&
      t.me.flight.map (fun f => (f.left, f.what)) == [(4, .skColumns 3 0 [[0x40000000]] [[0x3F800000]])]) = true := by decide +kernel
theorem test_skfold_poisons : yields (exec (.skfold 0 3 0 1) (withV (sketching (descriptor [])) 0 0 0x7FC00000))
    (fun t => t.me.flight.any fun f => f.what == .skPoison 3 true) = true := by decide +kernel

theorem test_meets_bucks : (let s := (sketching (descriptor [0x3F800000])).modCore 0 fun co =>
      { co with sketches := co.sketches.set 4 (descriptor [0x3F800000]) }
    SketchReady s 3 0 ∧ SketchReady s 4 0 ∧ (s.sketch 3).m = (s.sketch 4).m ∧ (s.sketch 3).n = (s.sketch 4).n ∧
    (s.sketch 4).cols ≤ (s.sketch 3).cap - (s.sketch 3).rank) := by unfold SketchReady; decide +kernel
theorem test_meets_busy_end : (base.sketch 3).busy = none ∧
    (let op : BusyOp := .buck
     let w (n : Nat) : Busy := ⟨0, n, 1, none, op, none⟩
     let d (n : Nat) : Sketch := { descriptor [0x3F800000] with busy := some (w n) }
     1 < (w 2).left ∧ (w 1).left ≤ 1 ∧ (d 1).pois = false ∧ (d 1).left.length = (w 1).cols ∧ (d 1).right.length = (w 1).cols ∧
     (buck (d 1).bf16 (d 1).m (d 1).n (d 1).rank (d 1).left (d 1).right).isSome = true ∧
     buck false 1 1 2 [[0x7FC00000]] [[0x3F800000]] = none) ∧
    (let d := descriptor [0x3F800000]
     let op : BusyOp := .accord false false [[0x3F800000]] [[0x3F800000]] 0 0 0 4
     let w : Busy := ⟨0, 1, 1, none, op, none⟩
     ({ d with busy := some w }).busy = some w ∧ w.early = none ∧ 1 + 1 ≤ d.cap ∧ 1 + 1 ≤ d.rank ∧ (accordColumns false d.bf16 [[0x3F800000]]).isSome = true) := by decide +kernel
theorem test_buck_ends : yields (exec (.sketchBusyEnd 0 3) (sketching { descriptor [0x40000000] with
      busy := some ⟨0, 1, 1, none, .buck, none⟩ })) (fun t => (t.sketch 3).busy == none && (t.sketch 3).silE == 0) = true := by
  decide +kernel
theorem test_skacc_is_busy : (let s := (sketching (descriptor [0x3F800000])).modCore 0 fun co =>
      { co with sketches := co.sketches.set 4 (descriptor [0x3F800000]) }
    yields (exec (.skacc 3 4) s) fun t => (t.sketch 3).cols == 2 && ((t.sketch 4).busy.map (·.left)) == some 10) = true := by
  decide +kernel

theorem test_meets_factor_moves : (let s := withS (sketching (descriptor [0x3F800000])) [0x100]
    SketchReady s 3 0 ∧ ((s.readS 2 0).1 &&& ~~~(0xF7F#64) = 0 ∧ (s.readS 2 0).1.toNat % 128 < (s.sketch 3).cols ∧
    64 * ((s.readS 2 0).1.toNat / 256 % 16) < (s.sketch 3).m) ∧ (s.readS 2 1).1 &&& ~~~(0xF7F#64) = 0 ∧
    (s.sketch 3).m ≤ 64 * ((s.readS 2 1).1.toNat / 256 % 16) ∧
    tagValid (s.vreg 1 3).tag = true ∧ (s.vreg 1 3).tag = storageTag (s.sketch 3).bf16 ∧
    (s.vreg 1 3).lanes.toList.all (fun l => !isNonFinite (s.vreg 1 3).tag l.toNat) = true ∧
    (let v := (withV s 3 0 0x7F800000).vreg 1 3
     isNonFinite v.tag (v.lanes.get 0).toNat = true) ∧
    ((withV s 3 1 0).vreg 1 3).tag ≠ storageTag (s.sketch 3).bf16) := by unfold SketchReady; decide +kernel
theorem test_skrdl : lane0 (exec (.skrdl 5 3 0) (sketching (descriptor [0x40000000]))) = some (5, 0, 0x40000000) := by
  decide +kernel

/-! ### The frame, traps and images -/

namespace Sys2Proof.Tests

/-- A trap record may be written in local memory, in main memory, or nowhere. -/
def recorded (tsp : Dword) : State := base.modMe fun cx => { cx with tsp := tsp }
def inMain : Dword := BitVec.ofNat 64 (placedAt + 0x400)
/-- A trapped context that waits for its image, at the bottom of local memory. -/
def waitingFor (w : Waiting) : State :=
  base.modMe fun cx => { cx with tm := true, state := .waiting, wait := some w, tsp := cx.tsp - 64 }
def imageAt : Dword := BitVec.ofNat 64 locbase
/-- A context switched out at its page. -/
def switched (saved : Bool) : State :=
  base.modMe fun cx => { cx with state := .swapped, swapSaved := saved, swapAddr := BitVec.ofNat 64 placedAt }

end Sys2Proof.Tests

theorem test_meets_frame : ∀ i ∈ ([.add .s0 1 2 3, .vadd .v0 1 2 3 0 0, .sysrd 1 0x70] : List Instr),
    yields (exec i base) (fun t => !t.cur.stopped) = true := by decide +kernel
theorem test_meets_dispositions : base.me.ending = false ∧ base.me.tm = false ∧ (trapped base).me.tm = true ∧
    base.me.task = some 0 ∧ (base.task 0).map (fun t => (t.core, t.ctxs)) = some (0, [0]) ∧
    RecordOpen base 0 0 .write (base.me.tsp - 64) ∧ rangeOf 0 (base.me.tsp - 64).toNat ≠ .main ∧
    (let s := recorded inMain
     RecordOpen s 0 0 .write (s.me.tsp - 64) ∧ rangeOf 0 (s.me.tsp - 64).toNat = .main ∧ OnePage s (recordRun (s.me.tsp - 64))) ∧
    (match (recorded 0x80).recordKeys 0 0 .write ((recorded 0x80).me.tsp - 64).toNat with
     | .error (.trap e) => e.cause == .window
     | _ => false) = true := by unfold RecordOpen AccessibleBy MayTouch OnePage recordRun; decide +kernel
theorem test_trap_enters : yields (exec (.vadd .v0 2 0 1 0 0) (atCur (withV base 1 0x0006 0) fun c => { c with addr := 24 })) (fun t =>
    (t.me.tm, t.me.tcause, t.me.tepc, t.me.pc, t.me.tsp) == (true, 2, 24, base.me.tvec, base.me.tsp - 64)) =
    true := by decide +kernel
theorem test_nested_trap_stops : yields (exec (.syswr 1 0x40) (recorded 0x80)) (fun t =>
    (t.me.state, t.me.tcause, t.me.ncause) == (.stopped, 5, 3)) = true := by decide +kernel

theorem test_meets_early_traps :
    let entries (f : WinEntry → WinEntry) : State :=
      base.modCore 0 fun co => { co with windows := co.windows.map fun w => (w.1, w.2.map f) }
    let first := addrRun (base.ctx 0 0).pc.toNat 4
    let unset (s : State) (ok : WinEntry → Bool) : Prop := (s.ctx 0 0).pc = (base.ctx 0 0).pc ∧
      ∀ y ∈ first, rangeOf 0 y = .main ∧ ∃ e ∈ s.entryOf 0 0 y, (e.comp = true → s.regs.cmpEn = true) ∧ ok e = true
    (base.ctx 0 0).ending = false ∧ (base.ctx 0 0).tm = false ∧ (base.ctx 0 0).reentry = false ∧ (base.ctx 0 0).pc.toNat % 4 = 0 ∧
    RecordOpen base 0 0 .write ((base.ctx 0 0).tsp - 64) ∧
    unset (entries fun e => { e with perm := 3 }) (fun e => !e.perm.getLsbD 2) ∧
    unset (entries fun e => { e with res := false }) (fun e => e.perm.getLsbD 2 && !e.res) ∧
    (∀ y ∈ first, (base.modCore 0 fun co => { co with windows := [] }).entryOf 0 0 y = none) ∧
    (base.ctx 0 0).task = some 0 ∧ (base.task 0).map (fun t => (t.core, t.ctxs)) = some (0, [0]) := by
  unfold RecordOpen AccessibleBy MayTouch recordRun; decide +kernel
theorem test_meets_early_words :
    let bad := State.reset.place 0x87F00000
    let pc := (base.ctx 0 0).pc
    RecordOpen bad 0 0 .write ((bad.ctx 0 0).tsp - 64) ∧ (bad.ctx 0 0).pc = pc ∧ Fetches bad 0 0 pc 0x87F00000 ∧
      wordStop 0x87F00000 = true ∧ isRep 0x87F00000 = false ∧ decode 0x87F00000 = none ∧
      (match bad.bundleAt 0 0 with
       | .error .illegal => true
       | _ => false) = true ∧
    (let s := base.modMe fun cx => { cx with qbound := 1, qcount := 1 }
     Fetches s 0 0 pc 0x80000000 ∧ wordStop 0x80000000 = true ∧ isRep 0x80000000 = false ∧
       (decode 0x80000000).isSome = true ∧ (s.ctx 0 0).latched = [] ∧ (s.ctx 0 0).nextLatched = none ∧
       (s.bundleAt 0 0).toOption.isSome = true ∧ (s.ctx 0 0).qbound ≠ 0 ∧
       (s.ctx 0 0).qbound.toNat ≤ (s.ctx 0 0).qcount.toNat) ∧
    (base.bundleAt 0 0).toOption.isSome = true ∧ (base.ctx 0 0).qbound = 0 := by
  unfold RecordOpen Fetches AccessibleBy MayTouch recordRun; decide +kernel
theorem test_meets_image_forms : base.me.tm = false ∧ ((List.finRange 32).all fun r => tagValid (base.me.vregs.get r).tag) = true ∧
    tagValid ((trapped (withV base 31 0x0003 0)).me.vregs.get 31).tag = false ∧
    (let s := withS (trapped base) [imageAt, imageAt + 8]
     s.me.tm = true ∧ (s.sreg 0 1).toNat % 65536 = 0 ∧ (s.sreg 0 2).toNat % 65536 ≠ 0 ∧ rangeOf 0 (s.sreg 0 1).toNat = .loc ∧
     ∀ i < 16, s.taskTile 0 0 (((s.sreg 0 1).toNat - locbase) / 4096 + i) = true ∧
       s.myCore.engineTiles.contains (((s.sreg 0 1).toNat - locbase) / 4096 + i) = false) ∧
    (let s := (withS (trapped base) [BitVec.ofNat 64 0x200000]).modCore 0 fun co =>
       { co with windows := [(0, [⟨0, 0x200000, 2, .strong, 7, true, true, false, 0x200000, 1, 1, 0⟩])] }
     rangeOf 0 (s.sreg 0 1).toNat = .main ∧ (s.entryOf 0 0 (s.sreg 0 1).toNat).map (fun e =>
       (e.covers (0x200000 + 65535), e.comp, e.pin, e.res, e.perm)) = some (true, false, true, true, 7)) := by decide +kernel
theorem test_meets_images : ∀ w ∈ [Waiting.ctxsv imageAt, .ctxrs imageAt], let s := waitingFor w
    let cx := s.ctx 0 0
    cx.state = .waiting ∧ cx.wait = some w ∧ cx.async = [] ∧ cx.inherited = [] ∧ cx.edges = [] ∧ s.log = [] ∧
    cx.imageCells = [] ∧ ((s.modMe fun x => { x with imageCells := [(localKey 0 7, 1)] }).ctx 0 0).imageCells ≠ [] ∧
    (s.core 0).memq = [] ∧ s.plane = [] ∧ s.regs.mthr = 0 ∧ cx.snapshot = [] ∧ s.poison = [] ∧ RecordOpen s 0 0 .read cx.tsp := by
  unfold RecordOpen AccessibleBy MayTouch recordRun; decide +kernel
theorem test_meets_image_keys : ∀ y ∈ (waitingFor (.ctxrs imageAt)).imageKeys 0 0 imageAt, isExposed y = false ∧ y < peerBase := by
  intro y hy
  obtain ⟨a, ha, rfl⟩ := List.mem_map.mp hy
  obtain ⟨i, hi, rfl⟩ := List.mem_map.mp ha
  have hi : i < 65536 := List.mem_range.mp hi
  have hr : rangeOf 0 ((imageAt.toNat + i) % 2 ^ 64) = .loc := by
    simp [rangeOf, imageAt, locbase, localBytes]; omega
  have hk : State.keyOf (waitingFor (.ctxrs imageAt)) 0 0 ((imageAt.toNat + i) % 2 ^ 64) =
      localKey 0 ((imageAt.toNat + i) % 2 ^ 64 - locbase) := by
    unfold State.keyOf; rw [hr]; rfl
  rw [hk]
  simp [localKey, isExposed, peerBase, exposedBase, landingBase, localBase, imageAt, locbase, localBytes]
  omega
theorem test_meets_valid_image : (let s := { waitingFor (.ctxrs imageAt) with
      mem := (base.mem.write (localKey 0 0) [1, 0, 0, 0, 0, 0, 1, 0]).write (localKey 0 0x20) (leBytes 8 (topOfLocal 0 - 64).toNat) }
    let img := (s.imageKeys 0 0 imageAt).map s.byte
    imageValid img = true ∧ dwordAt img 0x20 = topOfLocal 0 - 64) := by decide +kernel
theorem test_meets_image_record : (let s := waitingFor (.ctxrs imageAt)
    let a := (topOfLocal 0 - 64) &&& 0xFFFFFFFFFFFFFFC0
    RecordOpen s 0 0 .write a ∧ ∀ y ∈ recordAt s 0 0 a, isExposed y = false ∧ y < peerBase) ∧
    imageValid [0, 0, 0, 0, 0, 0, 1, 0] = false := by
  unfold RecordOpen AccessibleBy MayTouch recordAt recordRun; decide +kernel
/-! ### Page faults, the distributor, messages, pre-emption and stops -/

namespace Sys2Proof.Tests

/-- Every link is up. -/
def served (s : State) : State := { s with links := Vector.replicate 10 { Link.reset with up := true, credits := Vector.replicate 17 1 } }
/-- A launch of one task that has not started, and a device with nothing but it. -/
def fresh : Launch := { placedLaunch 0 with nextGroup := 0, clusters := [], started := false }
def waitingDevice : State := { State.reset with stage := 2, launches := [fresh] }
/-- On its cluster core 0 alone is awake, and the affinity group has its cluster. -/
def roomy : State :=
  { waitingDevice with
    launches := [{ fresh with clusters := [(0, 0)] }]
    cores := waitingDevice.cores.mapFinIdx fun k co _ => if k = 0 then co else { co with wake := .gated } }
/-- Queue 5 has published one record, which stands at 0x20000: a cut of one field of one bit, a span of 1; in one that is
not valid a reserved byte is set. -/
def published (valid : Bool) : State :=
  { State.reset with
    stage := 2
    queues := State.reset.queues.set 5 { Queue.reset with base := 0x20000, en := true, tail := 1 }
    mem := ((State.reset.mem.write 0x20000 [1, 1]).write 0x20028 [if valid then 0 else 1]).write 0x20078 [1] }
/-- The one task ends; its launch has not handed out every group. -/
def endingTask (more : Bool) : State :=
  let s := (base.modCtx 0 0 fun cx => { cx with ending := true }).modCtx 0 1 fun cx => if more then { cx with task := some 0 } else cx
  { s with launches := [{ fresh with started := true }] }
def message : Message :=
  { id := 7, core := 0, ctx := 0, target := 0, launch := 0, handler := 8, dst := BitVec.ofNat 64 lbase, src := [localKey 0 0]
    sender := 0, wkid := 0, charge := 1, before := [], far := none, ready := true, accepted := false, data := [], due := 0
    key := 0, sent := 0, circuit := [], chip := [], order := [], edges := [], view := 0, stale := [], ahead := [] }
/-- The launch keeps context 3 of core 0 DORMANT for messages. -/
def dormant (s : State) : State := s.modCtx 0 3 fun cx => { cx with state := .dormant, reservedLaunch := some 0 }
def mailed : State :=
  (dormant base).modCore 0 fun co => { co with inbox := [⟨0, 8, BitVec.ofNat 64 lbase, 1, 0, 0, 0, [], [(3, 5)], 4⟩] }
/-- One free frame, at address 0; the task's group is asked to stop and has, or is saved in that frame. -/
def pooled (s : State) : State := { s with regs := { s.regs with spooln := 1, spoolb := 0x30000 } }
def stopping : State :=
  { pooled (base.modCtx 0 0 fun cx => { cx with stopped := true }) with preempts := [⟨[0], false, [], false, [], none⟩] }
def savedAway : State :=
  { (pooled (base.modCtx 0 0 fun cx => { cx with reservedTask := none })).modTask 0 fun t => { t with frame := some 0 } with
    preempts := [⟨[0], true, [0], false, [(0, 0, base.me)], none⟩] }

end Sys2Proof.Tests

theorem test_meets_switch_out : (let cx := (switched false).ctx 0 0
    cx.state = .swapped ∧ cx.task = some 0 ∧ cx.swapSaved = false ∧ cx.snapshot = [] ∧ cx.async = [] ∧ cx.swapAnswer = none) ∧
    (base.regs.csave.toNat + (4 * 0 + 0) * 65536) + 65536 ≤ hbmBytes ∧
    (let s := { base with notices := [(0, 0x10, 0, 0, 511)] }
     s.notices = [(0, 0x10, 0, 0, 511)] ∧ 0 < ({ s with sclk := 1 } : State).sclk.toNat ∧ (s.ctx 0 0).state ≠ .swapped ∧ ((switched true).ctx 0 0).swapSaved = true ∧
     (s.regs.fnqt + 4096 - s.regs.fnqh) % 4096 ≠ 4095 ∧ s.regs.fnqb.toNat + 16 * s.regs.fnqt + 16 ≤ hbmBytes) := by decide +kernel
theorem test_meets_fault_service : HostServed (served base) ∧ HostServed (resting (served (switched true))) ∧
    HostServed (served (switched false)) ∧ (served base).launchOf 0 0 = some 0 ∧ (0 : Dword).toNat / 512 % 64 = 0 ∧ (0 : Dword).getLsbD 63 = false ∧
    (served base).phase.issuing = true ∧ (resting (served (switched true))).phase.issuing = false ∧
    (resting (served (switched true))).wsels = [] ∧ (resting (served (switched true))).poison = [] ∧
    (let v : Dword := 0x8000000000000000
     v.toNat / 512 % 64 = 0 ∧ v.toNat / 32768 % 4 = 0 ∧ v.getLsbD 63 = true ∧ v.toNat % 512 = 0 ∧
     (∀ d : Fin 4, ((served (switched false)).ctx 0 d).swapAnswer = none) ∧
     (∀ d : Fin 4, ((served (switched true)).ctx 0 d).swapAnswer = none)) ∧
    (let s := served (switched false)
     (s.ctx 0 0).swapEntry = 0 ∧ (s.ctx 0 0).swapSaved = false) ∧
    (let s := served (switched true)
     (s.ctx 0 0).swapSaved = true ∧ (s.ctx 0 0).task = some 0 ∧ RecordOpen s 0 0 .write ((s.ctx 0 0).tsp - 64)) := by
  unfold HostServed RecordOpen AccessibleBy MayTouch recordRun; decide +kernel
theorem test_fnfail_enters : yields (exec (.fnfail 0) (served (switched true))) (fun t => t.me.tm && t.me.state == .ready) = true := by
  decide +kernel

theorem test_meets_queues : 2 ≤ (served base).stage ∧ HostServed (served base) ∧ ¬ HostServed base ∧ HostServed State.reset ∧
    (let r := (served base).queues.get 63
    ((16 : Word) - r.head).toNat ≤ 2 ^ r.lsz ∧ ((16 : Word) - r.tail).toNat ≤ 2 ^ 31 ∧ 2 ^ r.lsz < ((17 : Word) - r.head).toNat ∧
    r.en = false) ∧ State.reset.stage < 2 ∧ (0x1000 : Nat) / 256 % 32 = 16 ∧
    (let s := served (published true)
     HostServed s ∧ (s.queues.get 5).en = true ∧ (s.queues.get 5).head ≠ (s.queues.get 5).tail) := by
  unfold HostServed; decide +kernel
theorem test_meets_best_queue : ((published true).bestQueue).toOption = some (some 5) ∧
    ((published true).candidates).toOption = some [5] ∧ base.bestQueue.toOption = some none ∧
    (((published true).headLaunch 5).toOption.map (·.2)) = some true ∧
    (((published false).headLaunch 5).toOption.map fun r => (r.2, r.1.crec, r.1.signal)) = some (false, 0, 0) := by
  decide +kernel
theorem test_meets_invalid_record : OnlyQueue (published false) 5 0x20000 ∧
    (BitVec.ofNat 64 ((published false).value (0x20000 + 8 * 5) 8) : Dword).toNat % 256 ≠ 0 ∧
    (published false).value (0x20000 + 8 * 10) 8 = 0 ∧ (published false).value (0x20000 + 8 * 14) 8 = 0 := by
  unfold OnlyQueue; decide +kernel
theorem test_meets_valid_record : OnlyQueue (published true) 5 0x20000 ∧ PlainRecord (published true) 0x20000 1 0 0 := by
  unfold OnlyQueue PlainRecord; decide +kernel
theorem test_meets_group_start : (let s := waitingDevice
    s.waitingLaunches = [0] ∧ s.launch 0 = some fresh ∧ s.tableBusy 0 fresh = false ∧ s.groupSaved 0 fresh = false ∧
    s.chooseCluster 0 fresh s.awakeCores = some 0 ∧ s.recordsFree fresh 0 = true ∧ (∀ q : Fin 64, (s.queues.get q).changed = []) ∧
    (s.plan 0 fresh [] (s.awakeCores 0)).map (fun l => l.map fun p => (p.core, p.msg, p.ctxs)) = some [(0, [], [0])]) := by
  decide +kernel
theorem test_meets_plain_start : (let s := roomy
    let la := { fresh with clusters := [(0, 0)] }
    (∀ q : Fin 64, (s.queues.get q).changed = []) ∧ s.launches = [la] ∧ la.completed = false ∧ la.unrouted = false ∧ la.prio < 8 ∧
    ((s.regs.pcfg[la.part]?).getD 0).getLsbD (56 + clusterOf 0) = true ∧
    la.nextGroup < la.groups ∧ la.barSize = 1 ∧ la.span = 1 ∧ la.msgctx = 0 ∧ la.stab = 0 ∧
    la.clusters.lookup la.affinity = some (clusterOf 0) ∧ s.clearing = [] ∧ s.service = none ∧ s.preempts = [] ∧
    OnlyRoom s 0 0 ∧ (s.barrierList (clusterOf 0)).length + la.names.length ≤ 64) := by unfold OnlyRoom; decide +kernel
theorem test_group_starts : yields (exec .barrierGroupStart waitingDevice) (fun t =>
    t.tasks.map (fun k => (k.core, k.ctxs)) == [(0, [0])] && (t.ctx 0 0).pc == BitVec.ofNat 64 placedAt) = true := by
  decide +kernel
theorem test_meets_context_end : (∀ more ∈ [true, false], let s := endingTask more
    (s.ctx 0 0).ending = true ∧ Done s 0 0 ∧ (s.ctx 0 0).task = some 0) ∧
    (let s := endingTask true
     (s.ctx 0 1).task = some 0) ∧
    (let s := endingTask false
     (∀ d : Fin 4, d ≠ 0 → (s.ctx 0 d).task ≠ some 0) ∧ (s.task 0).map (fun t => (t.core, t.ctxs, t.launch)) = some (0, [0], 0) ∧
     (s.launch 0).map (·.completed) = some false ∧ (s.launch 0).map (fun la => la.nextGroup != la.groups) = some true ∧
     (s.ctx 0 0).reservedLaunch = none ∧ (s.task 0).map (·.frame) = some none ∧
     (s.launch 0).map (·.unrouted) = some false ∧ s.tasks.map (fun t => (t.killed, t.frame)) = [(none, none)]) := by
  unfold Done; decide +kernel
theorem test_meets_core_events : (let s := State.reset.modCore 63 fun co => { co with wake := .waking 0 }
    (s.core 63).wake = .waking 0 ∧ 0 ≤ s.sclk.toNat) ∧
    (let s := { State.reset with sclk := 8400 }
     (s.core 63).wake = .awake ∧ (∀ d, (s.ctx 63 d).reservedTask = none ∧ (s.ctx 63 d).reservedLaunch = none) ∧
     gateCycles ≤ s.sclk.toNat - (s.core 63).idleSince ∧ s.preempts = []) ∧
    State.reset.sclk.toNat - (State.reset.core 63).idleSince < gateCycles ∧
    (let s := { base.modMe fun cx => { cx with waitCount := 4088 } with phase := .pick 0 }
     s.aged 0 ≠ [] ∧ Aged s 0 0 ∧ s.phase = .pick 0 ∧ (s.core 0).held = false ∧
     ((s.modCore 0 fun co => { co with held := true }).core 0).held = true) := by unfold Aged; decide +kernel

theorem test_meets_messages : base.portCore ≠ some 0 ∧ (let m := message
    let s := { dormant base with messages := [m], phase := .port 0 }
    s.portCore = some m.core ∧ s.messages = [m] ∧ m.chip = [] ∧ m.order = [] ∧ m.circuit = [] ∧ s.log = [] ∧ m.far = none ∧
    (s.core m.core).channels.get m.ctx = [] ∧ HasMail s m.target m.launch ∧ s.poison = [] ∧ m.accepted = false ∧
    m.ready = true ∧ m.remote = false ∧ m.stale = [] ∧ HasRoom s m.target m.launch ∧
    (let m := { message with accepted := true, data := [1] }
     m.data ≠ [] ∧ m.remote = false ∧ m.due ≤ s.sclk.toNat ∧ m.ahead = [] ∧
       (∀ x ∈ m.keys, isExposed x = false ∧ x < peerBase)) ∧
    (let m := { message with far := some 1, sent := 1 }
     m.far = some 1 ∧ m.sent ≠ 0 ∧ m.accepted = false)) := by
  unfold HasMail HasRoom; decide +kernel
/-- The landing of cluster 1, reached through a circuit. -/
theorem test_meets_far_payload : (let m := { message with
      target := 8, dst := BitVec.ofNat 64 (lbase + landingBytes), accepted := true, data := [1], sent := 1
      circuit := [(0, 32, 0, 8)] }
    ({ base with phase := .store 9, sclk := 32 }).circuitCore = some m.target ∧ 32 ≤ ({ base with sclk := 32 } : State).sclk.toNat ∧
    m.ahead = [] ∧ m.remote = true ∧ m.circuit = [(0, 32, 0, m.target)] ∧ m.sent = m.pieces.length ∧ m.pieces[0]? = some (0, 1) ∧ 0 + 1 ≤ m.data.length ∧
    m.ahead.length + 1 = m.data.length ∧ m.data ≠ [] ∧
    (∀ x ∈ m.keys, isExposed x = false ∧ x < peerBase)) := by decide +kernel
theorem test_meets_handlers : (mailed.core 0).inbox.map (·.launch) = [0] ∧ (mailed.launch 0).isSome = true ∧
    (mailed.ctx 0 3).state = .dormant ∧ (mailed.ctx 0 3).reservedLaunch = some 0 ∧
    (∀ d : Fin 4, d < 3 → (mailed.ctx 0 d).state ≠ .dormant ∨ (mailed.ctx 0 d).reservedLaunch ≠ some 0) ∧
    (base.core 0).inbox = [] := by decide +kernel
theorem test_handler_starts : yields (exec (.handlerStart 0) mailed) (fun t =>
    (t.core 0).inbox == [] && (t.ctx 0 3).pc == 8 && (t.ctx 0 3).view == 4 && (t.ctx 0 3).edges.contains (3, 5) && (t.ctx 0 3).sregs.get 1 == BitVec.ofNat 64 lbase) = true := by decide +kernel
theorem test_meets_deliveries : ¬ HasMail base 0 0 ∧ (let s := dormant sender
    (s.launch 0).map (fun la => (la.key, la.handlers[(0#4).toNat]?)) = some (0, some 8) ∧ HasMail s 0 0 ∧ HasRoom s 0 0 ∧ s.circling = []) ∧
    (let i := Instr.remoteMessageDelivery 0 0 0 0 0 0 0 []
     let s := { served base with circling := [(5, true, i)] }
     s.circling = [(5, true, i)] ∧ s.replies = [] ∧ 0 < s.credit (s.linkTo 1) 0 ∧ s.sclk.toNat < 5 ∧
       5 ≤ ({ s with sclk := 5 } : State).sclk.toNat) ∧
    base.fifoUse 0 0 3 < 16 ∧ 16 ≤ (base.modMe fun cx => { cx with fi := cx.fi.set 3 (List.replicate 16 7) }).fifoUse 0 0 3 ∧
    State.reset.preempts = [] ∧ (let p : Preempt := ⟨[0], true, [0], false, [(0, 0, base.me)], none⟩
      savedAway.preempts = [p] ∧ p.saved = true ∧ p.kept.map (·.2.1) = [0] ∧ (savedAway.task 0).map (·.core) = some 0) ∧ (let s := { base with fifoq := [(0, 0, 3, 9, 1)] }
    ∃ e ∈ s.fifoq, e.1 = 0 ∧ e.2.1 = 0 ∧ e.2.2.1 = 3) ∧ (State.reset.ctx 0 0).task = none ∧ HostServed State.reset ∧
    ((0x100 : Dword).extractLsb' 8 6).toNat ≠ 0 ∧ (base.ctx 0 0).task ≠ none := by
  unfold HasMail HasRoom HostServed; decide +kernel
theorem test_meets_preempt_save : (let s := stopping
    (s.task 0).map (fun t => (t.core, t.ctxs)) = some (0, [0]) ∧ s.preempts[0]? = some ⟨[0], false, [], false, [], none⟩ ∧
    (∀ tk ∈ s.task 0, AloneInGroup s 0 tk) ∧
    (s.ctx 0 0).task = some 0 ∧ (s.ctx 0 0).tm = false ∧ (s.ctx 0 0).ending = false ∧ (s.ctx 0 0).state = .ready ∧
    (s.ctx 0 0).stopped = true ∧ s.sketchBusy 0 (some 0) = false ∧ 1 ≤ s.regs.spooln.toNat ∧
    s.regs.spoolb.toNat + 8 * s.regs.spooln.toNat ≤ hbmBytes ∧ topFrame s + 2 ^ 23 ≤ hbmBytes) := by
  unfold AloneInGroup; decide +kernel
theorem test_meets_preempt_resume : (let s := savedAway
    s.preempts[0]? = some ⟨[0], true, [0], false, [(0, 0, base.me)], none⟩ ∧
    (s.task 0).map (·.frame) = some (some 0) ∧ (s.ctx 0 0).reservedTask = none ∧ (s.ctx 0 0).reservedLaunch = none ∧
    (s.core 0).wake = .awake ∧ FreeFor s 0 0 ∧ NoneWaits s ∧ s.clearing = [] ∧
    s.service = none ∧ s.poison = [] ∧ s.regs.spoolb.toNat + 8 * s.regs.spooln.toNat + 8 ≤ hbmBytes ∧
    s.regs.spooln.toNat < 65535 ∧ base.me.state = .ready ∧ base.me.wait = none) ∧
    (let la := placedLaunch 0
     la.completed = true ∨ la.nextGroup ≠ 0) := by unfold FreeFor NoneWaits; decide +kernel

theorem test_meets_stops : (let s := pooled (served (base.modCtx 0 0 fun cx => { cx with heldCut := some 3 }))
    HostServed s ∧ (∀ tk ∈ s.task 0, OnlyHeld s 0 tk 0) ∧ (s.task 0).map (·.ctxs) = some [0] ∧ 1 ≤ s.regs.spooln.toNat ∧
    s.regs.spoolb.toNat + 8 * s.regs.spooln.toNat ≤ hbmBytes ∧ topFrame s + 2 ^ 23 ≤ hbmBytes ∧ s.prioOf 0 0 = some 0) ∧
    HostServed (served base) ∧ (served base).regs.dtarget.toNat ≤ 0 ∧
    (let s := { base with regs := { base.regs with dtarget := 5 } }
     (4 : Dword).toNat < s.regs.dtarget.toNat) ∧
    (let s := served (base.modMe fun cx => { cx with state := .stopped })
     HostServed s ∧ (s.ctx 0 0).state = .stopped ∧ (s.ctx 0 0).task = some 0) ∧ (base.ctx 0 0).state ≠ .stopped ∧
    (0 : Dword).toNat % 256 = 4 * 0 + 0 := by unfold OnlyHeld HostServed; decide +kernel
theorem test_meets_in_stop : InStop base 0 base.me := .inl ⟨0, 0, 0, rfl, by decide +kernel, by decide⟩
/-! ### The compressed space, the ring, claims and the host -/

namespace Sys2Proof.Tests

/-- A write of the host that waits for sectors of the compressed space. -/
def hostWrite : WaitingWrite := ⟨4, .host, [(exposedBase, 1)], some 0⟩
def starved (w : WaitingWrite) : State :=
  { base with waitingWrites := [w], regs := { base.regs with cmpEn := true, cxsize := 1 }, sclk := 1400000 }
/-- Context 0 waits for sectors, or for a word of device 1. -/
def sectored : State :=
  (starved { hostWrite with writer := Writer.context 0 0 4 }).modCtx 0 0 fun cx =>
    { cx with async := [{ access 4 1 (.write [(exposedBase, 1)]) with waiting := some 0 }] }
def farAsync (act : MemAct) : Async := access 4 1 act
def far (act : MemAct) : State := base.modCtx 0 0 fun cx => { cx with pbmem := 8, async := [farAsync act] }
/-- Window 1 covers the page at 0x10000; its group is the own device, or the own device and rank 1. -/
def windowed (group : Dword) : State :=
  { base with
    regs := { base.regs with
      rdwin := base.regs.rdwin.set 1 ⟨0x10000, 0x8000000000000001⟩, bgrp := base.regs.bgrp.set 0 group
      pexp := base.regs.pexp.set 3 (0x10000, 0x1000) } }

end Sys2Proof.Tests

theorem test_meets_compressed : HostServed (served base) ∧ 2 ≤ (served base).stage ∧ State.reset.stage < 2 ∧ base.regs.cmpBusy = false ∧
    (let s := { base with regs := { base.regs with cmpBusy := true } }
     s.regs.cmpBusy = true) ∧
    (0x8000000000000000 : Dword).getLsbD 63 = true ∧ (0 : Dword).getLsbD 63 = false ∧
    base.regs.exposedBytes < 0 + 4096 ∧ (let s := { served base with regs := { base.regs with cxsize := 1 } }
     HostServed s ∧ 0 + 4096 ≤ s.regs.exposedBytes ∧ s.regs.cxsize ≤ 1024 ∧ s.regs.cmpBusy = false ∧ s.waitingWrites = []) := by
  unfold HostServed; decide +kernel
theorem test_meets_waiting_write : (starved hostWrite).waitingWrites = [hostWrite] ∧ hostWrite.writer = .host ∧
    (starved hostWrite).regs.cmpBusy = false ∧ hostWrite.cells ≠ [] ∧ (starved hostWrite).poison = [] ∧
    (starved { hostWrite with writer := .report }).waitingWrites = [{ hostWrite with writer := .report }] ∧
    (∀ y ∈ hostWrite.cells, isExposed y.1 = true ∧ exposedBlock y.1 = 0) ∧
    ((starved hostWrite).shapeAfter 0 [(exposedBase, 0)]).2 ≤ ((starved hostWrite).blockMeta 0).nsec ∧
    (let s := { starved hostWrite with regs := { (starved hostWrite).regs with cpool := 1 } }
     let need := (s.shapeAfter 0 hostWrite.cells).2
     0 < need ∧ 0 ≤ s.chunks.length ∧ 0 < s.regs.poolChunks ∧ 0 + need ≤ 8 ∧ s.chunkMask 0 &&& runMask 0 need = 0) ∧
    0 + (starved hostWrite).regs.skbnd.toNat ≤ (starved hostWrite).sclk.toNat ∧
    hostWrite.since = some 0 ∧ 1399999 < 0 + base.regs.skbnd.toNat ∧
    (let s := sectored
     (s.ctx 0 0).async.map (fun a => (a.id, a.waiting.isSome, a.suspended)) = [(4, true, false)] ∧ 4 ∉ (s.ctx 0 0).blockedOn) ∧
    base.replies = [] ∧ base.credit (base.linkTo 1) 0 = 0 ∧ 0 < (served base).credit ((served base).linkTo 1) 0 := by
  decide +kernel
theorem test_meets_skidder_pass : (let s := resting (starved hostWrite)
    base.phase.issuing = true ∧ s.phase.issuing = false ∧ s.waitingWrites = [hostWrite] ∧ s.evicting = none ∧ s.regs.spln = 0 ∧
    s.regs.cfree < s.sectorsNeeded hostWrite) := by decide +kernel
theorem test_bound_expires : yields (exec (.skidderBoundExpiry 4) sectored) (fun t =>
    t.me.latched.map (·.1) == [.oos] && t.regs.oosn == 1 && t.waitingWrites == []) = true := by decide +kernel

theorem test_meets_ring_slots : (let s := served (windowed 0)
    s.buffered = [] ∧ s.replies = [] ∧ s.log = [] ∧ 0 < s.credit (s.linkTo 1) 0 ∧ (windowed 0).credit ((windowed 0).linkTo 1) 0 = 0 ∧
    let exported (a n : Nat) : Prop := (s.regs.pexp.get 3).1.toNat ≤ a ∧ a + n ≤ (s.regs.pexp.get 3).1.toNat + (s.regs.pexp.get 3).2.toNat
    exported (0x10000 / 256 * 256) 256 ∧ 0x10000 / 256 * 256 + 256 ≤ hbmBytes ∧ s.poison = [] ∧ exported 0x10FFF 1 ∧
    exported 0x10FF8 ([1, 0, 0, 0, 0, 0, 0, 0] : List Byte).length ∧ ¬ exported 0x10FFF 2 ∧ ¬ exported 0x11000 1 ∧
    (∀ i : Fin 4, i ≠ 3 → (s.regs.pexp.get i).2 = 0)) := by decide +kernel
theorem test_meets_bounces : ∀ act ∈ [MemAct.write [(peerKey 1 0, 1)], .read [peerKey 1 0] (.scalar 1 false)],
    ((far act).ctx 0 0).async = [farAsync act] ∧ Sys2Proof.Spec.Free (far act) (farAsync act) ∧
    (farAsync act).id ∉ ((far act).ctx 0 0).blockedOn ∧ (far act).messages = [] ∧
    (∃ y ∈ (farAsync act).act.keys, peerBase ≤ y) ∧ ∀ y ∈ (farAsync act).act.keys, isExposed y = false := by
  unfold Sys2Proof.Spec.Free; decide +kernel
theorem test_meets_send_bounce : (let m := { message with far := some 1, sent := 1 }
    let cmd := { command (.localMem locbase) (.landing lbase) 1 with id := 7, message := some 7 }
    let s := { copying cmd with messages := [m] }
    m.sent ≠ 0 ∧ (s.core 0).channels.get 0 = [cmd] ∧ cmd.id = m.id ∧ cmd.message = some m.id ∧
    cmd.started ≠ none ∧ s.messages = [m] ∧ m.core = 0 ∧ m.ctx = 0 ∧ m.far = some 1) := by decide +kernel
theorem test_meets_links : ((⟨1, 1, 1⟩ : LinkSetting) ≠ ⟨2, 1, 1⟩) ∧ (base.links.get 9).failures < 2 ∧
    (let s := { base with links := base.links.set 9 { Link.reset with failures := 2, replay := [(3, 0)] } }
     2 ≤ (s.links.get 9).failures ∧ (3, 0) ∈ (s.links.get 9).replay ∧ 3 ≤ (3, 0).1) ∧
    (base.links.get 9).accepted < (base.links.get 9).counted + 512 ∧
    (let x : RingSlot := ⟨1, 0, false, .read, 0⟩
     let s : State := { base with
       links := base.links.set 2 { Link.reset with up := true, accepted := 512 }, buffered := [x] }
     (s.links.get 2).counted + 512 ≤ (s.links.get 2).accepted ∧ s.circling = [] ∧ s.buffered = [x] ∧ s.linkFrom x.src = 2) := by
  decide +kernel
theorem test_meets_reductions : (let s := windowed 0x8000000000010100
    Within (s.regs.rdwin.get 1) s.rank 0x10FF8 ∧ s.rounds = [] ∧ s.waitingWrites = [] ∧ s.log = [] ∧ s.expectedRound 1 0x10FF8 = 0 ∧
    0x10FF8 + 8 ≤ hbmBytes ∧ groupMembers (s.rdGroup 1) = [0] ∧ s.lostRanks = [] ∧ 1 ≤ (2#2).toNat ∧ (2#2).toNat ≤ 2) ∧
    (let s := windowed 0x8000000000020100
     (groupMembers (s.rdGroup 1)).any (fun r => r != 0) = true) ∧
    (let r : Round := ⟨1, 0x10000, 2, 0, [(0, 5)], [], false⟩
     let s := { windowed 0x8000000000020100 with rounds := [r] }
     s.rounds = [r] ∧ r.win = (1 : Dword).toNat % 8 ∧ r.number = s.expectedRound r.win r.addr ∧ r.contributions ≠ [] ∧
     r.disturbed = false ∧ s.waitingWrites = [] ∧ s.log = [] ∧ r.ids = [] ∧ r.addr + redBytes r.op ≤ hbmBytes) := by unfold Within; decide +kernel
theorem test_contribution_completes : yields (exec (.reductionContribution 1 0x10010 2 0 0 5)
    { windowed 0x8000000000010100 with mem := base.mem.write 0x10010 [7] }) (fun t =>
      t.value 0x10010 8 == 12 && t.expectedRound 1 0x10010 == 1) = true := by decide +kernel

theorem test_meets_plane : (let s := { inGroup with phase := .tick }
    s.phase = .tick ∧ (1 : BitVec 7) ≠ s.rank ∧ groupHas 0x8000000000020100 s.rank = true ∧ s.lostRanks = [] ∧
    (s.claimSlot 3).opened = none) ∧
    claimed.lostRanks = [] ∧ (claimed.claimSlot 5).opened = none ∧ (claimed.claimSlot 3).opened = some openSet ∧
    (let s := { claimed with phase := .tick }
     (s.claimSlot 3).opened = some openSet ∧ 10 ≤ openSet.t0 + openSet.bound ∧ openSet.t0 + openSet.bound < 11 ∧
     openSet.mixed = false ∧ openSet.claims ≠ [] ∧ s.ringTime < openSet.t0 + openSet.win + openSet.bound ∧
     openSet.t0 + openSet.win + openSet.bound ≤ 100010) ∧
    (groupHas (claimed.blazeGroup 0) claimed.rank = true ∧ (groupMembers (claimed.blazeGroup 0)).contains 1 = true) ∧
    (let s := { claimed with ringTime := 100 }
     (1 : BitVec 7) ≠ s.rank ∧ s.lostRanks = [] ∧ (s.heard.lookup 1).getD 0 + 2 * 40 ≤ s.ringTime ∧
       claimed.ringTime < (claimed.heard.lookup 1).getD 0 + 2 * 40) ∧
    (let s := { claimed with ringTime := 7, beats := [(7, 1)] }
     (1 : BitVec 7) ≠ s.rank ∧ s.lostRanks = [] ∧ s.beats = [(7, 1)] ∧ 7 ≤ s.ringTime ∧
       { s with ringTime := 6 }.ringTime < 7) := by
  decide +kernel
theorem test_beat_is_heard : let t := { claimed with ringTime := 7, beats := [(7, 1), (8, 2)] }.hearBeats
    t.heard.lookup 1 = some 7 ∧ t.heard.lookup 2 = none ∧ t.beats = [(8, 2)] := by decide +kernel
theorem test_decision : yields (exec (.blazeDecision 3) { claimed with ringTime := 100010 }) (fun t =>
    let u := t.claimSlot 3
    (u.opened, u.seq, u.winner, u.value, u.code) == (none, 1, 1, 7, 3)) = true := by decide +kernel
theorem test_meets_host_claims : (let v : Dword := 0x8000000000000000
    v.getLsbD 63 = true ∧ v.getLsbD 62 = false ∧ HostServed (served base) ∧ (served base).mayClaim (v.toNat / 16 % 8) = false ∧
    HostServed (served inGroup) ∧ (served inGroup).mayClaim (v.toNat / 16 % 8) = true ∧
    ((served inGroup).claimSlot (v.toNat % 16)).opened = none) ∧
    (let v : Dword := 0xC000000000000003
     v.getLsbD 63 = true ∧ v.getLsbD 62 = true ∧ (served base).objectable (v.toNat % 16) = none ∧
     HostServed (served claimed) ∧ (served claimed).objectable (v.toNat % 16) = some openSet) := by
  unfold HostServed; decide +kernel

theorem test_meets_stages : State.reset.stage = 0 ∧ State.reset.regs.vfail = false ∧
    (let s := { State.reset with regs := { State.reset.regs with vfail := true } }
     s.regs.vfail = true) ∧ (let s := { State.reset with stage := 1 }
     s.stage = 1) ∧ base.stage = 2 ∧ base.regs.h2base.toNat + (hbmBytes - 8) + 8 ≤ hbmBytes ∧
    stack0Bytes ≤ State.reset.regs.h2base.toNat + stack0Bytes ∧ State.reset.regs.h2base.toNat + stack0Bytes + 8 ≤ 2 ^ 64 ∧
    HostServed State.reset ∧ HostServed (served base) ∧ (served base).stage = 2 ∧ ¬ HostServed base ∧ base.poison = [] := by
  unfold HostServed; decide +kernel
theorem test_meets_partitions : State.reset.regs.pcfg.get 0 &&& 1 &&& 0xFFFE0000FFFFFFFF ≠ 0 ∧
    ((base.regs.pcfg.get 0 ||| 0).getLsbD (56 + clusterOf 0) = true ∧ (base.ctx 0 0).reservedTask ≠ none) ∧
    (∀ p : Fin 8, p ≠ 0 → State.reset.regs.pcfg.get p &&& 0xFFFF0000FFFFFFFF &&& 0xFFFE0000FFFFFFFF = 0) ∧
    (∀ (k : Fin 64) (c : Fin 4), (State.reset.ctx k c).reservedTask = none ∧ (State.reset.ctx k c).reservedLaunch = none) ∧
    HostServed State.reset ∧ State.reset.preempts = [] ∧ ((List.range 8).filter fun p => (State.reset.clustersOf p).any (1#8).getLsbD) = [0] ∧
    State.reset.launches = [] := by unfold HostServed; decide +kernel
theorem test_meets_service : HostServed (served base) ∧ (served base).regs.svcBusy = false ∧ (7#8).toNat < 8 ∧
    (let s := served base
     ∀ m : Fin 10, (s.links.get m).up = true) ∧
    (let s := { served base with service := some ⟨1, 0⟩, regs := { base.regs with svcBusy := true, attBusy := true } }
     HostServed s ∧ s.regs.svcBusy = true ∧ s.service = some ⟨1, 0⟩ ∧ s.regs.attBusy = true ∧ s.stage = 2 ∧ s.waitingWrites = [] ∧ s.regs.attbuf.toNat + 30600 ≤ hbmBytes) ∧
    base.regs.attBusy = false ∧ base.regs.plim < (4095#12).toNat ∧ (2600#12).toNat ≤ base.regs.plim := by
  unfold HostServed; decide +kernel
theorem test_meets_changed_records : (let s := published true
    let r := s.queues.get 5
    s.stage = 2 ∧ s.regs.h2base.toNat + 0x200FF + 1 ≤ hbmBytes ∧ 0 < (r.tail - r.head).toNat ∧
    r.base.toNat + 256 * 0 ≤ s.regs.h2base.toNat + 0x200FF + 0 ∧ s.regs.h2base.toNat + 0x200FF + 0 < r.base.toNat + 256 * 0 + 256) := by
  decide +kernel
theorem test_meets_registers : (0x40000000 : Dword).getLsbD 63 = false ∧ (0x40000000 : Dword).getLsbD 62 = false ∧ 1200 ≤ (1200 : Dword).toNat % 4096 ∧ (2600 : Dword).toNat % 4096 ≤ 2600 ∧ 0x301 % 8 ≠ 0 ∧
    (let s := { base with regs := { base.regs with cmpEn := true } }
     s.regs.cmpEn = true) := by decide +kernel
end

/-! Proofs about the scalar and predicate forms (R110-R113): the frame rule of each shape of form, the arithmetic that
the forms compute, and the four statements assembled from them. -/

namespace Sys2Proof

/-- The value of two bit strings set side by side. -/
theorem toNat_append_eq_add {v w : Nat} (x : BitVec v) (y : BitVec w) : (x ++ y).toNat = x.toNat * 2 ^ w + y.toNat := by
  rw [BitVec.toNat_append, ← Nat.shiftLeft_add_eq_or_of_lt y.isLt, Nat.shiftLeft_eq]

/-! ### The fields of a slot word (R50) -/

theorem wordClass_slotWord (cls : BitVec 3) (op : BitVec 6) (o : BitVec 22) : wordClass (slotWord cls op o) = cls := by
  rw [wordClass, slotWord, BitVec.extractLsb'_append_eq_of_le (by decide),
    BitVec.extractLsb'_append_eq_of_le (by decide), BitVec.extractLsb'_append_eq_right]

theorem wordOp_slotWord (cls : BitVec 3) (op : BitVec 6) (o : BitVec 22) : wordOp (slotWord cls op o) = op := by
  rw [wordOp, slotWord, BitVec.extractLsb'_append_eq_of_le (by decide), BitVec.extractLsb'_append_eq_right]

theorem wordOpnd_slotWord (cls : BitVec 3) (op : BitVec 6) (o : BitVec 22) : wordOpnd (slotWord cls op o) = o :=
  BitVec.extractLsb'_append_eq_right

theorem clearStop_slotWord (cls : BitVec 3) (op : BitVec 6) (o : BitVec 22) :
    clearStop (slotWord cls op o) = slotWord cls op o := by
  rw [clearStop, wordClass_slotWord, wordOp_slotWord, wordOpnd_slotWord]

theorem slotWord_opnd_inj {cls : BitVec 3} {op : BitVec 6} {o o' : BitVec 22}
    (h : slotWord cls op o = slotWord cls op o') : o = o' := by
  rw [← wordOpnd_slotWord cls op o, h, wordOpnd_slotWord]

/-! ### Words of the scalar units: what is refused, what is encoded (R56, R66) -/

theorem rawDecode_scalar (u : ScalarUnit) (op : BitVec 6) (o : BitVec 22) :
    rawDecode u.cls op o = decodeScalar u op o := by
  cases u <;> rfl

/-- A word of a scalar unit is refused where its instruction is not encoded by it, or holds a reserved value. -/
theorem decode_scalar_eq_none {u : ScalarUnit} {op : BitVec 6} {o : BitVec 22} {i : Instr}
    (hi : decodeScalar u op o = some i) (h : encode i = some (slotWord u.cls op o) → i.wellFormed = false) :
    decode (slotWord u.cls op o) = none := by
  rw [decode, wordClass_slotWord, wordOp_slotWord, wordOpnd_slotWord, clearStop_slotWord, rawDecode_scalar, hi]
  exact if_neg fun ⟨he, hw⟩ => by simp [h he] at hw

theorem cmp_not_wellFormed (u : ScalarUnit) (a b c : BitVec 6) {k : BitVec 4} (h : 10 ≤ k.toNat) :
    (Instr.cmp u a b c k).wellFormed = false := by
  simp [Instr.wellFormed, Nat.not_le.mpr h]

theorem cmpi_not_wellFormed (u : ScalarUnit) (a b c : BitVec 6) {k : BitVec 4} (h : 10 ≤ k.toNat) :
    (Instr.cmpi u a b c k).wellFormed = false := by
  simp [Instr.wellFormed, Nat.not_le.mpr h]

theorem decode_cmp_reserved (u : ScalarUnit) (abc : BitVec 18) {k : BitVec 4} (h : 10 ≤ k.toNat) :
    decode (slotWord u.cls 32 (abc ++ k)) = none := by
  refine decode_scalar_eq_none rfl fun _ => cmp_not_wellFormed u _ _ _ ?_
  rwa [BitVec.extractLsb'_append_eq_right]

theorem decode_cmpi_reserved (u : ScalarUnit) (abc : BitVec 18) {k : BitVec 4} (h : 10 ≤ k.toNat) :
    decode (slotWord u.cls 33 (abc ++ k)) = none := by
  refine decode_scalar_eq_none rfl fun _ => cmpi_not_wellFormed u _ _ _ ?_
  rwa [BitVec.extractLsb'_append_eq_right]

/-- QFROMS keeps one bit of MOD: a word with another of its bits set is not the one that the encoder gives back. -/
theorem decode_qfroms_reserved (u : ScalarUnit) (x : BitVec 18) {k : BitVec 4} (h : 2 ≤ k.toNat) :
    decode (slotWord u.cls 41 (x ++ k)) = none := by
  refine decode_scalar_eq_none rfl fun he => ?_
  have ho := congrArg BitVec.toNat (slotWord_opnd_inj (Option.some.inj he))
  simp only [toNat_append_eq_add, BitVec.toNat_ofNat] at ho
  omega

/-- The unused bits of a QFROMS word and its one bit of MOD, as one field. -/
theorem encode_qfroms (u : ScalarUnit) (a b : BitVec 6) (f : BitVec 1) :
    encode (.qfroms u a b f) = some (slotWord u.cls 41 (a ++ b ++ (0#9 ++ f))) :=
  congrArg (fun o => some (slotWord u.cls 41 o)) BitVec.append_assoc

end Sys2Proof

namespace Sys2Proof.Machine

open Sys2Proof.Spec

/-! ### The shapes of a form, at a destination that the device takes -/

/-- A result bound for a destination that the device takes goes on its way, and the slot ends there. -/
theorem State.settle_writeS_of_writable (s : State) {t : State} {a : BitVec 6} (h : Writable t a) (v : Dword) (n : Nat) :
    s.settle (t.writeS a v n) = .next (landS t a v n) := by
  by_cases ha : a.toNat < 32
  · rw [t.writeS_reg ha, State.settle_ok, landS, if_pos ha]
  · have hfo := h.resolve_left ha
    rw [t.writeS_fo (Nat.not_lt.mp ha), if_pos hfo, State.settle_ok, landS, if_neg ha]

theorem State.alu2_of_writable {s : State} {a b c : BitVec 6} (h : Writable (afterC s b c) a) (n : Nat)
    (f : Dword → Dword → Dword) :
    s.alu2 a b c n f = .next (landS (afterC s b c) a (f (srcB s b) (srcC s b c)) n) :=
  s.settle_writeS_of_writable h _ n

theorem State.alu1_of_writable {s : State} {a b : BitVec 6} (h : Writable (afterB s b) a) (f : Dword → Dword) :
    s.alu1 a b f = .next (landS (afterB s b) a (f (srcB s b)) 1) :=
  s.settle_writeS_of_writable h _ 1

theorem State.alu3_of_reg (s : State) {a : BitVec 6} (b c : BitVec 6) (h : a.toNat < 32)
    (f : Dword → Dword → Dword → Dword) :
    s.alu3 a b c f =
      .next (landS (afterC s b c) a (f (oldA (afterC s b c) a) (srcB s b) (srcC s b c)) 1) :=
  s.settle_writeS_of_writable (.inl h) _ 1

@[simp] theorem State.predOp_eq (s : State) (a : BitVec 6) (v : Dword) :
    s.predOp a v = .next (s.land (.pred a.toNat v) 1) := rfl

/-! ### Which shape each form has (Dispatch.lean and Scalar.lean, arm by arm) -/

section
variable (s : State) (u : ScalarUnit) (a b c : BitVec 6)

theorem exec_div : exec (.div u a b c) s = s.alu2 a b c 18 divS := rfl
theorem exec_divu : exec (.divu u a b c) s = s.alu2 a b c 18 divU := rfl
theorem exec_rem : exec (.rem u a b c) s = s.alu2 a b c 18 remS := rfl
theorem exec_remu : exec (.remu u a b c) s = s.alu2 a b c 18 remU := rfl
theorem exec_shl : exec (.shl u a b c) s = s.alu2 a b c 1 shiftL := rfl
theorem exec_shr : exec (.shr u a b c) s = s.alu2 a b c 1 shiftR := rfl
theorem exec_sar : exec (.sar u a b c) s = s.alu2 a b c 1 shiftA := rfl
theorem exec_shli : exec (.shli u a b c) s = s.alu1 a b (shiftL · (c.zeroExtend 64)) := rfl
theorem exec_shri : exec (.shri u a b c) s = s.alu1 a b (shiftR · (c.zeroExtend 64)) := rfl
theorem exec_sari : exec (.sari u a b c) s = s.alu1 a b (shiftA · (c.zeroExtend 64)) := rfl
theorem exec_fshl : exec (.fshl u a b c) s = s.alu3 a b c funnelL := rfl
theorem exec_fshr : exec (.fshr u a b c) s = s.alu3 a b c funnelR := rfl
theorem exec_qand : exec (.qand u a b c) s = s.predOp a (s.qreg 0 b.toNat &&& s.qreg 1 c.toNat) := rfl
theorem exec_qor : exec (.qor u a b c) s = s.predOp a (s.qreg 0 b.toNat ||| s.qreg 1 c.toNat) := rfl
theorem exec_qxor : exec (.qxor u a b c) s = s.predOp a (s.qreg 0 b.toNat ^^^ s.qreg 1 c.toNat) := rfl
theorem exec_cmp (k : BitVec 4) : exec (.cmp u a b c k) s = s.alu2 a b c 1 fun x y => truth (condition k x y) := rfl
theorem exec_cmpi (k : BitVec 4) :
    exec (.cmpi u a b c k) s = s.alu1 a b fun x => truth (condition k x (BitVec.ofInt 64 c.toInt)) := rfl
theorem exec_qnot : exec (.qnot u a b) s = s.predOp a (~~~(s.qreg 0 b.toNat)) := rfl
theorem exec_qfroms (x : BitVec 1) : exec (.qfroms u a b x) s =
    (afterB s b).predOp a (if x = 0 then srcB s b else if srcB s b ≠ 0 then 0xFFFFFFFFFFFFFFFF else 0) := rfl
theorem exec_qtos : exec (.qtos u a b) s = s.settle (s.writeS a (s.qreg 0 b.toNat) 1) := rfl
theorem exec_qpopc : exec (.qpopc u a b) s = s.settle (s.writeS a (countOnes (s.qreg 0 b.toNat)) 1) := rfl

end

/-! ### Division (R111) -/

@[simp] theorem divS_zero (x : Dword) : divS x 0#64 = 0xFFFFFFFFFFFFFFFF#64 := rfl
@[simp] theorem divU_zero (x : Dword) : divU x 0#64 = 0xFFFFFFFFFFFFFFFF#64 := rfl
@[simp] theorem remS_zero (x : Dword) : remS x 0#64 = 0xFFFFFFFFFFFFFFFF#64 := rfl
@[simp] theorem remU_zero (x : Dword) : remU x 0#64 = 0xFFFFFFFFFFFFFFFF#64 := rfl

/-- -2^63 / -1 is 2^63, which wraps. -/
theorem divS_min_neg_one : divS 0x8000000000000000 0xFFFFFFFFFFFFFFFF = 0x8000000000000000 := by decide
theorem remS_min_neg_one : remS 0x8000000000000000 0xFFFFFFFFFFFFFFFF = 0 := by decide

theorem divS_of_ne_zero (x : Dword) {y : Dword} (h : y ≠ 0) : divS x y = BitVec.ofInt 64 (x.toInt.tdiv y.toInt) :=
  if_neg h

theorem divU_of_ne_zero (x : Dword) {y : Dword} (h : y ≠ 0) : divU x y = BitVec.ofNat 64 (x.toNat / y.toNat) :=
  if_neg h

theorem remS_of_ne_zero (x : Dword) {y : Dword} (h : y ≠ 0) :
    remS x y = BitVec.ofInt 64 (x.toInt - x.toInt.tdiv y.toInt * y.toInt) := by
  rw [remS, if_neg h, Int.tmod_def, Int.mul_comm]

theorem remU_of_ne_zero (x : Dword) {y : Dword} (h : y ≠ 0) :
    remU x y = BitVec.ofNat 64 (x.toNat - x.toNat / y.toNat * y.toNat) := by
  rw [remU, if_neg h, Nat.mod_eq_sub_div_mul]

/-! ### Shifts (R110) -/

theorem shiftL_eq (x n : Dword) : shiftL x n = if n.toNat ≤ 63 then x <<< n.toNat else 0 := by
  simp only [shiftL, Nat.lt_succ_iff]

theorem shiftR_eq (x n : Dword) : shiftR x n = if n.toNat ≤ 63 then x >>> n.toNat else 0 := by
  simp only [shiftR, Nat.lt_succ_iff]

/-- A shift by 63 with sign fill leaves the sign in every bit. -/
theorem sshiftRight_63 (x : Dword) : x.sshiftRight 63 = if 0 ≤ x.toInt then 0 else 0xFFFFFFFFFFFFFFFF := by
  have hlo : -2 ^ 63 ≤ x.toInt := x.le_toInt
  have hhi : x.toInt < 2 ^ 63 := x.toInt_lt
  apply BitVec.eq_of_toInt_eq
  rw [BitVec.toInt_sshiftRight, Int.shiftRight_eq_div_pow]
  split
  · have : (0 : Dword).toInt = 0 := rfl
    omega
  · have : (0xFFFFFFFFFFFFFFFF : Dword).toInt = -1 := rfl
    omega

theorem shiftA_eq (x n : Dword) :
    shiftA x n = if n.toNat ≤ 63 then x.sshiftRight n.toNat else if 0 ≤ x.toInt then 0 else 0xFFFFFFFFFFFFFFFF := by
  unfold shiftA
  split
  · next h => rw [Nat.min_eq_left h]
  · next h => rw [Nat.min_eq_right (by omega), sshiftRight_63]

theorem toNat_zeroExtend_field (n : BitVec 6) : (n.zeroExtend 64 : Dword).toNat = n.toNat :=
  BitVec.toNat_setWidth_of_le (by decide)

/-- An amount in a field of six bits is one of 0 to 63. -/
theorem shiftL_field (x : Dword) (n : BitVec 6) : shiftL x (n.zeroExtend 64) = x <<< n.toNat := by
  rw [shiftL_eq, toNat_zeroExtend_field, if_pos (by omega)]

theorem shiftR_field (x : Dword) (n : BitVec 6) : shiftR x (n.zeroExtend 64) = x >>> n.toNat := by
  rw [shiftR_eq, toNat_zeroExtend_field, if_pos (by omega)]

theorem shiftA_field (x : Dword) (n : BitVec 6) : shiftA x (n.zeroExtend 64) = x.sshiftRight n.toNat := by
  rw [shiftA_eq, toNat_zeroExtend_field, if_pos (by omega)]

theorem funnelL_eq (d x y : Dword) :
    funnelL d x y = BitVec.ofNat 64 ((d.toNat * 2 ^ 64 + x.toNat) * 2 ^ (y.toNat % 64) / 2 ^ 64) := by
  apply BitVec.eq_of_toNat_eq
  rw [funnelL, BitVec.extractLsb'_toNat, BitVec.toNat_shiftLeft, toNat_append_eq_add, BitVec.toNat_ofNat,
    Nat.shiftLeft_eq, Nat.shiftRight_eq_div_pow, Nat.pow_add 2 64 64, Nat.mod_mul_right_div_self, Nat.mod_mod]

theorem funnelR_eq (d x y : Dword) :
    funnelR d x y = BitVec.ofNat 64 ((d.toNat * 2 ^ 64 + x.toNat) / 2 ^ (y.toNat % 64)) := by
  apply BitVec.eq_of_toNat_eq
  rw [funnelR, BitVec.extractLsb'_toNat, BitVec.toNat_ushiftRight, toNat_append_eq_add, BitVec.toNat_ofNat,
    Nat.shiftRight_zero, Nat.shiftRight_eq_div_pow]

/-! ### Conditions (R112) -/

theorem condition_iff_holds {k : BitVec 4} (h : k.toNat ≤ 9) (x y : Dword) :
    condition k x y = true ↔ Holds k.toNat x y := by
  unfold condition Holds
  generalize k.toNat = cc at h
  match cc, h with
  | 0, _ => exact beq_iff_eq
  | 1, _ => exact bne_iff_ne
  | 2, _ => exact BitVec.slt_iff_toInt_lt
  | 3, _ => exact BitVec.sle_iff_toInt_le
  | 4, _ => exact BitVec.ult_iff_toNat_lt
  | 5, _ => exact BitVec.ule_iff_toNat_le
  | 6, _ => exact BitVec.slt_iff_toInt_lt
  | 7, _ => exact BitVec.sle_iff_toInt_le
  | 8, _ => exact BitVec.ult_iff_toNat_lt
  | 9, _ => exact BitVec.ule_iff_toNat_le
  | _ + 10, h => omega

theorem truth_condition_eq {k : BitVec 4} (h : k.toNat ≤ 9) (x y : Dword) [Decidable (Holds k.toNat x y)] :
    truth (condition k x y) = if Holds k.toNat x y then 1 else 0 :=
  ite_congr (propext (condition_iff_holds h x y)) (fun _ => rfl) (fun _ => rfl)

/-! ### Predicates (R113) -/

theorem popCount_toNat (x : Dword) (n : Nat) : popCount n x.toNat = setBits x n := by
  induction n with
  | zero => rfl
  | succ n ih => rw [popCount, setBits, ih, BitVec.testBit_toNat, bit, Nat.add_comm]

theorem countOnes_eq (x : Dword) : countOnes x = BitVec.ofNat 64 (setBits x 64) := by
  rw [countOnes, popCount_toNat]

/-- Predicate 24 is `qall` (R27). -/
theorem State.qreg_qall (s : State) (pos : Nat) {q : Nat} (h : 24 = q) : s.qreg pos q = 0xFFFFFFFFFFFFFFFF := by
  subst h; rfl

end Sys2Proof.Machine

namespace Sys2Proof.Proofs

open Sys2Proof.Machine Sys2Proof.Spec

/-- Settles O2, by the cases of R111: a zero divisor, the one quotient that wraps, and the rest. -/
theorem divisionAndItsCorners : Obligations.DivisionAndItsCorners := by
  intro s u a b c h
  dsimp only
  refine ⟨fun hy => ?_, fun ⟨hx, hy⟩ => ?_, fun hy _ => ?_, fun hy => ?_⟩
  · simp [exec_div, exec_divu, exec_rem, exec_remu, State.alu2_of_writable h, hy]
  · simp only [exec_div, exec_rem, State.alu2_of_writable h, hx, hy, divS_min_neg_one, remS_min_neg_one, and_self]
  · simp only [exec_div, exec_rem, State.alu2_of_writable h, divS_of_ne_zero _ hy, remS_of_ne_zero _ hy, and_self]
  · simp only [exec_divu, exec_remu, State.alu2_of_writable h, divU_of_ne_zero _ hy, remU_of_ne_zero _ hy, and_self]

/-- Settles O3, by the shapes of the three groups of forms and the value of each shift. -/
theorem shiftAndFunnelResults : Obligations.ShiftAndFunnelResults := by
  intro s u a b c
  dsimp only
  refine ⟨fun h => ?_, fun h n => ?_, fun h => ?_⟩
  · simp only [exec_shl, exec_shr, exec_sar, State.alu2_of_writable h, shiftL_eq, shiftR_eq, shiftA_eq, and_self]
  · simp only [exec_shli, exec_shri, exec_sari, State.alu1_of_writable h, shiftL_field, shiftR_field, shiftA_field,
      and_self]
  · simp only [exec_fshl, exec_fshr, State.alu3_of_reg s b c h, funnelL_eq, funnelR_eq, and_self]

/-- Settles O5: the model's condition is the one of R112 for each of the ten codes, and the decoder refuses the rest. -/
theorem compareWritesOneOrZero : Obligations.CompareWritesOneOrZero := by
  classical
  intro s u a b c k
  refine ⟨⟨rfl, rfl⟩, fun hk => ⟨decode_cmp_reserved u _ hk, decode_cmpi_reserved u _ hk⟩,
    fun hk => ⟨fun h => ?_, fun h => ?_⟩⟩
  · rw [exec_cmp, State.alu2_of_writable h, truth_condition_eq hk]
  · rw [exec_cmpi, State.alu1_of_writable h, truth_condition_eq hk]

/-- Settles O6, form by form: the results by their shapes, the words by the encoder, and the reserved MOD values of
QFROMS by the bits that the encoder does not give back. -/
theorem predicateResults : Obligations.PredicateResults := by
  intro s u a b c
  dsimp only
  refine ⟨exec_qand .., exec_qor .., exec_qxor .., exec_qnot .., ?_, ?_, fun h => ⟨?_, ?_⟩,
    s.qreg_qall 0, s.qreg_qall 1, ?_, fun k hk => decode_qfroms_reserved u _ hk⟩
  · rw [exec_qfroms, State.predOp_eq, if_pos rfl]
  · rw [exec_qfroms, State.predOp_eq, if_neg (by decide), ite_not]
  · rw [exec_qtos, s.settle_writeS_of_writable h]
  · rw [exec_qpopc, s.settle_writeS_of_writable h, countOnes_eq]
  · simp only [List.forall_mem_cons]
    exact ⟨rfl, rfl, rfl, rfl, encode_qfroms u a b 0, encode_qfroms u a b 1, rfl, rfl, nofun⟩

end Sys2Proof.Proofs
